-- ==== Sys2Proof/Syntax.lean ====
section
/-! DEFINITION. The instructions of the SW421 core: one constructor per row of the opcode table. -/

namespace Sys2Proof

/-- The two width letters of FIMOVx and IFMOVx (R882, R883: S and D; the letters are general knowledge, G12). -/
inductive MoveWidth where
  | s
  | d
deriving DecidableEq, Repr

/-- One instruction, as abstract syntax. Register numbers are the 5-bit fields of the word, displacements the
unextended fields; every constructor names the rule of spec/ that describes it. `hint` is the displacement field of a
jump, which no rule gives an effect. -/
inductive Instr where
  /-- SYS_CALL: system call (R411). -/
  | sysCall (fn : BitVec 25)
  /-- SYS_CALL_b: system call, form /b (R411). -/
  | sysCallB (fn : BitVec 25)
  /-- CALL: jump to subroutine through a register (R809). -/
  | call (ra : BitVec 5) (rb : BitVec 5) (hint : BitVec 16)
  /-- RET: return through a register (R810). -/
  | ret (ra : BitVec 5) (rb : BitVec 5) (hint : BitVec 16)
  /-- JMP: jump through a register (R811). -/
  | jmp (ra : BitVec 5) (rb : BitVec 5) (hint : BitVec 16)
  /-- BSR: branch to subroutine (R808). -/
  | bsr (ra : BitVec 5) (disp : BitVec 21)
  /-- MEMB: memory barrier (R440). -/
  | memb
  /-- IMEMB: instruction barrier (R441). -/
  | imemb
  /-- RTC: read the cycle counter; Rb only orders it (R747) (R446). -/
  | rtc (ra : BitVec 5) (rb : BitVec 5)
  /-- RCID: read the core number (R447). -/
  | rcid (ra : BitVec 5)
  /-- HALT: shallow sleep (R443). -/
  | halt
  /-- RD_F: read lock_success (R462). -/
  | rdF (ra : BitVec 5)
  /-- WR_F: write lock_flag (R461). -/
  | wrF (ra : BitVec 5)
  /-- RTID: read the thread number (R448). -/
  | rtid (ra : BitVec 5)
  /-- PRI_RCSR: read a CSR (R416). -/
  | priRcsr (ra : BitVec 5) (idx : BitVec 8)
  /-- PRI_WCSR: write a CSR (R417). -/
  | priWcsr (ra : BitVec 5) (idx : BitVec 8)
  /-- PRI_RET: return from a privileged program (R415). -/
  | priRet (ra : BitVec 5)
  /-- PRI_RET_b: the same, form /b (R415). -/
  | priRetB (ra : BitVec 5)
  /-- LLDW: lock load, word (R456). -/
  | lldw (ra : BitVec 5) (rb : BitVec 5) (disp : BitVec 12)
  /-- LLDL: lock load, longword (R457). -/
  | lldl (ra : BitVec 5) (rb : BitVec 5) (disp : BitVec 12)
  /-- LDW_INC: fetch and increment, word (R464). -/
  | ldwInc (ra : BitVec 5) (rb : BitVec 5) (disp : BitVec 12)
  /-- LDL_INC: fetch and increment, longword (R465). -/
  | ldlInc (ra : BitVec 5) (rb : BitVec 5) (disp : BitVec 12)
  /-- LDW_DEC: fetch and decrement, word (R466). -/
  | ldwDec (ra : BitVec 5) (rb : BitVec 5) (disp : BitVec 12)
  /-- LDL_DEC: fetch and decrement, longword (R467). -/
  | ldlDec (ra : BitVec 5) (rb : BitVec 5) (disp : BitVec 12)
  /-- LDW_SET: fetch and set, word (R468). -/
  | ldwSet (ra : BitVec 5) (rb : BitVec 5) (disp : BitVec 12)
  /-- LDL_SET: fetch and set, longword (R469). -/
  | ldlSet (ra : BitVec 5) (rb : BitVec 5) (disp : BitVec 12)
  /-- LSTW: lock store, word (R458). -/
  | lstw (ra : BitVec 5) (rb : BitVec 5) (disp : BitVec 12)
  /-- LSTL: lock store, longword (R459). -/
  | lstl (ra : BitVec 5) (rb : BitVec 5) (disp : BitVec 12)
  /-- LDW_NC: non-cacheable load word (R833). -/
  | ldwNc (ra : BitVec 5) (rb : BitVec 5) (disp : BitVec 12)
  /-- LDL_NC: non-cacheable load longword (R834). -/
  | ldlNc (ra : BitVec 5) (rb : BitVec 5) (disp : BitVec 12)
  /-- LDD_NC: non-cacheable load double (R835). -/
  | lddNc (fa : BitVec 5) (rb : BitVec 5) (disp : BitVec 12)
  /-- STW_NC: non-cacheable store word (R836). -/
  | stwNc (ra : BitVec 5) (rb : BitVec 5) (disp : BitVec 12)
  /-- STL_NC: non-cacheable store longword (R837). -/
  | stlNc (ra : BitVec 5) (rb : BitVec 5) (disp : BitVec 12)
  /-- STD_NC: non-cacheable store double (R838). -/
  | stdNc (fa : BitVec 5) (rb : BitVec 5) (disp : BitVec 12)
  /-- ADDW: add word (R866). -/
  | addw (ra : BitVec 5) (rb : BitVec 5) (rc : BitVec 5)
  /-- MULW: multiply word (R870). -/
  | mulw (ra : BitVec 5) (rb : BitVec 5) (rc : BitVec 5)
  /-- MULL: multiply longword (R871). -/
  | mull (ra : BitVec 5) (rb : BitVec 5) (rc : BitVec 5)
  /-- UMULH: unsigned multiply high (R872). -/
  | umulh (ra : BitVec 5) (rb : BitVec 5) (rc : BitVec 5)
  /-- CMPEQ: compare equal (R867). -/
  | cmpeq (ra : BitVec 5) (rb : BitVec 5) (rc : BitVec 5)
  /-- BIS: bitwise or (R868). -/
  | bis (ra : BitVec 5) (rb : BitVec 5) (rc : BitVec 5)
  /-- XOR: bitwise exclusive or (R869). -/
  | xor (ra : BitVec 5) (rb : BitVec 5) (rc : BitVec 5)
  /-- ADDW__literal_form: add word, literal form (R802) (R866). -/
  | addwLit (ra : BitVec 5) (lit : BitVec 8) (rc : BitVec 5)
  /-- MULW__literal_form: multiply word, literal form (R802) (R870). -/
  | mulwLit (ra : BitVec 5) (lit : BitVec 8) (rc : BitVec 5)
  /-- MULL__literal_form: multiply longword, literal form (R802) (R871). -/
  | mullLit (ra : BitVec 5) (lit : BitVec 8) (rc : BitVec 5)
  /-- UMULH__literal_form: unsigned multiply high, literal form (R802) (R872). -/
  | umulhLit (ra : BitVec 5) (lit : BitVec 8) (rc : BitVec 5)
  /-- CMPEQ__literal_form: compare equal, literal form (R802) (R867). -/
  | cmpeqLit (ra : BitVec 5) (lit : BitVec 8) (rc : BitVec 5)
  /-- BIS__literal_form: bitwise or, literal form (R802) (R868). -/
  | bisLit (ra : BitVec 5) (lit : BitVec 8) (rc : BitVec 5)
  /-- XOR__literal_form: bitwise exclusive or, literal form (R802) (R869). -/
  | xorLit (ra : BitVec 5) (lit : BitVec 8) (rc : BitVec 5)
  /-- FADDD: floating add (R875). -/
  | faddd (fa : BitVec 5) (fb : BitVec 5) (fc : BitVec 5)
  /-- RFPCR: read FPCR (R449). -/
  | rfpcr (fa : BitVec 5)
  /-- WFPCR: write FPCR (R450). -/
  | wfpcr (fa : BitVec 5)
  /-- SETFPEC0: set FPCR[EXC_CTL] to 0 (R451). -/
  | setfpec0
  /-- SETFPEC1: set FPCR[EXC_CTL] to 1 (R452). -/
  | setfpec1
  /-- SETFPEC2: set FPCR[EXC_CTL] to 2 (R453). -/
  | setfpec2
  /-- SETFPEC3: set FPCR[EXC_CTL] to 3 (R454). -/
  | setfpec3
  /-- LDBU: load byte unsigned (R827). -/
  | ldbu (ra : BitVec 5) (rb : BitVec 5) (disp : BitVec 16)
  /-- LDHU: load halfword unsigned (R816). -/
  | ldhu (ra : BitVec 5) (rb : BitVec 5) (disp : BitVec 16)
  /-- LDW: load word (R817). -/
  | ldw (ra : BitVec 5) (rb : BitVec 5) (disp : BitVec 16)
  /-- LDL: load longword (R818). -/
  | ldl (ra : BitVec 5) (rb : BitVec 5) (disp : BitVec 16)
  /-- LDL_U: load longword, form _U (R819). -/
  | ldlU (ra : BitVec 5) (rb : BitVec 5) (disp : BitVec 16)
  /-- FLDS: load single (R823). -/
  | flds (fa : BitVec 5) (rb : BitVec 5) (disp : BitVec 16)
  /-- FLDD: load double (R824). -/
  | fldd (fa : BitVec 5) (rb : BitVec 5) (disp : BitVec 16)
  /-- STB: store byte (R827). -/
  | stb (ra : BitVec 5) (rb : BitVec 5) (disp : BitVec 16)
  /-- STH: store halfword (R820). -/
  | sth (ra : BitVec 5) (rb : BitVec 5) (disp : BitVec 16)
  /-- STW: store word (R821). -/
  | stw (ra : BitVec 5) (rb : BitVec 5) (disp : BitVec 16)
  /-- STL: store longword (R822). -/
  | stl (ra : BitVec 5) (rb : BitVec 5) (disp : BitVec 16)
  /-- FSTS: store single (R825). -/
  | fsts (fa : BitVec 5) (rb : BitVec 5) (disp : BitVec 16)
  /-- FSTD: store double (R826). -/
  | fstd (fa : BitVec 5) (rb : BitVec 5) (disp : BitVec 16)
  /-- LDI: load address (R863). -/
  | ldi (ra : BitVec 5) (rb : BitVec 5) (disp : BitVec 16)
  /-- BEQ: branch if equal to zero (R806). -/
  | beq (ra : BitVec 5) (disp : BitVec 21)
  /-- BNE: branch if not equal to zero (R807). -/
  | bne (ra : BitVec 5) (disp : BitVec 21)
  /-- PRI_LDW_p: privileged load (R421). -/
  | priLdwP (ra : BitVec 5) (rb : BitVec 5) (disp : BitVec 12)
  /-- PRI_LDL_p: privileged load (R421). -/
  | priLdlP (ra : BitVec 5) (rb : BitVec 5) (disp : BitVec 12)
  /-- PRI_LDW_INC_p: privileged load (R424). -/
  | priLdwIncP (ra : BitVec 5) (rb : BitVec 5) (disp : BitVec 12)
  /-- PRI_LDL_INC_p: privileged load (R424). -/
  | priLdlIncP (ra : BitVec 5) (rb : BitVec 5) (disp : BitVec 12)
  /-- PRI_LDW_DEC_p: privileged load (R424). -/
  | priLdwDecP (ra : BitVec 5) (rb : BitVec 5) (disp : BitVec 12)
  /-- PRI_LDL_DEC_p: privileged load (R424). -/
  | priLdlDecP (ra : BitVec 5) (rb : BitVec 5) (disp : BitVec 12)
  /-- PRI_LDW_SET_p: privileged load (R424). -/
  | priLdwSetP (ra : BitVec 5) (rb : BitVec 5) (disp : BitVec 12)
  /-- PRI_LDL_SET_p: privileged load (R424). -/
  | priLdlSetP (ra : BitVec 5) (rb : BitVec 5) (disp : BitVec 12)
  /-- PRI_LDW_v: privileged load (R422). -/
  | priLdwV (ra : BitVec 5) (rb : BitVec 5) (disp : BitVec 12)
  /-- PRI_LDL_v: privileged load (R422). -/
  | priLdlV (ra : BitVec 5) (rb : BitVec 5) (disp : BitVec 12)
  /-- PRI_LDW_vpte: privileged load (R423). -/
  | priLdwVpte (ra : BitVec 5) (rb : BitVec 5) (disp : BitVec 12)
  /-- PRI_LDL_vpte: privileged load (R423). -/
  | priLdlVpte (ra : BitVec 5) (rb : BitVec 5) (disp : BitVec 12)
  /-- PRI_STW_p: privileged store (R425). -/
  | priStwP (ra : BitVec 5) (rb : BitVec 5) (disp : BitVec 12)
  /-- PRI_STL_p: privileged store (R425). -/
  | priStlP (ra : BitVec 5) (rb : BitVec 5) (disp : BitVec 12)
  /-- PRI_STW_v: privileged store (R426). -/
  | priStwV (ra : BitVec 5) (rb : BitVec 5) (disp : BitVec 12)
  /-- PRI_STL_v: privileged store (R426). -/
  | priStlV (ra : BitVec 5) (rb : BitVec 5) (disp : BitVec 12)
  /-- FETCHD: prefetch (R471). -/
  | fetchd (rb : BitVec 5) (disp : BitVec 16)
  /-- FETCHD_E: prefetch for writing (R472). -/
  | fetchdE (rb : BitVec 5) (disp : BitVec 16)
  /-- FLUSHD: flush a line (R473). -/
  | flushd (rb : BitVec 5) (disp : BitVec 16)
  /-- EVICTDL: local evict (R474). -/
  | evictdl (rb : BitVec 5) (disp : BitVec 16)
  /-- EVICTDG: global evict (R475). -/
  | evictdg (rb : BitVec 5) (disp : BitVec 16)
  /-- VLDD_NC (R839). -/
  | vlddNc (fa : BitVec 5) (rb : BitVec 5) (disp : BitVec 16)
  /-- VSTD_NC (R840). -/
  | vstdNc (fa : BitVec 5) (rb : BitVec 5) (disp : BitVec 16)
  /-- VLDS (R843). -/
  | vlds (fa : BitVec 5) (rb : BitVec 5) (disp : BitVec 16)
  /-- VLDD (R844). -/
  | vldd (fa : BitVec 5) (rb : BitVec 5) (disp : BitVec 16)
  /-- LDWE (R845). -/
  | ldwe (fa : BitVec 5) (rb : BitVec 5) (disp : BitVec 16)
  /-- LDSE (R846). -/
  | ldse (fa : BitVec 5) (rb : BitVec 5) (disp : BitVec 16)
  /-- LDDE (R847). -/
  | ldde (fa : BitVec 5) (rb : BitVec 5) (disp : BitVec 16)
  /-- VLDW_U (R848). -/
  | vldwU (fa : BitVec 5) (rb : BitVec 5) (disp : BitVec 16)
  /-- VLDS_U (R849). -/
  | vldsU (fa : BitVec 5) (rb : BitVec 5) (disp : BitVec 16)
  /-- VLDD_U (R850). -/
  | vlddU (fa : BitVec 5) (rb : BitVec 5) (disp : BitVec 16)
  /-- VSTS (R853). -/
  | vsts (fa : BitVec 5) (rb : BitVec 5) (disp : BitVec 16)
  /-- VSTD (R854). -/
  | vstd (fa : BitVec 5) (rb : BitVec 5) (disp : BitVec 16)
  /-- VSTW_UL (R855). -/
  | vstwUl (fa : BitVec 5) (rb : BitVec 5) (disp : BitVec 16)
  /-- VSTW_UH (R856). -/
  | vstwUh (fa : BitVec 5) (rb : BitVec 5) (disp : BitVec 16)
  /-- VSTS_UL (R857). -/
  | vstsUl (fa : BitVec 5) (rb : BitVec 5) (disp : BitVec 16)
  /-- VSTS_UH (R858). -/
  | vstsUh (fa : BitVec 5) (rb : BitVec 5) (disp : BitVec 16)
  /-- VSTD_UL (R859). -/
  | vstdUl (fa : BitVec 5) (rb : BitVec 5) (disp : BitVec 16)
  /-- VSTD_UH (R860). -/
  | vstdUh (fa : BitVec 5) (rb : BitVec 5) (disp : BitVec 16)
  /-- VADDD (R876). -/
  | vaddd (fa : BitVec 5) (fb : BitVec 5) (fc : BitVec 5)
  /-- VINSF (R877). -/
  | vinsf (fa : BitVec 5) (fb : BitVec 5) (lit : BitVec 8) (fc : BitVec 5)
  /-- VINSW (R878). -/
  | vinsw (fa : BitVec 5) (fb : BitVec 5) (lit : BitVec 8) (fc : BitVec 5)
  /-- VCPYF (R879). -/
  | vcpyf (fa : BitVec 5) (fc : BitVec 5)
  /-- VEXTF (R880). -/
  | vextf (fa : BitVec 5) (lit : BitVec 8) (fc : BitVec 5)
  /-- VEXTW (R881). -/
  | vextw (fa : BitVec 5) (lit : BitVec 8) (fc : BitVec 5)
  /-- FIMOVx (R882). -/
  | fimov (w : MoveWidth) (fa : BitVec 5) (rc : BitVec 5)
  /-- IFMOVx (R883). -/
  | ifmov (w : MoveWidth) (ra : BitVec 5) (fc : BitVec 5)
  /-- JSR (R812). -/
  | jsr (ra : BitVec 5) (rb : BitVec 5)
  /-- NOP (R392). -/
  | nop
deriving DecidableEq, Repr

end Sys2Proof
end

