-- ==== Sys2Proof/WellFormed.lean ====
section
/-! DEFINITION. Which instructions are well formed. -/

namespace Sys2Proof

/-- The bounds the field widths of `Instr` do not already give: the literal of a lane move names one of the four
64-bit lanes (VINSF, VEXTF: R877, R880) or one of the eight 32-bit elements (VINSW, VEXTW: R878, R881). Every register
number, displacement, CSR index and SYS_CALL function is well formed: an index that names no CSR (R49, R391) and an
illegal SYS_CALL function (R390) are legal words whose effect the machine gives. -/
def Instr.wellFormed : Instr → Bool
  | .sysCall _ => true
  | .sysCallB _ => true
  | .call _ _ _ => true
  | .ret _ _ _ => true
  | .jmp _ _ _ => true
  | .bsr _ _ => true
  | .memb => true
  | .imemb => true
  | .rtc _ _ => true
  | .rcid _ => true
  | .halt => true
  | .rdF _ => true
  | .wrF _ => true
  | .rtid _ => true
  | .priRcsr _ _ => true
  | .priWcsr _ _ => true
  | .priRet _ => true
  | .priRetB _ => true
  | .lldw _ _ _ => true
  | .lldl _ _ _ => true
  | .ldwInc _ _ _ => true
  | .ldlInc _ _ _ => true
  | .ldwDec _ _ _ => true
  | .ldlDec _ _ _ => true
  | .ldwSet _ _ _ => true
  | .ldlSet _ _ _ => true
  | .lstw _ _ _ => true
  | .lstl _ _ _ => true
  | .ldwNc _ _ _ => true
  | .ldlNc _ _ _ => true
  | .lddNc _ _ _ => true
  | .stwNc _ _ _ => true
  | .stlNc _ _ _ => true
  | .stdNc _ _ _ => true
  | .addw _ _ _ => true
  | .mulw _ _ _ => true
  | .mull _ _ _ => true
  | .umulh _ _ _ => true
  | .cmpeq _ _ _ => true
  | .bis _ _ _ => true
  | .xor _ _ _ => true
  | .addwLit _ _ _ => true
  | .mulwLit _ _ _ => true
  | .mullLit _ _ _ => true
  | .umulhLit _ _ _ => true
  | .cmpeqLit _ _ _ => true
  | .bisLit _ _ _ => true
  | .xorLit _ _ _ => true
  | .faddd _ _ _ => true
  | .rfpcr _ => true
  | .wfpcr _ => true
  | .setfpec0 => true
  | .setfpec1 => true
  | .setfpec2 => true
  | .setfpec3 => true
  | .ldbu _ _ _ => true
  | .ldhu _ _ _ => true
  | .ldw _ _ _ => true
  | .ldl _ _ _ => true
  | .ldlU _ _ _ => true
  | .flds _ _ _ => true
  | .fldd _ _ _ => true
  | .stb _ _ _ => true
  | .sth _ _ _ => true
  | .stw _ _ _ => true
  | .stl _ _ _ => true
  | .fsts _ _ _ => true
  | .fstd _ _ _ => true
  | .ldi _ _ _ => true
  | .beq _ _ => true
  | .bne _ _ => true
  | .priLdwP _ _ _ => true
  | .priLdlP _ _ _ => true
  | .priLdwIncP _ _ _ => true
  | .priLdlIncP _ _ _ => true
  | .priLdwDecP _ _ _ => true
  | .priLdlDecP _ _ _ => true
  | .priLdwSetP _ _ _ => true
  | .priLdlSetP _ _ _ => true
  | .priLdwV _ _ _ => true
  | .priLdlV _ _ _ => true
  | .priLdwVpte _ _ _ => true
  | .priLdlVpte _ _ _ => true
  | .priStwP _ _ _ => true
  | .priStlP _ _ _ => true
  | .priStwV _ _ _ => true
  | .priStlV _ _ _ => true
  | .fetchd _ _ => true
  | .fetchdE _ _ => true
  | .flushd _ _ => true
  | .evictdl _ _ => true
  | .evictdg _ _ => true
  | .vlddNc _ _ _ => true
  | .vstdNc _ _ _ => true
  | .vlds _ _ _ => true
  | .vldd _ _ _ => true
  | .ldwe _ _ _ => true
  | .ldse _ _ _ => true
  | .ldde _ _ _ => true
  | .vldwU _ _ _ => true
  | .vldsU _ _ _ => true
  | .vlddU _ _ _ => true
  | .vsts _ _ _ => true
  | .vstd _ _ _ => true
  | .vstwUl _ _ _ => true
  | .vstwUh _ _ _ => true
  | .vstsUl _ _ _ => true
  | .vstsUh _ _ _ => true
  | .vstdUl _ _ _ => true
  | .vstdUh _ _ _ => true
  | .vaddd _ _ _ => true
  | .vinsf _ _ lit _ => decide (lit.toNat < 4)
  | .vinsw _ _ lit _ => decide (lit.toNat < 8)
  | .vcpyf _ _ => true
  | .vextf _ lit _ => decide (lit.toNat < 4)
  | .vextw _ lit _ => decide (lit.toNat < 8)
  | .fimov _ _ _ => true
  | .ifmov _ _ _ => true
  | .jsr _ _ => true
  | .nop => true

end Sys2Proof
end

