-- ==== Sys2Proof/Decode.lean ====
section
/-! DEFINITION. The conventional decoder and encoder of 30_encoding.md section 5 (R400–R404, PRESUMED: log 9): what
D00 fixes of a word (R380–R387) is in it, the rest is the writer's recollection of the toolchain tables. -/

namespace Sys2Proof

/-- Why a word decodes to no instruction; each is a reserved encoding, which the machine turns into OPCDEC (R390). -/
inductive DecodeError where
  /-- The opcode field names no instruction of the table. -/
  | reservedOpcode (op : BitVec 6)
  /-- The opcode is one R404 names beside the opcode table: what the word does is `Params.base`'s (log 65). -/
  | baseInstruction (op : BitVec 6)
  /-- The opcode is known and its function field names no instruction of the table. -/
  | reservedFunction (op : BitVec 6) (fn : BitVec 16)
  /-- There are not four bytes to read a word from. -/
  | tooFewBytes
deriving DecidableEq, Repr

/-- The fields of R401, each read once here. -/
def fldOp (w : BitVec 32) : BitVec 6 := w.extractLsb' 26 6
/-- Ra, bits [25:21]. -/
def fldA (w : BitVec 32) : BitVec 5 := w.extractLsb' 21 5
/-- Rb, bits [20:16]. -/
def fldB (w : BitVec 32) : BitVec 5 := w.extractLsb' 16 5
/-- Rc, bits [4:0]. -/
def fldC (w : BitVec 32) : BitVec 5 := w.extractLsb' 0 5
/-- The 16-bit displacement or function of the memory format, bits [15:0]. -/
def fld16 (w : BitVec 32) : BitVec 16 := w.extractLsb' 0 16
/-- The function of the memory format with function, bits [15:12]. -/
def fldFn4 (w : BitVec 32) : BitVec 4 := w.extractLsb' 12 4
/-- The displacement of the memory format with function, bits [11:0]. -/
def fld12 (w : BitVec 32) : BitVec 12 := w.extractLsb' 0 12
/-- The branch displacement, bits [20:0]. -/
def fld21 (w : BitVec 32) : BitVec 21 := w.extractLsb' 0 21
/-- The function of the operate format, bits [12:5]. -/
def fldFn8 (w : BitVec 32) : BitVec 8 := w.extractLsb' 5 8
/-- Bits [15:13], zero in the operate format with registers. -/
def fldZ (w : BitVec 32) : BitVec 3 := w.extractLsb' 13 3
/-- The literal of the operate format, bits [20:13]. -/
def fldLit (w : BitVec 32) : BitVec 8 := w.extractLsb' 13 8

/-- Opcode 0x06, the miscellaneous group: the function is all of [15:0], and for the CSR accesses its high byte
(R384, R404). -/
def decodeMisc (w : BitVec 32) : Except DecodeError Instr :=
  match w.extractLsb' 8 8 with
  | 0xFE#8 => .ok (.priRcsr (fldA w) (w.extractLsb' 0 8))
  | 0xFF#8 => .ok (.priWcsr (fldA w) (w.extractLsb' 0 8))
  | _ =>
    match fld16 w with
    | 0x0000#16 => .ok (.memb)
    | 0x0001#16 => .ok (.imemb)
    | 0x0020#16 => .ok (.rtc (fldA w) (fldB w))
    | 0x0040#16 => .ok (.rcid (fldA w))
    | 0x0080#16 => .ok (.halt)
    | 0x1000#16 => .ok (.rdF (fldA w))
    | 0x1020#16 => .ok (.wrF (fldA w))
    | 0x1040#16 => .ok (.rtid (fldA w))
    | _ => .error (.reservedFunction 0x06#6 (fld16 w))

/-- Opcode 0x08: lock, atomic and non-cacheable accesses, function [15:12] (R404); all sixteen values are used. -/
def decodeMem08 (w : BitVec 32) : Except DecodeError Instr :=
  match fldFn4 w with
  | 0x0#4 => .ok (.lldw (fldA w) (fldB w) (fld12 w))
  | 0x1#4 => .ok (.lldl (fldA w) (fldB w) (fld12 w))
  | 0x2#4 => .ok (.ldwInc (fldA w) (fldB w) (fld12 w))
  | 0x3#4 => .ok (.ldlInc (fldA w) (fldB w) (fld12 w))
  | 0x4#4 => .ok (.ldwDec (fldA w) (fldB w) (fld12 w))
  | 0x5#4 => .ok (.ldlDec (fldA w) (fldB w) (fld12 w))
  | 0x6#4 => .ok (.ldwSet (fldA w) (fldB w) (fld12 w))
  | 0x7#4 => .ok (.ldlSet (fldA w) (fldB w) (fld12 w))
  | 0x8#4 => .ok (.lstw (fldA w) (fldB w) (fld12 w))
  | 0x9#4 => .ok (.lstl (fldA w) (fldB w) (fld12 w))
  | 0xA#4 => .ok (.ldwNc (fldA w) (fldB w) (fld12 w))
  | 0xB#4 => .ok (.ldlNc (fldA w) (fldB w) (fld12 w))
  | 0xC#4 => .ok (.lddNc (fldA w) (fldB w) (fld12 w))
  | 0xD#4 => .ok (.stwNc (fldA w) (fldB w) (fld12 w))
  | 0xE#4 => .ok (.stlNc (fldA w) (fldB w) (fld12 w))
  | 0xF#4 => .ok (.stdNc (fldA w) (fldB w) (fld12 w))
  | _ => .error (.reservedFunction 0x08#6 (fld16 w))

/-- Opcode 0x10: integer operate, register form (R401, R404). -/
def decodeOpReg (w : BitVec 32) : Except DecodeError Instr :=
  match fldFn8 w with
  | 0x0#8 => .ok (.addw (fldA w) (fldB w) (fldC w))
  | 0x10#8 => .ok (.mulw (fldA w) (fldB w) (fldC w))
  | 0x18#8 => .ok (.mull (fldA w) (fldB w) (fldC w))
  | 0x19#8 => .ok (.umulh (fldA w) (fldB w) (fldC w))
  | 0x28#8 => .ok (.cmpeq (fldA w) (fldB w) (fldC w))
  | 0x3A#8 => .ok (.bis (fldA w) (fldB w) (fldC w))
  | 0x3C#8 => .ok (.xor (fldA w) (fldB w) (fldC w))
  | _ => .error (.reservedFunction 0x10#6 (fld16 w))

/-- Opcode 0x12: integer operate, literal form (R401, R404). -/
def decodeOpLit (w : BitVec 32) : Except DecodeError Instr :=
  match fldFn8 w with
  | 0x0#8 => .ok (.addwLit (fldA w) (fldLit w) (fldC w))
  | 0x10#8 => .ok (.mulwLit (fldA w) (fldLit w) (fldC w))
  | 0x18#8 => .ok (.mullLit (fldA w) (fldLit w) (fldC w))
  | 0x19#8 => .ok (.umulhLit (fldA w) (fldLit w) (fldC w))
  | 0x28#8 => .ok (.cmpeqLit (fldA w) (fldLit w) (fldC w))
  | 0x3A#8 => .ok (.bisLit (fldA w) (fldLit w) (fldC w))
  | 0x3C#8 => .ok (.xorLit (fldA w) (fldLit w) (fldC w))
  | _ => .error (.reservedFunction 0x12#6 (fld16 w))

/-- Opcode 0x18: floating operate (R404). -/
def decodeFloat (w : BitVec 32) : Except DecodeError Instr :=
  match fldFn8 w with
  | 0x1#8 => .ok (.faddd (fldA w) (fldB w) (fldC w))
  | 0x50#8 => .ok (.rfpcr (fldA w))
  | 0x51#8 => .ok (.wfpcr (fldA w))
  | 0x54#8 => .ok (.setfpec0)
  | 0x55#8 => .ok (.setfpec1)
  | 0x56#8 => .ok (.setfpec2)
  | 0x57#8 => .ok (.setfpec3)
  | _ => .error (.reservedFunction 0x18#6 (fld16 w))

/-- Opcode 0x25: PRI_LD, function [15:12] (R403). -/
def decodePriLd (w : BitVec 32) : Except DecodeError Instr :=
  match fldFn4 w with
  | 0x0#4 => .ok (.priLdwP (fldA w) (fldB w) (fld12 w))
  | 0x1#4 => .ok (.priLdlP (fldA w) (fldB w) (fld12 w))
  | 0x2#4 => .ok (.priLdwIncP (fldA w) (fldB w) (fld12 w))
  | 0x3#4 => .ok (.priLdlIncP (fldA w) (fldB w) (fld12 w))
  | 0x4#4 => .ok (.priLdwDecP (fldA w) (fldB w) (fld12 w))
  | 0x5#4 => .ok (.priLdlDecP (fldA w) (fldB w) (fld12 w))
  | 0x6#4 => .ok (.priLdwSetP (fldA w) (fldB w) (fld12 w))
  | 0x7#4 => .ok (.priLdlSetP (fldA w) (fldB w) (fld12 w))
  | 0x8#4 => .ok (.priLdwV (fldA w) (fldB w) (fld12 w))
  | 0x9#4 => .ok (.priLdlV (fldA w) (fldB w) (fld12 w))
  | 0xA#4 => .ok (.priLdwVpte (fldA w) (fldB w) (fld12 w))
  | 0xB#4 => .ok (.priLdlVpte (fldA w) (fldB w) (fld12 w))
  | _ => .error (.reservedFunction 0x25#6 (fld16 w))

/-- Opcode 0x2D: PRI_ST, function [15:12] (R403). -/
def decodePriSt (w : BitVec 32) : Except DecodeError Instr :=
  match fldFn4 w with
  | 0x0#4 => .ok (.priStwP (fldA w) (fldB w) (fld12 w))
  | 0x1#4 => .ok (.priStlP (fldA w) (fldB w) (fld12 w))
  | 0x8#4 => .ok (.priStwV (fldA w) (fldB w) (fld12 w))
  | 0x9#4 => .ok (.priStlV (fldA w) (fldB w) (fld12 w))
  | _ => .error (.reservedFunction 0x2D#6 (fld16 w))

/-- The instruction a word stands for; every word the table does not match is rejected by name (R390, R404). -/
def decodeWord (w : BitVec 32) : Except DecodeError Instr :=
  match fldOp w with
  | 0x00#6 => if w.getLsbD 25 then .ok (.sysCall (w.extractLsb' 0 25)) else .ok (.sysCallB (w.extractLsb' 0 25))
  | 0x01#6 => .ok (.call (fldA w) (fldB w) (fld16 w))
  | 0x02#6 => .ok (.ret (fldA w) (fldB w) (fld16 w))
  | 0x03#6 => .ok (.jmp (fldA w) (fldB w) (fld16 w))
  | 0x05#6 => .ok (.bsr (fldA w) (fld21 w))
  | 0x06#6 => decodeMisc w
  | 0x07#6 => if w.getLsbD 20 then .ok (.priRetB (fldA w)) else .ok (.priRet (fldA w))
  | 0x08#6 => decodeMem08 w
  | 0x10#6 => if fldZ w = 0#3 then decodeOpReg w else .error (.reservedFunction 0x10#6 (fld16 w))
  | 0x12#6 => decodeOpLit w
  | 0x18#6 => if fldZ w = 0#3 then decodeFloat w else .error (.reservedFunction 0x18#6 (fld16 w))
  | 0x20#6 => .ok (.ldbu (fldA w) (fldB w) (fld16 w))
  | 0x21#6 => .ok (.ldhu (fldA w) (fldB w) (fld16 w))
  | 0x22#6 => .ok (.ldw (fldA w) (fldB w) (fld16 w))
  | 0x23#6 => .ok (.ldl (fldA w) (fldB w) (fld16 w))
  | 0x24#6 => .ok (.ldlU (fldA w) (fldB w) (fld16 w))
  | 0x25#6 => decodePriLd w
  | 0x26#6 => .ok (.flds (fldA w) (fldB w) (fld16 w))
  | 0x27#6 => .ok (.fldd (fldA w) (fldB w) (fld16 w))
  | 0x28#6 => .ok (.stb (fldA w) (fldB w) (fld16 w))
  | 0x29#6 => .ok (.sth (fldA w) (fldB w) (fld16 w))
  | 0x2A#6 => .ok (.stw (fldA w) (fldB w) (fld16 w))
  | 0x2B#6 => .ok (.stl (fldA w) (fldB w) (fld16 w))
  | 0x2D#6 => decodePriSt w
  | 0x2E#6 => .ok (.fsts (fldA w) (fldB w) (fld16 w))
  | 0x2F#6 => .ok (.fstd (fldA w) (fldB w) (fld16 w))
  | 0x30#6 => .ok (.beq (fldA w) (fld21 w))
  | 0x31#6 => .ok (.bne (fldA w) (fld21 w))
  | 0x3E#6 => .ok (.ldi (fldA w) (fldB w) (fld16 w))
  | 0x04#6 => .error (.baseInstruction 0x04#6)
  | 0x2C#6 => .error (.baseInstruction 0x2C#6)
  | 0x3F#6 => .error (.baseInstruction 0x3F#6)
  | op => .error (.reservedOpcode op)

/-- Four bytes, the first at the lowest address, as one word (R380: little-endian). -/
def wordOfBytes (b0 b1 b2 b3 : BitVec 8) : BitVec 32 := b3 ++ b2 ++ b1 ++ b0

/-- The four bytes of a word in memory order (R380). -/
def bytesOfWord (w : BitVec 32) : List (BitVec 8) :=
  [w.extractLsb' 0 8, w.extractLsb' 8 8, w.extractLsb' 16 8, w.extractLsb' 24 8]

/-- Decode the first instruction of a byte sequence and return the bytes after it: total on any bytes. -/
def decode : List (BitVec 8) → Except DecodeError (Instr × List (BitVec 8))
  | b0 :: b1 :: b2 :: b3 :: rest =>
    match decodeWord (wordOfBytes b0 b1 b2 b3) with
    | .ok i => .ok (i, rest)
    | .error e => .error e
  | _ => .error .tooFewBytes

/-- The host's view of the decoder: the instruction whose table bits are `w`, laid out as the four little-endian bytes
of the word (every instruction is one 32-bit word, so `nbits` only cuts `w`). -/
def decodeTableWord (nbits w : Nat) : Option Instr :=
  match decode (bytesOfWord (BitVec.ofNat 32 (w % 2 ^ nbits))) with
  | .ok (i, _) => some i
  | .error _ => none

/-- The word of an instruction, from the same tables; register fields the instruction does not use hold 31, as the
assembler writes them (R401), the unused low bits of PRI_RET zero. `none` for the 33 instructions whose encoding no
source gives (R404). -/
def encode : Instr → Option (BitVec 32)
  | .sysCall fn => some (0x0#6 ++ 0x1#1 ++ fn)
  | .sysCallB fn => some (0x0#6 ++ 0x0#1 ++ fn)
  | .call ra rb hint => some (0x1#6 ++ ra ++ rb ++ hint)
  | .ret ra rb hint => some (0x2#6 ++ ra ++ rb ++ hint)
  | .jmp ra rb hint => some (0x3#6 ++ ra ++ rb ++ hint)
  | .bsr ra disp => some (0x5#6 ++ ra ++ disp)
  | .memb => some (0x6#6 ++ 0x1F#5 ++ 0x1F#5 ++ 0x0#16)
  | .imemb => some (0x6#6 ++ 0x1F#5 ++ 0x1F#5 ++ 0x1#16)
  | .rtc ra rb => some (0x6#6 ++ ra ++ rb ++ 0x20#16)
  | .rcid ra => some (0x6#6 ++ ra ++ 0x1F#5 ++ 0x40#16)
  | .halt => some (0x6#6 ++ 0x1F#5 ++ 0x1F#5 ++ 0x80#16)
  | .rdF ra => some (0x6#6 ++ ra ++ 0x1F#5 ++ 0x1000#16)
  | .wrF ra => some (0x6#6 ++ ra ++ 0x1F#5 ++ 0x1020#16)
  | .rtid ra => some (0x6#6 ++ ra ++ 0x1F#5 ++ 0x1040#16)
  | .priRcsr ra idx => some (0x6#6 ++ ra ++ 0x1F#5 ++ 0xFE#8 ++ idx)
  | .priWcsr ra idx => some (0x6#6 ++ ra ++ 0x1F#5 ++ 0xFF#8 ++ idx)
  | .priRet ra => some (0x7#6 ++ ra ++ 0x0#1 ++ 0x0#20)
  | .priRetB ra => some (0x7#6 ++ ra ++ 0x1#1 ++ 0x0#20)
  | .lldw ra rb disp => some (0x8#6 ++ ra ++ rb ++ 0x0#4 ++ disp)
  | .lldl ra rb disp => some (0x8#6 ++ ra ++ rb ++ 0x1#4 ++ disp)
  | .ldwInc ra rb disp => some (0x8#6 ++ ra ++ rb ++ 0x2#4 ++ disp)
  | .ldlInc ra rb disp => some (0x8#6 ++ ra ++ rb ++ 0x3#4 ++ disp)
  | .ldwDec ra rb disp => some (0x8#6 ++ ra ++ rb ++ 0x4#4 ++ disp)
  | .ldlDec ra rb disp => some (0x8#6 ++ ra ++ rb ++ 0x5#4 ++ disp)
  | .ldwSet ra rb disp => some (0x8#6 ++ ra ++ rb ++ 0x6#4 ++ disp)
  | .ldlSet ra rb disp => some (0x8#6 ++ ra ++ rb ++ 0x7#4 ++ disp)
  | .lstw ra rb disp => some (0x8#6 ++ ra ++ rb ++ 0x8#4 ++ disp)
  | .lstl ra rb disp => some (0x8#6 ++ ra ++ rb ++ 0x9#4 ++ disp)
  | .ldwNc ra rb disp => some (0x8#6 ++ ra ++ rb ++ 0xA#4 ++ disp)
  | .ldlNc ra rb disp => some (0x8#6 ++ ra ++ rb ++ 0xB#4 ++ disp)
  | .lddNc fa rb disp => some (0x8#6 ++ fa ++ rb ++ 0xC#4 ++ disp)
  | .stwNc ra rb disp => some (0x8#6 ++ ra ++ rb ++ 0xD#4 ++ disp)
  | .stlNc ra rb disp => some (0x8#6 ++ ra ++ rb ++ 0xE#4 ++ disp)
  | .stdNc fa rb disp => some (0x8#6 ++ fa ++ rb ++ 0xF#4 ++ disp)
  | .addw ra rb rc => some (0x10#6 ++ ra ++ rb ++ 0x0#3 ++ 0x0#8 ++ rc)
  | .mulw ra rb rc => some (0x10#6 ++ ra ++ rb ++ 0x0#3 ++ 0x10#8 ++ rc)
  | .mull ra rb rc => some (0x10#6 ++ ra ++ rb ++ 0x0#3 ++ 0x18#8 ++ rc)
  | .umulh ra rb rc => some (0x10#6 ++ ra ++ rb ++ 0x0#3 ++ 0x19#8 ++ rc)
  | .cmpeq ra rb rc => some (0x10#6 ++ ra ++ rb ++ 0x0#3 ++ 0x28#8 ++ rc)
  | .bis ra rb rc => some (0x10#6 ++ ra ++ rb ++ 0x0#3 ++ 0x3A#8 ++ rc)
  | .xor ra rb rc => some (0x10#6 ++ ra ++ rb ++ 0x0#3 ++ 0x3C#8 ++ rc)
  | .addwLit ra lit rc => some (0x12#6 ++ ra ++ lit ++ 0x0#8 ++ rc)
  | .mulwLit ra lit rc => some (0x12#6 ++ ra ++ lit ++ 0x10#8 ++ rc)
  | .mullLit ra lit rc => some (0x12#6 ++ ra ++ lit ++ 0x18#8 ++ rc)
  | .umulhLit ra lit rc => some (0x12#6 ++ ra ++ lit ++ 0x19#8 ++ rc)
  | .cmpeqLit ra lit rc => some (0x12#6 ++ ra ++ lit ++ 0x28#8 ++ rc)
  | .bisLit ra lit rc => some (0x12#6 ++ ra ++ lit ++ 0x3A#8 ++ rc)
  | .xorLit ra lit rc => some (0x12#6 ++ ra ++ lit ++ 0x3C#8 ++ rc)
  | .faddd fa fb fc => some (0x18#6 ++ fa ++ fb ++ 0x0#3 ++ 0x1#8 ++ fc)
  | .rfpcr fa => some (0x18#6 ++ fa ++ 0x1F#5 ++ 0x0#3 ++ 0x50#8 ++ 0x1F#5)
  | .wfpcr fa => some (0x18#6 ++ fa ++ 0x1F#5 ++ 0x0#3 ++ 0x51#8 ++ 0x1F#5)
  | .setfpec0 => some (0x18#6 ++ 0x1F#5 ++ 0x1F#5 ++ 0x0#3 ++ 0x54#8 ++ 0x1F#5)
  | .setfpec1 => some (0x18#6 ++ 0x1F#5 ++ 0x1F#5 ++ 0x0#3 ++ 0x55#8 ++ 0x1F#5)
  | .setfpec2 => some (0x18#6 ++ 0x1F#5 ++ 0x1F#5 ++ 0x0#3 ++ 0x56#8 ++ 0x1F#5)
  | .setfpec3 => some (0x18#6 ++ 0x1F#5 ++ 0x1F#5 ++ 0x0#3 ++ 0x57#8 ++ 0x1F#5)
  | .ldbu ra rb disp => some (0x20#6 ++ ra ++ rb ++ disp)
  | .ldhu ra rb disp => some (0x21#6 ++ ra ++ rb ++ disp)
  | .ldw ra rb disp => some (0x22#6 ++ ra ++ rb ++ disp)
  | .ldl ra rb disp => some (0x23#6 ++ ra ++ rb ++ disp)
  | .ldlU ra rb disp => some (0x24#6 ++ ra ++ rb ++ disp)
  | .flds fa rb disp => some (0x26#6 ++ fa ++ rb ++ disp)
  | .fldd fa rb disp => some (0x27#6 ++ fa ++ rb ++ disp)
  | .stb ra rb disp => some (0x28#6 ++ ra ++ rb ++ disp)
  | .sth ra rb disp => some (0x29#6 ++ ra ++ rb ++ disp)
  | .stw ra rb disp => some (0x2A#6 ++ ra ++ rb ++ disp)
  | .stl ra rb disp => some (0x2B#6 ++ ra ++ rb ++ disp)
  | .fsts fa rb disp => some (0x2E#6 ++ fa ++ rb ++ disp)
  | .fstd fa rb disp => some (0x2F#6 ++ fa ++ rb ++ disp)
  | .ldi ra rb disp => some (0x3E#6 ++ ra ++ rb ++ disp)
  | .beq ra disp => some (0x30#6 ++ ra ++ disp)
  | .bne ra disp => some (0x31#6 ++ ra ++ disp)
  | .priLdwP ra rb disp => some (0x25#6 ++ ra ++ rb ++ 0x0#4 ++ disp)
  | .priLdlP ra rb disp => some (0x25#6 ++ ra ++ rb ++ 0x1#4 ++ disp)
  | .priLdwIncP ra rb disp => some (0x25#6 ++ ra ++ rb ++ 0x2#4 ++ disp)
  | .priLdlIncP ra rb disp => some (0x25#6 ++ ra ++ rb ++ 0x3#4 ++ disp)
  | .priLdwDecP ra rb disp => some (0x25#6 ++ ra ++ rb ++ 0x4#4 ++ disp)
  | .priLdlDecP ra rb disp => some (0x25#6 ++ ra ++ rb ++ 0x5#4 ++ disp)
  | .priLdwSetP ra rb disp => some (0x25#6 ++ ra ++ rb ++ 0x6#4 ++ disp)
  | .priLdlSetP ra rb disp => some (0x25#6 ++ ra ++ rb ++ 0x7#4 ++ disp)
  | .priLdwV ra rb disp => some (0x25#6 ++ ra ++ rb ++ 0x8#4 ++ disp)
  | .priLdlV ra rb disp => some (0x25#6 ++ ra ++ rb ++ 0x9#4 ++ disp)
  | .priLdwVpte ra rb disp => some (0x25#6 ++ ra ++ rb ++ 0xA#4 ++ disp)
  | .priLdlVpte ra rb disp => some (0x25#6 ++ ra ++ rb ++ 0xB#4 ++ disp)
  | .priStwP ra rb disp => some (0x2D#6 ++ ra ++ rb ++ 0x0#4 ++ disp)
  | .priStlP ra rb disp => some (0x2D#6 ++ ra ++ rb ++ 0x1#4 ++ disp)
  | .priStwV ra rb disp => some (0x2D#6 ++ ra ++ rb ++ 0x8#4 ++ disp)
  | .priStlV ra rb disp => some (0x2D#6 ++ ra ++ rb ++ 0x9#4 ++ disp)
  | .fetchd _ _ => none
  | .fetchdE _ _ => none
  | .flushd _ _ => none
  | .evictdl _ _ => none
  | .evictdg _ _ => none
  | .vlddNc _ _ _ => none
  | .vstdNc _ _ _ => none
  | .vlds _ _ _ => none
  | .vldd _ _ _ => none
  | .ldwe _ _ _ => none
  | .ldse _ _ _ => none
  | .ldde _ _ _ => none
  | .vldwU _ _ _ => none
  | .vldsU _ _ _ => none
  | .vlddU _ _ _ => none
  | .vsts _ _ _ => none
  | .vstd _ _ _ => none
  | .vstwUl _ _ _ => none
  | .vstwUh _ _ _ => none
  | .vstsUl _ _ _ => none
  | .vstsUh _ _ _ => none
  | .vstdUl _ _ _ => none
  | .vstdUh _ _ _ => none
  | .vaddd _ _ _ => none
  | .vinsf _ _ _ _ => none
  | .vinsw _ _ _ _ => none
  | .vcpyf _ _ => none
  | .vextf _ _ _ => none
  | .vextw _ _ _ => none
  | .fimov _ _ _ => none
  | .ifmov _ _ _ => none
  | .jsr _ _ => none
  | .nop => none

end Sys2Proof
end

