-- ==== Sys2Proof/Word.lean ====
section
/-! DEFINITION. The word types of the SW421 core. -/

namespace Sys2Proof

/-- A general register or an effective address: 64 bits (R30). -/
abbrev W64 := BitVec 64
/-- An instruction word (R380). -/
abbrev W32 := BitVec 32
/-- A vector register: 256 bits (R40). -/
abbrev V256 := BitVec 256
/-- A physical address: PA[47:0] (R220). -/
abbrev PAddr := BitVec 48

end Sys2Proof
end

