-- ==== Sys2Proof/Config.lean ====
section
/-! DEFINITION. What an implementation fixes (R10, OPEN-1 to OPEN-10) and the free values: what the spec calls
UNPREDICTABLE or leaves open (93_implementation_defined.md). -/

namespace Sys2Proof

/-- One range of existing I/O registers (IOR_MAP, R10, OPEN-2): offsets are PA[46:0] with PA[47] = 1. -/
structure IorRange where
  base : Nat
  size : Nat
  readable : Bool
  writable : Bool
deriving DecidableEq, Repr

/-- A register file of BaseISA's operands. -/
inductive BaseFile where
  | int
  | float
  | vec
deriving DecidableEq, Repr

/-- The data an operand in a floating or vector register is taken for (R884 item 5): floating, integer, or either, where the
instruction only moves, selects or combines bits. -/
inductive BaseType where
  | float
  | int
  | any
deriving DecidableEq, Repr

/-- A register operand: its file, the lowest bit of its five-bit field and the type of its data. -/
structure BaseReg where
  file : BaseFile
  lo : Nat
  type : BaseType := .float
deriving DecidableEq, Repr

/-- What an access of BaseISA does: a load, a store or an atomic read-modify-write (R463). -/
inductive BaseAccess where
  | load
  | store
  | atomic
deriving DecidableEq, Repr

/-- Which part of the bytes one instruction accesses: all of them, at once or cut at a boundary (R842), or a store's part
below or above it (R852). -/
inductive BasePart where
  | whole
  | cut
  | low
  | high
deriving DecidableEq, Repr

/-- The memory access of an instruction of BaseISA, at Rb plus its displacement. `edge`: the boundary of its part, a multiple
of so many bytes; `short`: the displacement is bits [11:0], in the memory format with function (R401), else [15:0]; `clear`:
so many low bits of the address are forced to 0, before every check (as STL_U may, R226); `align` 1: no alignment is checked;
`nc`: non-cacheable. -/
structure BaseMem where
  access : BaseAccess
  part : BasePart := .whole
  edge : Nat := 32
  short : Bool := false
  clear : Nat := 0
  size : Nat
  align : Nat
  elem : Nat := 0
  nc : Bool := false
deriving DecidableEq, Repr

/-- Where an instruction of BaseISA goes on: the next instruction, a branch, a jump through Rb; a transfer that is not
conditional links to Ra (R805). -/
inductive BaseFlow where
  | next
  | branch (conditional : Bool)
  | jump
deriving DecidableEq, Repr

/-- An instruction of BaseISA put together from its parts: the unit whose enables it needs, the registers it reads and
writes, its access, its flow, whether it raises the integer-overflow trap (R562), and of how many elements it records the
status in FPCR, as a floating operation (R561, R569). -/
structure BaseOp where
  unit : BaseFile
  src : List BaseReg := []
  dst : List BaseReg := []
  mem : Option BaseMem := none
  flow : BaseFlow := .next
  overflow : Bool := false
  elements : Nat := 0
deriving DecidableEq, Repr

/-! An instruction of BaseISA given by its acts (`BaseShape.acts`): what it reads, one thing after another, and how it ends.
The registers, the addresses and the values are free functions of its word and of what it has read, so any table of
instructions can stand behind it; how a register is read, how memory is accessed and checked, and how an instruction ends are
the rules'. -/

/-- What an instruction reads next: a register, or bytes of memory at an address. -/
inductive BaseRead where
  | reg (file : BaseFile) (type : BaseType) (i : BitVec 5)
  | mem (m : BaseMem) (va : W64)
deriving DecidableEq, Repr

/-- A register it writes, with the type of the data. -/
structure BaseWrite where
  file : BaseFile
  type : BaseType
  i : BitVec 5
  value : V256
deriving DecidableEq, Repr

/-- How it ends: its stores, its registers, where it goes on, whether an integer operation overflowed (R562 way 1), and the
status of each element of a floating operation: INV, DZE, OVF, UNF, INE, OVI and, as bit 6, a denormal operand. -/
structure BaseEnd where
  stores : List (BaseMem × W64 × Nat) := []
  writes : List BaseWrite := []
  flow : BaseFlow := .next
  taken : Bool := false
  target : W64 := 0
  overflow : Bool := false
  raised : List (BitVec 7) := []
deriving DecidableEq, Repr

/-- What an instruction of BaseISA that the spec only names or leaves out altogether does (OPEN-1, R800): the rules of the
spec bind its checks, its traps and its effects, and its values come from `Config`. `third`: it reads a third source
register. -/
inductive BaseShape where
  /-- An integer operate instruction: Rc from Ra and Rb, or from Ra and the literal. It may overflow (R562 way 1). -/
  | operate (literal third : Bool)
  /-- Ra takes Rb plus the displacement shifted left. -/
  | address (shift : Nat)
  /-- A load of `size` bytes into an integer or a floating register, and a store from one (R815). -/
  | load (size : Nat) (float : Bool)
  | store (size : Nat) (float : Bool)
  /-- A vector load and a vector store of `size` bytes, aligned to `align`, of elements of `elem` bytes (R226, R842, R852);
  `int`: they are integers. -/
  | vecLoad (size align elem : Nat) (int : Bool)
  | vecStore (size align elem : Nat)
  /-- A conditional branch on Ra or on Fa (R805). -/
  | condBranch
  | floatBranch
  /-- A branch that links to Ra (R805). -/
  | branch
  /-- A floating operation of one element or of four: Fc from Fa and Fb (R560–R572). -/
  | float (simd third : Bool)
  /-- A floating division (R567). -/
  | divide (simd : Bool)
  /-- A conversion between formats of a floating register, from or to an integer (R562 ways 2 and 3). -/
  | convert (fromInt toInt : Bool)
  /-- An integer operation of one floating register or of a vector register; it may overflow (R562, D24). -/
  | vecInteger (simd third : Bool)
  /-- A move, a selection or a logical operation of floating or vector registers: of no type, without a trap. -/
  | vecMove (simd third : Bool)
  /-- An off-core cache prefetch or flush (R476). -/
  | offCore (prefetch : Bool)
  /-- Any other instruction, by its parts. -/
  | general (op : BaseOp)
  /-- Any instruction at all, by its acts: of the unit whose enables it needs, with at most so many reads. -/
  | acts (unit : BaseFile) (reads : Nat)
  /-- A hint without effect. -/
  | hint
deriving DecidableEq, Repr

/-- One row of BaseISA's decode table beside the opcode table: the words with `word &&& mask = value`. -/
structure BaseRow where
  mask : W32
  value : W32
  shape : BaseShape
deriving DecidableEq, Repr

/-- The parameters R10 and 92_eei_decisions.md leave to the chip, the platform or the scan configuration. -/
structure Params where
  /-- MEM_SIZE in bytes (OPEN-2). -/
  memSize : Nat
  /-- IOR_MAP (OPEN-2). -/
  iorMap : List IorRange
  /-- CORE_ID (OPEN-3). -/
  coreId : BitVec 4
  /-- CP_CTL_SCAN (OPEN-4, R173). -/
  cpCtlScan : BitVec 7
  /-- CHIP_ID, IS_CTL[8:3] (OPEN-4, R112). -/
  chipId : BitVec 6
  /-- BIST_RESULT, IS_CTL[9] (OPEN-4). -/
  bistFail : Bool
  /-- haltInHM (OPEN-9): whether HALT in HM is OPCDEC (else a no-operation). -/
  haltInHmIsOpcdec : Bool
  /-- ldlUChecksAlignment (OPEN-9, R819). -/
  ldlUChecksAlignment : Bool
  /-- dvMatchWideStores (OPEN-9, R677, U27). -/
  dvMatchWideStores : Bool
  /-- OPEN-6: whether "bit n carries" means a carry out of bit n (else into bit n). -/
  carryOut : Bool
  /-- IOR CHIP_CORE, where one is placed: its I/O offset and its value (R199, OPEN-4). -/
  chipCore : Option (Nat × BitVec 32)
  /-- Whether FIMOVx and IFMOVx, legal floating-unit instructions (R882, R883), need UPCR[FPE] (R541). -/
  fpMovesNeedFpe : Bool
  /-- The part of BaseISA's decode table that gives words to the rows of unknown encoding (OPEN-1, R404). -/
  extEnc : List (W32 × Instr)
  /-- BaseISA's rows for the instructions the opcode table has no row for (OPEN-1, R404, R800). A word one of them names is
  BaseISA's, whatever the conventional table makes of it, but for the privileged encodings (`baseRow`). -/
  base : List BaseRow
  /-- The core stands in the FPGA environment, where the error-forcing bits DC_CTL[14:12] have a meaning (R152). -/
  fpga : Bool
  /-- BaseISA's `Unimplemented`: instruction classes (mask, match) that raise OPCDEC (OPEN-1, R390 item 8). -/
  unimplemented : List (W32 × W32)
deriving DecidableEq, Repr

/-- The rows R404 names beside the opcode table: BR 0x04, STL_U 0x2C, LDIH 0x3F (PRESUMED, log 65). -/
def baseRows : List BaseRow :=
  [⟨0xFC000000, 0x10000000, .branch⟩, ⟨0xFC000000, 0xB0000000, .store 8 false⟩, ⟨0xFC000000, 0xFC000000, .address 16⟩]

/-- The parameters the model starts from; each is the default the spec names where it names one, else a DESIGN CHOICE
(log 17). -/
def Params.default : Params where
  memSize := 2 ^ 46
  iorMap := [⟨0, 2 ^ 47, true, true⟩]
  coreId := 0
  cpCtlScan := 0x1C
  chipId := 0x3F
  bistFail := false
  haltInHmIsOpcdec := true
  ldlUChecksAlignment := true
  dvMatchWideStores := false
  carryOut := false
  chipCore := none
  fpMovesNeedFpe := true
  extEnc := []
  base := baseRows
  fpga := false
  unimplemented := []

namespace Config

/-! The free values. Each is applied to the step counter `State.freeCtr`, so two steps read unrelated values; no
constant has a body, so nothing can be proved of what they hold (log 18). -/

/-- A PRI_RCSR of an undefined index or of a write-only CSR (U1, U2). -/
opaque csrRead : Nat → BitVec 8 → W64
/-- The rotation ISSUE_CTL shows when it is read: one for each of its two fields (U13). -/
opaque issueRotation : Nat → Nat × Nat
/-- EXC_SUM[REG] where the spec calls it UNPREDICTABLE (U5). -/
opaque excReg : Nat → BitVec 5
/-- v[i][255:64] after a scalar floating write (U7); both arguments: the step and the register. -/
opaque highBits : Nat → BitVec 5 → BitVec 192
/-- The destination of a floating instruction that takes an enabled INV, OVF or Denormal trap (U25), per element. -/
opaque trapResult : Nat → Nat → W64
/-- The NaN the IEEE default result of a masked invalid operation is (its sign and payload are not in the spec), per
element. -/
opaque nanPayload : Nat → Nat → BitVec 52
/-- DS_STAT[WR] of an atomic or a cache-control instruction that faults (U24). -/
opaque dsWr : Nat → Bool
/-- The extra match flags (DA_MATCH, DV_MATCH) the two errata of R680 may set (U28). -/
opaque errata : Nat → Bool × Bool
/-- The data a misaligned PRI_LD loads (U23). -/
opaque misLoad : Nat → W64
/-- The bytes a misaligned PRI_ST leaves in the enclosing aligned unit (U23), by byte number. -/
opaque misStore : Nat → Nat → BitVec 8
/-- Which of several hitting DTB entries an access uses (U20). -/
opaque dtbPick : Nat → Nat
/-- What a device answers to an I/O read: its bytes (R236, R256), by step, by the number of the read within its instruction,
by register and width. -/
opaque ioRead : Nat → Nat → Nat → Nat → W64
/-- Whether an I/O write that may merge does merge (R244). -/
opaque ioMerge : Nat → Bool
/-- Core clock cycles a step takes when the environment's script names none (OPEN-10). -/
opaque cycles : Nat → Nat
/-- Time units of the HSERR time counter in the same case (OPEN-6). -/
opaque hserrUnits : Nat → Nat
/-- The environment's increment of an implementation-dependent event counter (D27): counter 0 or 1. -/
opaque events : Nat → Nat → Nat
/-- Which of two INT_REQ requests survives a write while Valid = 1 (U15): whether the new one does. -/
opaque intReqNewWins : Nat → Bool
/-- Whether a cache-control instruction is tested for reading, and whether for writing (R316, N23); the off-core ones too. -/
opaque cacheOpClass : Nat → Bool × Bool
/-- An undetermined register after a cold or wake-up reset (R720): by file and number. -/
opaque resetWord : Nat → Nat → W64
/-- The upper 32 bits of a floating register after VEXTW (R881: only the word is described). -/
opaque upper32 : Nat → BitVec 32
/-- What the S forms of FIMOVx and IFMOVx move (R882, R883 describe the 64-bit form only). -/
opaque moveS : Nat → W64 → W64
/-- The result of a lane move whose literal names no lane (R877, R878, R880, R881). -/
opaque badLane : Nat → V256
/-- What an operation leaves when a source holds data of the wrong type (U6): its result and its status bits INV, DZE, OVF,
UNF, INE, OVI (bit 0 to 5), each on its own, and whether hardware takes an operand for a denormal (bit 6), per element. -/
opaque typeFree : Nat → Nat → W64 × BitVec 7
/-- The result of an integer operate instruction of BaseISA without a rule, from its word and its three operands, and
whether it overflows (OPEN-1). -/
opaque baseInt : W32 → W64 → W64 → W64 → W64 × Bool
/-- Whether a conditional branch of BaseISA without a rule is taken, from its word and its register (OPEN-1). -/
opaque baseTaken : W32 → W64 → Bool
/-- The result and the status bits of one element of a floating operation of BaseISA without a rule, from its word, its
three operands and the control bits of FPCR (OPEN-1); the bits as the first six of `typeFree`. -/
opaque baseFloat : W32 → W64 → W64 → W64 → W64 → W64 × BitVec 6
/-- The result of an operation of BaseISA without a rule on whole floating or vector registers, from its word and its three
operands, and whether it overflows (OPEN-1). The first argument is 0, or names the step when the type of an operand is
wrong (U6). -/
opaque baseVec : Nat → W32 → V256 → V256 → V256 → V256 × Bool
/-- The register value a load of BaseISA without a rule makes of the bytes, and the bytes a store makes of the register
(OPEN-1). -/
opaque baseLoad : W32 → Nat → W64
/-- See `baseLoad`. -/
opaque baseStore : W32 → W64 → Nat
/-- The same of a vector load and a vector store (OPEN-1). -/
opaque baseVecLoad : W32 → Nat → V256
/-- See `baseVecLoad`. -/
opaque baseVecStore : W32 → V256 → Nat
/-- What an instruction of BaseISA given by its parts computes from its word and its sources (OPEN-1): the result of its
destination `k` with the bytes its access read, the bytes it stores with those it read, whether it is taken, whether it
overflows. A floating one also reads the control bits of FPCR; `baseStatus` gives the status bits of element `i`, as
`baseFloat`. The first argument of `baseResult` is that of `baseVec`. -/
opaque baseResult : Nat → W32 → W64 → List V256 → Nat → Nat → V256
/-- See `baseResult`. -/
opaque baseStatus : W32 → W64 → List V256 → Nat → BitVec 6
/-- See `baseResult`. -/
opaque baseStored : W32 → List V256 → Nat → Nat
/-- See `baseResult`. -/
opaque baseGoes : W32 → List V256 → Bool
/-- See `baseResult`. -/
opaque baseOverflows : W32 → List V256 → Nat → Bool
/-- What an instruction of BaseISA given by its acts reads next, from its word and what it has read, or nothing more
(OPEN-1). -/
opaque baseReads : W32 → List V256 → Option BaseRead
/-- How such an instruction ends, from its word, its pc, the control bits of FPCR and what it has read; `none`: without any
effect. The first argument is that of `baseVec`. -/
opaque baseEnds : Nat → W32 → W64 → W64 → List V256 → Option BaseEnd
/-- DVA[63:48] where DVA holds a physical address: only [47:0] is meaningful (R158). -/
opaque dvaHigh : Nat → BitVec 16
/-- Whether an implicit read of a CSR whose last PRI_WCSR no barrier followed sees the value before it (U29): by step and
by a number that names the read. -/
opaque seesOld : Nat → Nat → Bool
/-- Whether a status flag that hardware sets while an explicit clear of its register is in flight is lost (R750). -/
opaque flagLost : Nat → BitVec 8 → Bool
/-- How many newer cacheable stores a non-cacheable store takes its place under when something asks for it (R245): by
step, address and value. -/
opaque raceDepth : Nat → Nat → Nat → Nat
/-- Whether a cacheable read sees a non-cacheable store that it is not ordered against (R245): by step, address of the read
and number of the store. -/
opaque raceSeen : Nat → Nat → Nat → Bool
/-- What deep sleep leaves of a byte that was not flushed (U34): by step and address. -/
opaque lostByte : Nat → Nat → Nat
/-- Whether the fill for an instruction fetch enters the level-2 cache while IS_FILL_CTL = 0: it does where it evicts nothing
from the data cache (R170, R234). -/
opaque instrFillKept : Nat → Bool
/-- The wrong data of a response with a multi-bit ECC error (R351, R356, R361): by step and address. -/
opaque wrongByte : Nat → Nat → BitVec 8
/-- The count of an event counter with a reserved selector (U26). -/
opaque reservedCount : Nat → BitVec 58

end Config

end Sys2Proof
end

