-- ==== Sys2Proof/Machine/State.lean ====
section
/-! DEFINITION. The state of the SW421 core as plain data, and the machine right after power-on reset. -/

namespace Sys2Proof.Machine

/-- Why the machine stops with a fault. The spec gives every error an exception, an interrupt or a sticky flag, so no
step of this model faults: the type has no constructor (safe: nothing is hidden behind a stop). -/
inductive Fault
deriving DecidableEq, Repr

/-- Why a step has no meaning. -/
inductive Refusal where
  /-- Raised by `exec`'s arm of an instruction that has no meaning yet; no arm of this model does. Safe. -/
  | notModelled (mnemonic : String)
  /-- Raised by PRI_WCSR of DC_CTL when SET_EN is neither all four ways nor one way: U4 says `refuse` (R152). Safe. -/
  | dcWayEnable
  /-- Raised by PRI_WCSR of SC_CTL when SET_EN is neither all eight ways nor one way: U4 says `refuse` (R170). Safe. -/
  | scWayEnable
deriving DecidableEq, Repr

/-- Power state of the core (R68). -/
inductive Power where
  | running
  /-- After HALT outside HM (R632). -/
  | shallowSleep
  /-- Held in sleep reset (R629). -/
  | deepSleep
deriving DecidableEq, Repr

/-- The lock state (R45). `line` is the oracle DcacheHitWritable of D9 as state: set by LLDx, cleared by the
environment (log 40). -/
structure Lock where
  valid : Bool
  flag : Bool
  success : Bool
  addr : PAddr
  /-- Granularity: longword (else word). -/
  long : Bool
  line : Bool
  /-- The model's own: how many instructions have begun since the lock load (R755, U33; log 67). -/
  steps : Nat
deriving DecidableEq, Repr

/-- One valid ITB entry (R280). -/
structure ItbEntry where
  va : BitVec 40
  pa : BitVec 34
  gh : BitVec 2
  uee : Bool
  kee : Bool
  vee : Bool
  ks : Bool
  vpn : BitVec 2
  upn : BitVec 8
deriving DecidableEq, Repr

/-- One valid DTB entry (R284). -/
structure DtbEntry where
  va : BitVec 40
  pa : BitVec 35
  gh : BitVec 2
  uwe : Bool
  kwe : Bool
  vwe : Bool
  hwe : Bool
  ure : Bool
  kre : Bool
  vre : Bool
  hre : Bool
  ks : Bool
  faultOnWrite : Bool
  faultOnRead : Bool
  vpn : BitVec 2
  upn : BitVec 8
deriving DecidableEq, Repr

/-- One valid instruction-cache line (R262), with the physical line number its copy tag holds (R270). -/
structure IcLine where
  tag : BitVec 40
  vpn : BitVec 2
  upn : BitVec 8
  ks : Bool
  pm : BitVec 2
  /-- PA[45:7] of the line. -/
  pline : BitVec 39
  /-- The 128 bytes, byte 0 in bits [7:0]. -/
  data : BitVec 1024
  /-- The line was filled with a forced wrong parity of its tag or its data (IS_CTL[F_BAD_TPAR, F_BAD_DPAR], R112). -/
  badTag : Bool
  badData : Bool
deriving DecidableEq, Repr

/-- One instruction-cache set: four ways and the round-robin pointer (R262). -/
structure IcSet where
  ways : Vector (Option IcLine) 4
  ptr : BitVec 2
deriving DecidableEq, Repr

/-- Every CSR with storage, under its own name (R53). Bits the spec makes reserved, computed or hard-wired are not
kept here: `readCsr` supplies them. -/
structure Csrs where
  itbTag : W64 := 0
  ptbr : W64 := 0
  iiEr : W64 := 0
  ii0 : W64 := 0
  ii1 : W64 := 0
  iiMail : W64 := 0
  excSum : W64 := 0
  excPc : W64 := 0
  priBase : W64 := 0
  isCtl : W64 := 0
  issueCtl : W64 := 0
  isStat : W64 := 0
  vptBase : W64 := 0
  vpcr : W64 := 0
  iaMatch : W64 := 0
  iaMask : W64 := 0
  intVec : W64 := 0
  upcr : W64 := 0
  pc0Cr : W64 := 0
  pc1Cr : W64 := 0
  hserrCnt : W64 := 0
  hserrTh : W64 := 0
  iglInst : W64 := 0
  softErr : W64 := 0
  hardErr : W64 := 0
  timerCtl : W64 := 0
  timerTh : W64 := 0
  /-- The 256 request bits behind INT_STAT0–3 (R103): vector n is bit n. -/
  raw : BitVec 256 := 0
  /-- IER0–3 (R98): vector n is bit n. -/
  ier : BitVec 256 := 0
  dtbTag : W64 := 0
  dtbPcr : W64 := 0
  dsStat : W64 := 0
  dsCtl : W64 := 0
  dcCtl : W64 := 0
  dcStat : W64 := 0
  daMatch : W64 := 0
  daMask : W64 := 0
  daMatchMode : W64 := 0
  dva : W64 := 0
  dvMask : W64 := 0
  dvMatch : W64 := 0
  scCtl : W64 := 0
  scStat : W64 := 0
  intReq : W64 := 0
  cpCtl : W64 := 0
  mergeOvtime : W64 := 0
  iva : W64 := 0
  tc : W64 := 0
  tcCtl : W64 := 0
  icr : W64 := 0
  cid : W64 := 0
  idaMatch : W64 := 0
  idaMask : W64 := 0
  tid : W64 := 0
  /-- SOFTCSR0–47 (R197). -/
  soft : Vector W64 48 := Vector.replicate 48 0
deriving DecidableEq, Repr

/-- The open merge window of I/O writes (R243, R244): the width, the last address and the cycles it has been open. -/
structure IoWindow where
  size : Nat
  addr : Nat
  age : Nat
deriving DecidableEq, Repr

/-- A vector register (R40, R41). -/
structure VReg where
  bits : V256
  /-- The model's own: lane i was last written as integer data (R42, U6; log 22). Hardware keeps no such mark. -/
  ints : BitVec 4
deriving DecidableEq, Repr

/-- How far a PRI_WCSR is from being seen by every implicit reader (R740–R746, U29). -/
inductive Sync where
  /-- No barrier yet. -/
  | written
  /-- A PRI_RCSR of the same CSR followed: enough for every reader but those of HM (R741, R744). -/
  | readBack
  /-- The PRI_RET/b came first: the boundary and the instruction right after it may still see the old value (R745). -/
  | returning
  /-- That boundary has come. -/
  | last
deriving DecidableEq, Repr

/-- A PRI_WCSR that implicit readers may not see yet (R740, log 16). -/
structure CsrWrite where
  idx : BitVec 8
  /-- What the register held; for INT_CLR and II_CLR the request bits the write cleared. -/
  old : W64
  /-- For IC_FLUSH: the instruction cache before it. -/
  cache : Option (Vector IcSet 64)
  sync : Sync
deriving DecidableEq, Repr

/-- What an event of memory is in the order of R245. -/
inductive EventKind where
  /-- A cacheable store, or a write of another agent. -/
  | cached
  /-- A non-cacheable store. -/
  | nc
  /-- A non-cacheable store that cacheable loads may see and the program has not reached yet. -/
  | early
  /-- A non-cacheable load: every earlier access stays before it, every later one after it. -/
  | fence
deriving DecidableEq, Repr

/-- An indivisible store of `size` bytes (R256), little-endian. -/
structure MemStore where
  addr : Nat
  size : Nat
  value : Nat
deriving DecidableEq, Repr

/-- One access to memory since the last MEMB: a store, or the bytes of a fence. -/
structure MemEvent where
  kind : EventKind
  bytes : MemStore
deriving DecidableEq, Repr

/-- A byte that cacheable stores changed since its line was last flushed, with its earlier contents, newest first (R628,
U34). -/
structure DirtyByte where
  addr : Nat
  old : List (BitVec 8)
deriving DecidableEq, Repr

/-- What the caches and the write buffers hold that memory in program order does not show (R245, R253). -/
structure MemTrack where
  /-- What cacheable accesses have seen of memory since the last MEMB, newest first (log 58). -/
  stream : List MemEvent
  /-- Non-cacheable stores that have no place in `stream` yet, newest first: cacheable accesses may not have seen them. -/
  late : List MemStore
  /-- What the bytes of non-cacheable stores held before. -/
  base : List Host.Cell
  dirty : List DirtyByte
deriving DecidableEq, Repr

/-- A byte another agent writes inside the next vector access, after its part `after` (R256). -/
structure MidWrite where
  after : Nat
  addr : Nat
  byte : BitVec 8
deriving DecidableEq, Repr

/-- An error that meets the next instruction fetch that leaves the core (R353, R354). -/
inductive FetchError where
  | control
  | multiEcc
deriving DecidableEq, Repr

/-- An error that meets the next data access that reaches the caches or leaves the core (R342, R343, R359, R361). -/
inductive DataError where
  | dtagParity
  | dataEcc
  | control
  | multiEcc
deriving DecidableEq, Repr

/-- Which write an error response belongs to (R358, R360, R362). -/
inductive WriteKind where
  | vic
  | nc
  | io
deriving DecidableEq, Repr

/-- What the outside world does at one instruction boundary (R333, R594, R613, R614, R626, R630, R633). -/
inductive Input where
  /-- Core clock cycles pass (R65, R620). -/
  | cycles (n : Nat)
  /-- Units of the HSERR time counter pass (R335). -/
  | hserrTime (n : Nat)
  /-- An external interrupt request (R594). -/
  | external (vec : BitVec 8)
  /-- An inter-core interrupt 0 or 1 from a core (R613). -/
  | interCore0 (src : BitVec 4)
  | interCore1 (src : BitVec 4)
  /-- A mail arrives, or one is read from the mailbox (R614). -/
  | mail
  | mailRead
  /-- The system interface delivers interrupts to this core, or holds them back (IOR INTEN, R610, R611, R640). -/
  | inten (b : Bool)
  /-- The maintenance interface connects this core or disconnects it (IOR CORE_ONLINE, R16, R68, R610). -/
  | online (b : Bool)
  /-- A sleep interrupt (R626). -/
  | sleepInt
  /-- The maintenance interface puts the core into deep sleep after the sleep flow (R627 item 7). -/
  | deepSleep
  /-- A wake-up (R630); no effect on a core that is not asleep (R612). -/
  | wakeUp
  /-- Power-on reset and cold reset, with the memory image maintenance loaded (R711, R713, R715). -/
  | powerOn (image : List Host.Cell)
  | coldReset (image : List Host.Cell)
  /-- Another agent writes one byte of memory (R223, R253). -/
  | agentWrite (addr : Nat) (b : BitVec 8)
  /-- Another agent writes a byte between two parts of the next vector access (R256). -/
  | armWrite (w : MidWrite)
  /-- A non-cacheable store that this core will make before its next MEMB: cacheable loads may see it already (R245). -/
  | earlyStore (addr size value : Nat)
  /-- What a floating or vector load or an IFMOVx of this step brings is integer data to the program (R883, R884, U6). -/
  | integerData
  /-- The core prefetches the instruction line `ahead` lines after that of the pc (R234). -/
  | iPrefetch (ahead : Nat)
  /-- The data cache no longer holds the locked line writable (D9). -/
  | lineLost
  /-- Hardware evicts a TLB entry (D13). -/
  | itbEvict (slot : Fin 32)
  | dtbEvict (n : Nat)
  /-- A parity error in the small-page array of the level-2 DTB, in the way of an entry (R366, U22). -/
  | dtbParity (n : Nat)
  /-- Instruction-cache parity errors, tag and data (R340), and the copy tags (R341), at a set. -/
  | icTagParity (set : Fin 64)
  | icDataParity (set : Fin 64)
  | icCopyParity (set : Fin 64)
  /-- The next fetch or data access meets an error. -/
  | armFetch (e : FetchError)
  | armData (e : DataError)
  /-- ECC errors a store meets reading the data cache (R344). -/
  | rmwSingle
  | rmwMulti
  /-- ECC errors in evicted data (R345), in the SCache tags (R346) and data (R347; `replay`: a load was re-executed). -/
  | dvicSingle
  | dvicMulti
  | stagSingle
  | stagMulti
  | scDataSingle (replay : Bool)
  | scDataMulti
  /-- Errors on the core interface (R348–R351); `line` is the memory line of the wrong data. -/
  | sysReqError
  | sysAckError
  | sysDataSingle
  | sysDataMulti (line : Nat)
  /-- Bad responses to a write (R358, R360, R362). -/
  | writeAddrError (k : WriteKind)
  | writeControlError (k : WriteKind)
  | writeEccError (k : WriteKind)
  /-- Control errors (R363–R366): `n` selects SC_STAT[14+n]. -/
  | robError
  | probeError
  | sboxControl (n : Fin 10)
  | cacheState
  /-- DBOX CSR instruction issue error: only reported (R336 item 1b, R366). -/
  | csrIssueError
deriving DecidableEq, Repr

/-- What the core shows the outside world, oldest first (R172, R236, R243, R256, R336). -/
inductive Output where
  /-- A performed I/O read: I/O offset PA[46:0], bytes, value. -/
  | ioRead (addr size : Nat) (value : W64)
  /-- A performed I/O write; `joined`: in one request with the previous one (R243). -/
  | ioWrite (addr size : Nat) (value : W64) (joined : Bool)
  /-- A sent INT_REQ (R610–R612): the type and the targets. -/
  | interrupt (kind : BitVec 2) (targets : BitVec 16)
  /-- A memory-barrier request (R173 MB, R251): SC_CTL[MB_CTL]. -/
  | barrier (mbCtl : Bool)
  /-- Reports to the maintenance interface, by class (R336). -/
  | hardwareFault
  | softwareFault
  | correctedThreshold
  | multiBitEcc
  /-- An evict, flush or fill request sent out of the core (R470–R475): the line PA[45:7]. -/
  | cacheOp (opcode : BitVec 3) (line : Nat)
  /-- An off-core cache prefetch or flush of BaseISA (R476): its word and its line PA[45:7]. -/
  | offCore (word : W32) (line : Nat)
deriving DecidableEq, Repr

/-- The whole state. The fields from `fgroup` on are not registers of the manual: see INVENTORY.md. -/
structure State where
  /-- R36: the address and, in [1:0], the processor mode. -/
  pc : W64
  /-- R0–R30 (R30); R31 has no storage (R31). -/
  x : Vector W64 31
  /-- The ten system registers (R33), in the order R1, R2, R4–R7, R20–R23. -/
  sr : Vector W64 10
  /-- V0–V30, whose low 64 bits are F0–F30 (R40); V31 has no storage (R42). -/
  v : Vector VReg 31
  /-- FPCR without the computed bit SUM (R200, R202). -/
  fpcr : W64
  lock : Lock
  csr : Csrs
  itb : Vector (Option ItbEntry) 32
  /-- The ITB's round-robin pointer (R282). -/
  itbPtr : BitVec 5
  /-- Both DTB levels as one buffer, newest entry first (R285, log 38). -/
  dtb : List DtbEntry
  icache : Vector IcSet 64
  /-- Main memory by PA[45:0] (R223): canonical, unlisted bytes read 0 (R715). -/
  mem : List Host.Cell
  /-- The timer's internal counter (R620). -/
  timer : W64
  /-- The HSERR time counter (R335). -/
  hserrTime : W64
  power : Power
  ioWin : Option IoWindow
  armedFetch : Option FetchError
  armedData : Option DataError
  /-- The aligned group of four instructions the current one was fetched in (R757); the current word is its slot
  pc[3:2]. -/
  fgroup : BitVec 128
  /-- The environment's script: one list of inputs per step (R333). -/
  env : List (List Input)
  /-- What the core has sent, newest first. -/
  out : List Output
  /-- The step counter the free values are applied to (log 18). -/
  freeCtr : Nat
  /-- The CSR writes that implicit readers may not see yet, newest first (R740, log 16). -/
  unsynced : List CsrWrite
  /-- What order and flushing leave open of memory (R245, R253). -/
  track : MemTrack
  /-- Bytes another agent writes inside the next vector access (R256). -/
  midWrites : List MidWrite
  /-- IOR INTEN for this core, as the system interface holds it (R610, R611, R640). -/
  inten : Bool
  /-- Inter-core interrupts 0 and 1 of this core to itself that the system interface holds back (R610). -/
  heldIntr : BitVec 2
  /-- The core is connected (R68). -/
  online : Bool
  /-- What a floating or vector load or an IFMOVx of this step brings is integer data (R884, U6; log 22). -/
  intData : Bool
  par : Params
deriving DecidableEq, Repr

/-- The CSRs after power-on reset: the values of R717, R718 and R721; a CSR those rules leave undetermined holds 0
(DESIGN CHOICE, log 4). IS_CTL holds its writable bits only: HM_PEN = 1 (R112). -/
def Csrs.reset : Csrs where
  isCtl := 0x10000
  issueCtl := 0xFFFFF
  iaMask := 0x7FFFFFFFFFFFFFFF
  intVec := 0x0000FAFBFCFDFEFF
  upcr := 0x7
  hserrTh := 0x1F
  dcCtl := 0x945600000000000F
  daMask := 0x001FFFFFFFFFFFFF
  daMatchMode := 0x001FFFFFFFFFFFFF
  dvMask := 0xFFFFFFFFFFFFFFFF
  scCtl := 0x1000FF
  cpCtl := 0x1C
  mergeOvtime := 0x100
  idaMask := 0x001FFFFFFFFFFFFF

/-- The machine right after power-on reset (R715, R720, R721): pc at 0x1000 in HM, memory all zeroes. Every register
without a reset value holds 0 (DESIGN CHOICE, logs 1 to 7). -/
def State.reset : State where
  pc := 0x1000
  x := Vector.replicate 31 0
  sr := Vector.replicate 10 0
  v := Vector.replicate 31 ⟨0, 0⟩
  fpcr := 0
  lock := ⟨false, false, false, 0, false, false, 0⟩
  csr := Csrs.reset
  itb := Vector.replicate 32 none
  itbPtr := 0
  dtb := []
  icache := Vector.replicate 64 ⟨Vector.replicate 4 none, 0⟩
  mem := []
  timer := 0
  hserrTime := 0
  power := .running
  ioWin := none
  armedFetch := none
  armedData := none
  fgroup := 0
  env := []
  out := []
  freeCtr := 0
  unsynced := []
  track := ⟨[], [], [], []⟩
  midWrites := []
  inten := true
  heldIntr := 0
  online := true
  intData := false
  par := Params.default

end Sys2Proof.Machine
end

