-- ==== Sys2Proof/Machine/Bits.lean ====
section
/-! DEFINITION. Bit-field helpers the other files use. -/

namespace Sys2Proof.Machine

/-- sext_64 of bits [52:0]: the format of every saved pc (R39, R95). -/
def sext53 (w : W64) : W64 := (w.extractLsb' 0 53).signExtend 64

/-- Bits [63:53] are the sign extension of bit 52 (R228, R297). -/
def canonical (w : W64) : Bool := decide (w = sext53 w)

/-- `w` with bit `n` set. -/
def setBit (w : W64) (n : Nat) : W64 := w ||| BitVec.twoPow 64 n

/-- `w` with bit `n` clear. -/
def clrBit (w : W64) (n : Nat) : W64 := w &&& ~~~(BitVec.twoPow 64 n)

/-- `w` with bit `n` set when `b` holds, else unchanged: how a sticky flag is recorded (R368). -/
def orBit (w : W64) (n : Nat) (b : Bool) : W64 := if b then setBit w n else w

/-- `w` with bits [lo+k-1:lo] replaced by `d`. -/
def putField {k : Nat} (w : W64) (lo : Nat) (d : BitVec k) : W64 :=
  (w &&& ~~~((BitVec.allOnes k).setWidth 64 <<< lo)) ||| (d.setWidth 64 <<< lo)

/-- The 64-bit part `k` of a 256-bit request or enable vector (R103). -/
def part64 (v : V256) (k : Fin 4) : W64 := v.extractLsb' (64 * k.val) 64

/-- `v` with part `k` replaced. -/
def putPart64 (v : V256) (k : Fin 4) (d : W64) : V256 :=
  (v &&& ~~~((BitVec.allOnes 64).setWidth 256 <<< (64 * k.val))) ||| (d.setWidth 256 <<< (64 * k.val))

/-- Lane `i` of a vector register: bits [64i+63:64i] (R200). -/
def lane (v : V256) (i : Nat) : W64 := v.extractLsb' (64 * i) 64

/-- A vector register from its four lanes. -/
def ofLanes (l0 l1 l2 l3 : W64) : V256 := l3 ++ l2 ++ l1 ++ l0

/-- Sign extension of a word to 64 bits (G9). -/
def sextW (w : BitVec 32) : W64 := w.signExtend 64

end Sys2Proof.Machine
end

