-- ==== Sys2Proof/Machine/Csr.lean ====
section
/-! DEFINITION. The CSR index map (R53), reading a CSR (R47–R50) and the explicit write of one (R80–R199). -/

namespace Sys2Proof.Machine

/-- Every CSR of the index map R53; `undefined` stands for the indices of R49. -/
inductive CsrName where
  | itbTag | itbPte | itbIa | itbIv | itbIvp | itbIu | itbIs
  | ivaForm | ptbr | iiEr | ii0 | excSum | excPc | iiClr | priBase | isCtl | issueCtl | isStat | icFlush
  | vptBase | vpcr | iaMatch | iaMask | ii1 | iiMail | intVec
  | upcr (sel : BitVec 2)
  | pc0Cr | pc1Cr | hserrCnt | hserrTh | iglInst | softErr | timerCtl | timerTh
  | intStat (k : Fin 4) | intClr (k : Fin 4) | ier (k : Fin 4)
  | hardErr
  | dtbTag | dtbPte | dtbIa | dtbIv | dtbIvp | dtbIu | dtbIs
  | dtbPcr | dsStat | dsCtl | dcCtl | dcStat | daMatch | daMask | dva | dvaForm | daMatchMode | dvMask | dvMatch
  | scCtl | scStat | intReq | cpCtl | mergeOvtime
  | iva | tc | tcCtl | icr | cid | idaMatch | idaMask | tid
  | soft (n : Fin 48)
  | undefined
deriving DecidableEq, Repr

/-- The CSR an index names (R53). -/
def csrName (i : BitVec 8) : CsrName :=
  match i with
  | 0x00#8 => .itbTag | 0x01#8 => .itbPte | 0x02#8 => .itbIa | 0x03#8 => .itbIv | 0x04#8 => .itbIvp
  | 0x05#8 => .itbIu | 0x06#8 => .itbIs | 0x07#8 => .ivaForm | 0x08#8 => .ptbr | 0x09#8 => .iiEr
  | 0x0A#8 => .ii0 | 0x0D#8 => .excSum | 0x0E#8 => .excPc | 0x0F#8 => .iiClr | 0x10#8 => .priBase
  | 0x11#8 => .isCtl | 0x13#8 => .issueCtl | 0x14#8 => .isStat | 0x15#8 => .icFlush | 0x17#8 => .vptBase
  | 0x19#8 => .vpcr | 0x1A#8 => .iaMatch | 0x1B#8 => .iaMask | 0x1C#8 => .ii1 | 0x1D#8 => .iiMail
  | 0x1F#8 => .intVec | 0x20#8 => .upcr 0 | 0x21#8 => .upcr 1 | 0x22#8 => .upcr 2 | 0x23#8 => .upcr 3
  | 0x24#8 => .pc0Cr | 0x25#8 => .pc1Cr | 0x26#8 => .hserrCnt | 0x27#8 => .hserrTh | 0x28#8 => .iglInst
  | 0x29#8 => .softErr | 0x2A#8 => .timerCtl | 0x2B#8 => .timerTh
  | 0x30#8 => .intStat 0 | 0x31#8 => .intStat 1 | 0x32#8 => .intStat 2 | 0x33#8 => .intStat 3
  | 0x34#8 => .intClr 0 | 0x35#8 => .intClr 1 | 0x36#8 => .intClr 2 | 0x37#8 => .intClr 3
  | 0x38#8 => .ier 0 | 0x39#8 => .ier 1 | 0x3A#8 => .ier 2 | 0x3B#8 => .ier 3 | 0x3C#8 => .hardErr
  | 0x40#8 => .dtbTag | 0x41#8 => .dtbPte | 0x42#8 => .dtbIa | 0x43#8 => .dtbIv | 0x44#8 => .dtbIvp
  | 0x45#8 => .dtbIu | 0x46#8 => .dtbIs | 0x47#8 => .dtbPcr | 0x48#8 => .dsStat | 0x49#8 => .dsCtl
  | 0x4A#8 => .dcCtl | 0x4B#8 => .dcStat | 0x4C#8 => .daMatch | 0x4D#8 => .daMask | 0x4E#8 => .dva
  | 0x4F#8 => .dvaForm | 0x50#8 => .daMatchMode | 0x52#8 => .dvMask | 0x53#8 => .dvMatch
  | 0x80#8 => .scCtl | 0x81#8 => .scStat | 0x82#8 => .intReq | 0x83#8 => .cpCtl | 0x84#8 => .mergeOvtime
  | 0xC0#8 => .iva | 0xC1#8 => .tc | 0xC2#8 => .tcCtl | 0xC3#8 => .icr | 0xC4#8 => .cid | 0xC5#8 => .idaMatch
  | 0xC6#8 => .idaMask | 0xC7#8 => .tid
  | _ =>
    if h : 0xE0 ≤ i.toNat then .soft ⟨i.toNat - 0xE0, by have := i.isLt; omega⟩
    else if h : 0xD0 ≤ i.toNat then .soft ⟨i.toNat - 0xD0 + 32, by omega⟩
    else .undefined

/-! ### Named fields -/

/-- VPCR[VPN] (R121). -/
def Csrs.vpn (c : Csrs) : BitVec 2 := c.vpcr.extractLsb' 44 2
/-- UPCR[UPN] (R118). -/
def Csrs.upn (c : Csrs) : BitVec 8 := c.upcr.extractLsb' 39 8
/-- DTB_PCR[VPN] (R148). -/
def Csrs.dVpn (c : Csrs) : BitVec 2 := c.dtbPcr.extractLsb' 62 2
/-- DTB_PCR[UPN] (R148). -/
def Csrs.dUpn (c : Csrs) : BitVec 8 := c.dtbPcr.extractLsb' 54 8
/-- DTB_PCR[PM] (R148). -/
def Csrs.dPm (c : Csrs) : BitVec 2 := c.dtbPcr.extractLsb' 0 2
/-- IS_CTL[SRE] (R112). -/
def Csrs.sre (c : Csrs) : Bool := c.isCtl.getLsbD 0
/-- UPCR[FCE], [FPE], [SCE] (R118). -/
def Csrs.fce (c : Csrs) : Bool := c.upcr.getLsbD 0
/-- See `Csrs.fce`. -/
def Csrs.fpe (c : Csrs) : Bool := c.upcr.getLsbD 1
/-- See `Csrs.fce`. -/
def Csrs.sce (c : Csrs) : Bool := c.upcr.getLsbD 2
/-- The vectors of INT_VEC (R104). -/
def Csrs.sleepVec (c : Csrs) : BitVec 8 := c.intVec.extractLsb' 0 8
/-- MCHK_VEC. -/
def Csrs.mchkVec (c : Csrs) : BitVec 8 := c.intVec.extractLsb' 8 8
/-- CR_VEC. -/
def Csrs.crVec (c : Csrs) : BitVec 8 := c.intVec.extractLsb' 16 8
/-- PC1_VEC. -/
def Csrs.pc1Vec (c : Csrs) : BitVec 8 := c.intVec.extractLsb' 24 8
/-- PC0_VEC. -/
def Csrs.pc0Vec (c : Csrs) : BitVec 8 := c.intVec.extractLsb' 32 8
/-- TIMER_VEC. -/
def Csrs.timerVec (c : Csrs) : BitVec 8 := c.intVec.extractLsb' 40 8

/-- Record an interrupt request: the raw bit is set whatever its enable is (R592). -/
def Csrs.request (c : Csrs) (vec : BitVec 8) : Csrs := { c with raw := c.raw ||| BitVec.twoPow 256 vec.toNat }

/-- A request that is pending and enabled (R592). -/
def Csrs.candidate (c : Csrs) (vec : BitVec 8) : Bool := c.raw.getLsbD vec.toNat && c.ier.getLsbD vec.toNat

/-! ### Reading -/

/-- A linear page-table address (R96, R159): the base's [52:49], six copies of `va`[52], `va`[52:13], three zeroes,
sign-extended from bit 52. -/
def vptForm (base va : W64) : W64 :=
  ((base.extractLsb' 49 4) ++ (BitVec.ofBool (va.getLsbD 52)).signExtend 6 ++ (va.extractLsb' 13 40) ++ 0#3).signExtend 64

/-- `w` with the bits [hi:lo] rotated right by `n` within the field of ten bits at `lo` (R114, U13). -/
def rotateTen (w : W64) (lo n : Nat) : W64 := putField w lo ((w.extractLsb' lo 10).rotateRight n)

/-- The value PRI_RCSR returns (R47–R50): reserved bits read 0, computed and hard-wired bits are supplied here, a
write-only or undefined register reads a free value. -/
def readCsr (s : State) (i : BitVec 8) : W64 :=
  let c := s.csr
  match csrName i with
  | .ivaForm => vptForm c.vptBase c.excPc
  | .ptbr => c.ptbr &&& 0x0000FFFFFFFFFFFF
  | .iiEr => c.iiEr &&& 0x7
  | .ii0 => c.ii0 &&& 0xFFFF
  | .ii1 => c.ii1 &&& 0xFFFF
  | .iiMail => c.iiMail &&& 0x3F
  | .excSum => c.excSum &&& 0x6FBEFFFFF
  | .excPc => sext53 c.excPc
  | .priBase => c.priBase &&& 0x00007FFFFFFF0000
  | .isCtl => (c.isCtl &&& 0x1FC07) ||| ((s.par.chipId.setWidth 64) <<< 3) ||| (orBit 0 9 s.par.bistFail)
  | .issueCtl =>
    let w := (c.issueCtl &&& 0xFFFFF) ||| 0x80200
    let r := Config.issueRotation s.freeCtr
    rotateTen (rotateTen w 0 r.1) 10 r.2
  | .isStat => c.isStat &&& 0x3F
  | .vptBase => sext53 (c.vptBase &&& 0x001E000000000000)
  | .vpcr => c.vpcr &&& 0x00003FFFFFFFFFFF
  | .iaMatch => c.iaMatch
  | .iaMask => c.iaMask &&& 0x7FFFFFFFFFFFFFFF
  | .intVec => c.intVec &&& 0x0000FFFFFFFFFFFF
  | .upcr _ => c.upcr &&& 0x00007F8000000007
  | .pc0Cr => c.pc0Cr &&& 0xF3FFFFFFFFFFFFFF
  | .pc1Cr => c.pc1Cr
  | .hserrCnt => c.hserrCnt &&& 0x1FFFFFFFF
  | .hserrTh => c.hserrTh &&& 0xFFF
  | .iglInst => c.iglInst &&& 0x1FFFFFFFF
  | .softErr => c.softErr &&& 1
  | .hardErr => c.hardErr &&& 1
  | .timerCtl => c.timerCtl &&& 1
  | .timerTh => c.timerTh
  | .intStat k => part64 (c.raw &&& c.ier) k
  | .ier k => part64 c.ier k
  | .dtbPcr => c.dtbPcr &&& 0xFFC0000000000003
  | .dsStat => c.dsStat &&& 0x1BFFFF
  | .dsCtl => c.dsCtl &&& 0x001E000000000000
  | .dcCtl => c.dcCtl &&& 0xFFFE0000003FF7BF
  | .dcStat => c.dcStat &&& 0x7
  | .daMatch => c.daMatch &&& 0x00FFFFFFFFFFFFFF
  | .daMask => c.daMask &&& 0x001FFFFFFFFFFFFF
  | .daMatchMode => c.daMatchMode &&& 0x001FFFFFFFFFFFFF
  | .dva => c.dva
  | .dvaForm => vptForm c.dsCtl c.dva
  | .dvMask => c.dvMask
  | .dvMatch => c.dvMatch
  | .scCtl => c.scCtl &&& 0x1FFFFF
  | .scStat => c.scStat &&& 0x7FFFFFFF
  | .intReq => c.intReq &&& 0x380FFFF
  | .cpCtl => c.cpCtl &&& 0x7F
  | .mergeOvtime => c.mergeOvtime
  | .iva => c.iva
  | .tc => c.tc
  | .tcCtl => c.tcCtl &&& 1
  | .icr => c.icr &&& 1
  | .cid => (c.cid &&& 0xFFFFFFFFFFFFFF00) ||| s.par.coreId.setWidth 64
  | .idaMatch => c.idaMatch &&& 0x003FFFFFFFFFFFFF
  | .idaMask => c.idaMask &&& 0x001FFFFFFFFFFFFF
  | .tid => c.tid
  | .soft n => c.soft[n]
  | .itbTag | .itbPte | .itbIa | .itbIv | .itbIvp | .itbIu | .itbIs | .iiClr | .icFlush | .intClr _
  | .dtbTag | .dtbPte | .dtbIa | .dtbIv | .dtbIvp | .dtbIu | .dtbIs | .undefined => Config.csrRead s.freeCtr i

/-! ### The translation buffers as the write registers change them -/

/-- VA[52:k] of two page numbers agree, k = 13 + 5·gh (R87, R281). -/
def pageMatch (gh : BitVec 2) (a b : BitVec 40) : Bool := decide (a >>> (5 * gh.toNat) = b >>> (5 * gh.toNat))

/-- The entry ITB_PTE fills (R81, R280, R282). -/
def itbEntryOf (c : Csrs) (d : W64) : ItbEntry where
  va := c.itbTag.extractLsb' 13 40
  pa := d.extractLsb' 13 34
  gh := d.extractLsb' 5 2
  uee := d.getLsbD 11
  kee := d.getLsbD 10
  vee := d.getLsbD 9
  ks := d.getLsbD 4
  vpn := c.vpn
  upn := c.upn

/-- Two ITB entries that one fetch could both hit: their ranges overlap and some process matches both (R282; that the
search includes the process compare is log 39). -/
def itbConflict (a b : ItbEntry) : Bool :=
  pageMatch (if a.gh.toNat < b.gh.toNat then b.gh else a.gh) a.va b.va
    && decide (a.vpn = b.vpn) && (a.ks || b.ks || decide (a.upn = b.upn))

/-- Where a fill goes: the first entry hit, else the first invalid one, else the pointer's (R282). -/
def itbSlot (t : Vector (Option ItbEntry) 32) (ptr : BitVec 5) (e : ItbEntry) : Nat :=
  match t.toList.findIdx? (fun o => o.any (itbConflict e)) with
  | some i => i
  | none =>
    match t.toList.findIdx? (fun o => o.isNone) with
    | some i => i
    | none => ptr.toNat

/-- ITB fill (R282). The pointer advances only when it chose the entry. -/
def itbFill (s : State) (e : ItbEntry) : State :=
  let full := s.itb.toList.all (fun o => o.isSome && !o.any (itbConflict e))
  let cleared := s.itb.map (fun o => if o.any (itbConflict e) then none else o)
  { s with
    itb := cleared.setIfInBounds (itbSlot s.itb s.itbPtr e) (some e)
    itbPtr := if full then s.itbPtr + 1 else s.itbPtr }

/-- An ITB flush: every entry `p` holds of is invalidated (R83–R87, R283). -/
def itbFlush (s : State) (p : ItbEntry → Bool) : State :=
  { s with itb := s.itb.map (fun o => if o.any p then none else o) }

/-- The entry DTB_PTE fills (R141, R286). -/
def dtbEntryOf (c : Csrs) (d : W64) : DtbEntry where
  va := c.dtbTag.extractLsb' 13 40
  pa := d.extractLsb' 24 35
  gh := d.extractLsb' 5 2
  uwe := d.getLsbD 15
  kwe := d.getLsbD 14
  vwe := d.getLsbD 13
  hwe := d.getLsbD 12
  ure := d.getLsbD 11
  kre := d.getLsbD 10
  vre := d.getLsbD 9
  hre := d.getLsbD 8
  ks := d.getLsbD 4
  faultOnWrite := d.getLsbD 2
  faultOnRead := d.getLsbD 1
  vpn := c.dVpn
  upn := c.dUpn

/-- DTB fill (R286): at most 64 + 512 + 32 entries, the oldest gives way (R285, log 38). -/
def dtbFill (s : State) (e : DtbEntry) : State := { s with dtb := (e :: s.dtb).take 608 }

/-- A DTB flush (R143–R147, R288). -/
def dtbFlush (s : State) (p : DtbEntry → Bool) : State := { s with dtb := s.dtb.filter (fun e => !p e) }

/-- An instruction cache with no valid line (R116, R265). -/
def icEmpty (c : Vector IcSet 64) : Vector IcSet 64 := c.map (fun t => { t with ways := Vector.replicate 4 none })

/-! ### Writing -/

/-- The explicit write of a register that is only storage: the writable bits take the data (R48, R50). -/
def storeCsr (c : Csrs) (n : CsrName) (d : W64) : Csrs :=
  match n with
  | .itbTag => { c with itbTag := d &&& 0x001FFFFFFFFFE000 }
  | .ptbr => { c with ptbr := d &&& 0x0000FFFFFFFFFFFF }
  | .iiEr => { c with iiEr := d &&& 0x7 }
  | .iiClr => { c with ii0 := c.ii0 &&& ~~~(d &&& 0xFFFF), ii1 := c.ii1 &&& ~~~((d >>> 16) &&& 0xFFFF) }
  | .priBase => { c with priBase := d &&& 0x00007FFFFFFF0000 }
  | .isCtl => { c with isCtl := d &&& 0x1FC07 }
  | .issueCtl => { c with issueCtl := (d &&& 0x7FDFF) ||| 0x80200 }
  | .isStat => { c with isStat := c.isStat &&& ~~~d }
  | .vptBase => { c with vptBase := d &&& 0x001E000000000000 }
  | .vpcr => { c with vpcr := d &&& 0x00003FFFFFFFFFFF }
  | .iaMatch => { c with iaMatch := d }
  | .iaMask => { c with iaMask := d &&& 0x7FFFFFFFFFFFFFFF }
  | .intVec => { c with intVec := d &&& 0x0000FFFFFFFFFFFF }
  | .upcr sel =>
    let u := if sel.getLsbD 0 then putField c.upcr 0 (d.extractLsb' 0 3) else c.upcr
    { c with upcr := if sel.getLsbD 1 then putField u 39 (d.extractLsb' 39 8) else u }
  | .pc0Cr => { c with pc0Cr := d &&& 0xF3FFFFFFFFFFFFFF }
  | .pc1Cr => { c with pc1Cr := d }
  | .hserrCnt =>
    let h := if d.getLsbD 0 then putField c.hserrCnt 0 (0 : BitVec 32) else c.hserrCnt
    { c with hserrCnt := if d.getLsbD 32 then clrBit h 32 else h }
  | .hserrTh => { c with hserrTh := d &&& 0xFFF }
  | .softErr => { c with softErr := d &&& 1 }
  | .hardErr => { c with hardErr := d &&& 1 }
  | .timerCtl => { c with timerCtl := d &&& 1 }
  | .timerTh => { c with timerTh := d }
  | .intClr k => { c with raw := putPart64 c.raw k (part64 c.raw k &&& ~~~d) }
  | .ier k => { c with ier := putPart64 c.ier k d }
  | .dtbTag => { c with dtbTag := d &&& 0x001FFFFFFFFFE000 }
  | .dtbPcr => { c with dtbPcr := d &&& 0xFFC0000000000003 }
  | .dsStat => { c with dsStat := 0 }
  | .dsCtl => { c with dsCtl := d &&& 0x001E000000000000 }
  | .dcCtl => { c with dcCtl := d &&& 0xFFFE0000003FF7BF }
  | .dcStat => { c with dcStat := c.dcStat &&& ~~~d }
  | .daMatch => { c with daMatch := d &&& 0x00FFFFFFFFFFFFFF }
  | .daMask => { c with daMask := d &&& 0x001FFFFFFFFFFFFF }
  | .daMatchMode => { c with daMatchMode := d &&& 0x001FFFFFFFFFFFFF }
  | .dvMask => { c with dvMask := d }
  | .dvMatch => { c with dvMatch := d }
  | .scCtl => { c with scCtl := d &&& 0x1FFFFF }
  | .scStat => { c with scStat := c.scStat &&& ~~~d }
  | .intReq => { c with intReq := d &&& 0x380FFFF }
  | .mergeOvtime => { c with mergeOvtime := d }
  | .tc => { c with tc := d }
  | .tcCtl => { c with tcCtl := d &&& 1 }
  | .icr => { c with icr := d &&& 1 }
  | .cid => { c with cid := d &&& 0xFFFFFFFFFFFFFF00 }
  | .idaMatch => { c with idaMatch := d &&& 0x003FFFFFFFFFFFFF }
  | .idaMask => { c with idaMask := d &&& 0x001FFFFFFFFFFFFF }
  | .tid => { c with tid := d }
  | .soft n => { c with soft := c.soft.set n d }
  | .itbPte | .itbIa | .itbIv | .itbIvp | .itbIu | .itbIs | .ivaForm | .ii0 | .ii1 | .iiMail | .excSum | .excPc
  | .icFlush | .iglInst | .intStat _ | .dtbPte | .dtbIa | .dtbIv | .dtbIvp | .dtbIu | .dtbIs | .dva | .dvaForm
  | .cpCtl | .iva | .undefined => c

/-- All ways or exactly one way of `n` (R152, R170). -/
def wayEnableLegal (n : Nat) (e : BitVec 8) : Bool :=
  decide (e.toNat = 2 ^ n - 1) || (List.range n).any (fun k => decide (e.toNat = 2 ^ k))

/-- A change of SOFT_ERR or HARD_ERR from 0 to 1 is reported (R127, R128, R336). -/
def reportRise (old new : W64) (o : Output) (s : State) : State :=
  if !old.getLsbD 0 && new.getLsbD 0 then { s with out := o :: s.out } else s

/-- A PRI_WCSR of one CSR (R47–R52): what the write does beside `storeCsr`. -/
def writeCsr (s : State) (i : BitVec 8) (d : W64) : Except Refusal State :=
  let c := s.csr
  let n := csrName i
  let s' := { s with csr := storeCsr c n d }
  match n with
  | .itbPte => .ok (itbFill s (itbEntryOf c d))
  | .itbIa => .ok (itbFlush s (fun _ => true))
  | .itbIv => .ok (itbFlush s (fun e => decide (e.vpn = c.vpn)))
  | .itbIvp => .ok (itbFlush s (fun e => decide (e.vpn = c.vpn) && !e.ks))
  | .itbIu => .ok (itbFlush s (fun e => decide (e.vpn = c.vpn) && decide (e.upn = c.upn) && !e.ks))
  | .itbIs => .ok (itbFlush s (fun e => pageMatch e.gh e.va (d.extractLsb' 13 40) && decide (e.vpn = c.vpn)
      && (e.ks || decide (e.upn = c.upn))))
  | .icFlush => .ok { s with icache := icEmpty s.icache }
  | .dtbPte => .ok (dtbFill s (dtbEntryOf c d))
  | .dtbIa => .ok (dtbFlush s (fun _ => true))
  | .dtbIv => .ok (dtbFlush s (fun e => decide (e.vpn = c.dVpn)))
  | .dtbIvp => .ok (dtbFlush s (fun e => decide (e.vpn = c.dVpn) && !e.ks))
  | .dtbIu => .ok (dtbFlush s (fun e => decide (e.vpn = c.dVpn) && decide (e.upn = c.dUpn) && !e.ks))
  | .dtbIs => .ok (dtbFlush s (fun e => pageMatch e.gh e.va (d.extractLsb' 13 40) && decide (e.vpn = c.dVpn)
      && (e.ks || decide (e.upn = c.dUpn))))
  | .softErr => .ok (reportRise c.softErr d .softwareFault s')
  | .hardErr => .ok (reportRise c.hardErr d .hardwareFault s')
  | .timerCtl => .ok (if !c.timerCtl.getLsbD 0 && d.getLsbD 0 then { s' with timer := 0 } else s')
  | .dcCtl => if wayEnableLegal 4 (d.extractLsb' 0 4 |>.setWidth 8) then .ok s' else .error .dcWayEnable
  | .scCtl => if wayEnableLegal 8 (d.extractLsb' 0 8) then .ok s' else .error .scWayEnable
  | .intReq =>
    -- U15: while Valid = 1 one of the two requests may be lost, which one is free
    if c.intReq.getLsbD 25 && !Config.intReqNewWins s.freeCtr then .ok s else .ok s'
  | _ => .ok s'

/-! ### Writes that implicit readers may not see yet (R740–R746, R750, U29) -/

/-- The CSRs whose explicit write hardware does not order against the implicit readers, or the implicit writers, with what
they held: for INT_CLR and II_CLR the request bits the write clears (R741–R746, R750, R753). -/
def unorderedOld (c : Csrs) (n : CsrName) (d : W64) : Option W64 :=
  match n with
  | .isCtl => some c.isCtl
  | .iaMatch => some c.iaMatch
  | .iaMask => some c.iaMask
  | .ier k => some (part64 c.ier k)
  | .intClr k => some (part64 c.raw k &&& d)
  | .iiEr => some c.iiEr
  | .iiClr => some ((c.ii0 &&& d &&& 0xFFFF) ||| (c.ii1 <<< 16 &&& d &&& 0xFFFF0000))
  | .icr => some c.icr
  | .icFlush | .isStat | .dcStat | .dsStat | .scStat => some 0
  | _ => none

/-- A status register that hardware sets and software clears (R750). -/
def statusCsr (n : CsrName) : Bool :=
  match n with
  | .isStat | .dcStat | .dsStat | .scStat => true
  | _ => false

/-- `t` with the PRI_WCSR of `s` noted as not yet ordered (R740). -/
def State.noteWrite (s t : State) (idx : BitVec 8) (d : W64) : State :=
  match unorderedOld s.csr (csrName idx) d with
  | some old =>
    let e : CsrWrite := ⟨idx, old, if csrName idx = .icFlush then some s.icache else none, .written⟩
    { t with unsynced := e :: t.unsynced }
  | none => t

/-- A PRI_RCSR of a CSR orders the write of it before (R741, R744–R746), also of IC_FLUSH (R741); INT_CLR and II_CLR have no
readable source, so it is no barrier for them (R745). -/
def State.noteRead (s : State) (idx : BitVec 8) : State :=
  match csrName idx with
  | .intClr _ | .iiClr => s
  | _ =>
    { s with unsynced := s.unsynced.map (fun e =>
        if e.idx = idx ∧ e.sync = .written then { e with sync := .readBack } else e) }

/-- MEMB separates the clear of a status register from what sets its flags later (R750). -/
def State.noteMemb (s : State) : State := { s with unsynced := s.unsynced.filter (fun e => !statusCsr (csrName e.idx)) }

/-- PRI_RET/b drains the pipeline (R740). A fetch or interrupt CSR that no barrier ordered before it may still be seen
old by the boundary and the instruction after it (R741, R744, R745). -/
def State.noteReturn (s : State) : State :=
  { s with unsynced := s.unsynced.filterMap (fun e =>
      if e.sync = .written ∧ !statusCsr (csrName e.idx) ∧ csrName e.idx ≠ .icr then some { e with sync := .returning }
      else none) }

/-- A boundary after a PRI_RET/b. -/
def ageWrites (l : List CsrWrite) : List CsrWrite :=
  l.filterMap (fun e =>
    match e.sync with
    | .returning => some { e with sync := .last }
    | .last => none
    | _ => some e)

/-- The values before that an implicit reader of a CSR may still see; `strict`: a PRI_RCSR does not order this reader (R742,
R744). -/
def State.oldValues (s : State) (idx : BitVec 8) (strict : Bool) : List W64 :=
  (s.unsynced.filter (fun e => decide (e.idx = idx) && (strict || decide (e.sync ≠ .readBack)))).map CsrWrite.old

/-- What an implicit reader sees of a condition that holds `new` now and held one of `olds`: either, when they differ
(U29). `n` names the reader. -/
def seenBool (ctr n : Nat) (new : Bool) (olds : List Bool) : Bool :=
  if olds.all (fun b => b == new) then new else (new ^^ Config.seesOld ctr n)

/-- IS_CTL[SRE] as an instruction in HM sees it for register number `i` (R742). -/
def State.sreSeen (s : State) (i : BitVec 5) : Bool :=
  seenBool s.freeCtr i.toNat s.csr.sre ((s.oldValues 0x11 true).map (fun w => w.getLsbD 0))

/-- ICR[FD] as an atomic instruction sees it (R746). -/
def State.maskSeen (s : State) : Bool :=
  seenBool s.freeCtr 32 (s.csr.icr.getLsbD 0) ((s.oldValues 0xC3 false).map (fun w => w.getLsbD 0))

/-- A bit of IS_CTL that a fill of the instruction cache reads (R741). -/
def State.fillBit (s : State) (bit : Nat) : Bool :=
  seenBool s.freeCtr (32 + bit) (s.csr.isCtl.getLsbD bit) ((s.oldValues 0x11 false).map (fun w => w.getLsbD bit))

/-- The interrupt registers before one write (R745). -/
def CsrWrite.undo (e : CsrWrite) (c : Csrs) : Csrs :=
  match csrName e.idx with
  | .intClr k => { c with raw := c.raw ||| putPart64 0 k e.old }
  | .ier k => { c with ier := putPart64 c.ier k e.old }
  | .iiClr => { c with ii0 := c.ii0 ||| (e.old &&& 0xFFFF), ii1 := c.ii1 ||| (e.old >>> 16 &&& 0xFFFF) }
  | .iiEr => { c with iiEr := e.old }
  | _ => c

/-- The CSRs as the interrupt logic sees them: each write that no barrier ordered may be seen or not (R745). -/
def seenInterrupts (ctr : Nat) (c : Csrs) : Nat → List CsrWrite → Csrs
  | _, [] => c
  | n, e :: r => seenInterrupts ctr (if e.sync ≠ .readBack ∧ Config.seesOld ctr (64 + n) then e.undo c else c) (n + 1) r

/-- See `seenInterrupts`. -/
def State.interruptView (s : State) : Csrs := seenInterrupts s.freeCtr s.csr 0 s.unsynced

/-- A flag that hardware sets in a status register stays set: while an explicit clear of the register is in flight it may
be lost (R750). -/
def State.flagStays (s : State) (idx : BitVec 8) : Bool :=
  !(s.unsynced.any (fun e => decide (e.idx = idx)) && Config.flagLost s.freeCtr idx)

end Sys2Proof.Machine
end

