-- ==== Sys2Proof/Machine/Ops.lean ====
section
/-! DEFINITION. The named operations over memory and registers, taking an exception and returning from one. -/

namespace Sys2Proof.Machine

/-! ### Memory (R223, R224): the byte at PA[45:0], unlisted bytes 0 (R715) -/

/-- The byte at an address. -/
def memGet : List Host.Cell → Nat → BitVec 8
  | [], _ => 0
  | (k, b) :: r, a => if k = a then b else memGet r a

/-- Write one byte, keeping the canonical form: sorted, no byte equal to 0 listed. -/
def memSet : List Host.Cell → Nat → BitVec 8 → List Host.Cell
  | [], a, v => if v = 0 then [] else [(a, v)]
  | (k, b) :: r, a, v =>
    if k = a then (if v = 0 then r else (a, v) :: r)
    else if a < k then (if v = 0 then (k, b) :: r else (a, v) :: (k, b) :: r)
    else (k, b) :: memSet r a v

/-- The canonical form: addresses strictly rising from `lo`, no byte equal to 0. -/
def memWfFrom : Nat → List Host.Cell → Bool
  | _, [] => true
  | lo, (k, b) :: r => decide (lo ≤ k) && decide (b ≠ 0) && memWfFrom (k + 1) r

/-- The canonical form holds of a memory. -/
def Memory.wf (m : List Host.Cell) : Bool := memWfFrom 0 m

/-- `n` bytes at `a`, little-endian (R224). -/
def readMem (m : List Host.Cell) (a : Nat) : Nat → Nat
  | 0 => 0
  | n + 1 => (memGet m a).toNat + 256 * readMem m (a + 1) n

/-- Write the low `n` bytes of `v` at `a`, little-endian (R224). -/
def writeMem (m : List Host.Cell) (a : Nat) : Nat → Nat → List Host.Cell
  | 0, _ => m
  | n + 1, v => writeMem (memSet m a (BitVec.ofNat 8 v)) (a + 1) n (v / 256)

/-! ### Mode and registers -/

/-- The processor mode, pc[1:0] (R36). -/
def State.mode (s : State) : BitVec 2 := s.pc.extractLsb' 0 2

/-- HM (R36). -/
def State.inHm (s : State) : Bool := decide (s.mode = 0#2)

/-- The place of a shadowed register number in the system-register file (R33). -/
def srSlot (i : BitVec 5) : Option (Fin 10) :=
  match i with
  | 1#5 => some 0 | 2#5 => some 1 | 4#5 => some 2 | 5#5 => some 3 | 6#5 => some 4 | 7#5 => some 5
  | 20#5 => some 6 | 21#5 => some 7 | 22#5 => some 8 | 23#5 => some 9
  | _ => none

/-- Which storage an integer register number names: the system registers in HM with IS_CTL[SRE] = 1 (R33); a write of
IS_CTL that no IMEMB followed may not be seen yet (R742). -/
def State.shadow (s : State) (i : BitVec 5) : Option (Fin 10) :=
  if s.inHm && s.sreSeen i then srSlot i else none

/-- x[i] (R12, R33); R31 reads 0 (R31). -/
def State.getX (s : State) (i : BitVec 5) : W64 :=
  match s.shadow i with
  | some k => s.sr[k]
  | none => (s.x[i.toNat]?).getD 0

/-- x[i] <- w (R12, R33); a write to R31 is discarded (R31, log 11). -/
def State.setX (s : State) (i : BitVec 5) (w : W64) : State :=
  match s.shadow i with
  | some k => { s with sr := s.sr.set k w }
  | none => { s with x := s.x.setIfInBounds i.toNat w }

/-- v[i] (R40); V31 reads 0 (R42, log 11). -/
def State.getV (s : State) (i : BitVec 5) : V256 := ((s.v[i.toNat]?).map VReg.bits).getD 0

/-- The lanes of v[i] that hold integer data (R42, U6, log 22). -/
def State.getInts (s : State) (i : BitVec 5) : BitVec 4 := ((s.v[i.toNat]?).map VReg.ints).getD 0

/-- v[i] <- w (R41), with the lanes that hold integer data. -/
def State.setV (s : State) (i : BitVec 5) (w : V256) (ints : BitVec 4) : State :=
  { s with v := s.v.setIfInBounds i.toNat ⟨w, ints⟩ }

/-- f[i] = v[i][63:0] (R40). -/
def State.getF (s : State) (i : BitVec 5) : W64 := lane (s.getV i) 0

/-- f[i] <- w: the high 192 bits become free (R41, U7). -/
def State.setF (s : State) (i : BitVec 5) (w : W64) (int : Bool) : State :=
  s.setV i (Config.highBits s.freeCtr i ++ w) ((BitVec.ofBool int).setWidth 4)

/-- The system register SR23, whatever IS_CTL[SRE] holds (R34). -/
def State.setSr23 (s : State) (w : W64) : State := { s with sr := s.sr.set 9 w }

/-- Sequential execution: pc + 4 (R38). -/
def State.nextPc (s : State) : State := { s with pc := s.pc + 4 }

/-- The instruction word of the current step: slot pc[3:2] of the latched group (R757, log 45). -/
def State.slot (s : State) : Nat := (s.pc.extractLsb' 2 2).toNat

/-- The word at slot `k` of the latched group. -/
def State.groupWord (s : State) (k : Nat) : W32 := s.fgroup.extractLsb' (32 * k) 32

/-- The current instruction word. -/
def State.word (s : State) : W32 := s.groupWord s.slot

/-- Record an output. -/
def State.emit (s : State) (o : Output) : State := { s with out := o :: s.out }

/-- Record an interrupt request (R592). -/
def State.request (s : State) (vec : BitVec 8) : State := { s with csr := s.csr.request vec }

/-- A machine check: the request of INT_VEC[MCHK_VEC] (R601). -/
def State.machineCheck (s : State) : State := s.request s.csr.mchkVec

/-! ### Taking an exception (R524, R526, R575) -/

/-- Entry(E): PRI_BASE[47:16] followed by the offset; the mode becomes HM (R524). -/
def State.entry (s : State) (off : BitVec 16) : W64 := 0#17 ++ s.csr.priBase.extractLsb' 16 31 ++ off

/-- What every exception and interrupt entry does: EXC_PC saves the pc and its mode, lock_valid is cleared, the pc goes
to the entry in HM (R526 steps 2, 4, 5; R606). -/
def State.enter (s : State) (off : BitVec 16) : State :=
  { s with
    csr := { s.csr with excPc := sext53 s.pc }
    lock := { s.lock with valid := false }
    pc := s.entry off }

/-- EXC_SUM with its REG field and other bits (R107). -/
def excSumOf (reg : BitVec 5) (bits : W64) : W64 := bits ||| (reg.setWidth 64 <<< 8)

/-- The REG field where the spec calls it UNPREDICTABLE (U5). -/
def State.freeReg (s : State) : BitVec 5 := Config.excReg s.freeCtr

/-- Taking an exception: EXC_SUM is written whole (R575, D4), then the entry. -/
def State.raise (s : State) (off : BitVec 16) (reg : BitVec 5) (bits : W64) : State :=
  { s with csr := { s.csr with excSum := excSumOf reg bits } }.enter off

/-- OPCDEC (R552): IGL_INST takes the word and LOCK_IGL. -/
def State.raiseOpcdec (s : State) (lockIgl : Bool) : State :=
  { s with csr := { s.csr with iglInst := 0#31 ++ BitVec.ofBool lockIgl ++ s.word } }.raise 0xD80 s.freeReg 0

/-- FEN (R541). -/
def State.raiseFen (s : State) : State :=
  { s with csr := { s.csr with iglInst := 0#32 ++ s.word } }.raise 0xA80 s.freeReg 0

/-- IACV case 1: the ITB denies the fetch (R550). -/
def State.raiseIacv (s : State) : State := s.raise 0xD00 s.freeReg 0

/-- IACV case 2: the instruction address matched IA_MATCH (R550, R672). -/
def State.raiseIaMatch (s : State) : State :=
  { s with csr := { s.csr with iglInst := 0#32 ++ s.word } }.raise 0xD00 s.freeReg (BitVec.twoPow 64 33)

/-- IACV cases 3 and 4: a bad or matched branch target; `bit` is BAD_IVA = 13 or IDA_MATCH = 34 (R550). -/
def State.raiseTarget (s : State) (ra : BitVec 5) (bit : Nat) (target : W64) : State :=
  { s with csr := { s.csr with iva := target } }.raise 0xD00 ra (BitVec.twoPow 64 bit)

/-- ITB_MISS_0 or ITB_MISS_1 (R533, R534). -/
def State.raiseItbMiss (s : State) (va : W64) : State :=
  s.raise (if va.getLsbD 52 then 0xA00 else 0x980) s.freeReg 0

/-- ARITH (R561): `bits` are the cause bits, SWC comes from FPCR[1]. The caller has completed the instruction; the pc
is still its own. -/
def State.raiseArith (s : State) (reg : BitVec 5) (bits : W64) : State :=
  s.raise 0xB80 reg (orBit bits 0 (!s.fpcr.getLsbD 1))

/-- DS_STAT after an exception: flags ORed in, OPCODE and WR overwritten (R149, R150, D5). -/
def dsStatOf (old flags : W64) (op : BitVec 6) (wr : Bool) : W64 :=
  putField (putField (old ||| flags) 4 op) 0 (BitVec.ofBool wr)

/-- The opcode of the current instruction word, for DS_STAT[OPCODE] (R149). -/
def State.opcode (s : State) : BitVec 6 := s.word.extractLsb' 26 6

/-- A data-stream exception: DVA and DS_STAT (kept while a clear of DS_STAT may still collide, R750), then the entry with
REG = Ra (R531, R544, R545). `base` is what DS_STAT held, with the flags the exception clears already cleared. -/
def State.raiseData (s : State) (off : BitVec 16) (ra : BitVec 5) (wr : Bool) (base flags dva : W64) : State :=
  { s with csr := { s.csr with
      dsStat := if s.flagStays 0x48 then dsStatOf base flags s.opcode wr else s.csr.dsStat, dva := dva } }.raise off ra 0

/-- Taking an interrupt (R606): EXC_SUM[REG] becomes free, nothing else of EXC_SUM changes. -/
def State.interrupt (s : State) (off : BitVec 16) : State :=
  { s with csr := { s.csr with excSum := putField s.csr.excSum 8 s.freeReg } }.enter off

/-- What ends a lock sequence before its lock store (R455, D9, U33): a control transfer, taken or not, and a memory
access. -/
def State.unlock (s : State) : State := { s with lock := { s.lock with valid := false } }

/-- PRI_RET (R415): pc and mode from a register; lock_valid is cleared (D9). -/
def State.leave (s : State) (target : W64) : State :=
  { s with lock := { s.lock with valid := false }, pc := target }

end Sys2Proof.Machine
end

