-- ==== Sys2Proof/Machine/Translate.lean ====
section
/-! DEFINITION. The two lookup algorithms TranslateI (R300) and TranslateD (R310). -/

namespace Sys2Proof.Machine

/-- What TranslateI finds. `page` carries what an instruction-cache fill takes from it (R264). -/
inductive FetchTrans where
  | page (pa : PAddr) (ks : Bool) (vpn : BitVec 2) (upn : BitVec 8)
  | miss
  | denied
deriving DecidableEq, Repr

/-- An ITB entry that hits `va` for the current process (R281, R300 steps 2–4). -/
def itbHits (c : Csrs) (va : W64) (e : ItbEntry) : Bool :=
  pageMatch e.gh e.va (va.extractLsb' 13 40) && decide (e.vpn = c.vpn) && (e.ks || decide (e.upn = c.upn))

/-- The execute-permission bit of a mode (R300 step 5). -/
def ItbEntry.allows (e : ItbEntry) (m : BitVec 2) : Bool :=
  match m with
  | 0b01#2 => e.vee
  | 0b10#2 => e.kee
  | 0b11#2 => e.uee
  | _ => true

/-- Page frame bits above the page offset, offset bits from the address (R300 step 6, R314). -/
def joinPage (gh : BitVec 2) (frame va : PAddr) : PAddr :=
  let k := 13 + 5 * gh.toNat
  (frame >>> k <<< k) ||| (va &&& ((BitVec.allOnes 48) >>> (48 - k)))

/-- TranslateI (R300): HM and the VM superpage use the address as it is, with PA[47] = 0. -/
def translateI (s : State) (va : W64) : FetchTrans :=
  let m := s.mode
  if m = 0#2 ∨ (m = 1#2 ∧ va.getLsbD 52 = false) then
    .page (0#1 ++ va.extractLsb' 0 47) true s.csr.vpn s.csr.upn
  else
    match s.itb.toList.find? (fun o => o.any (itbHits s.csr va)) with
    | some (some e) =>
      if e.allows m then
        .page (joinPage e.gh (0#1 ++ e.pa ++ 0#13) (0#1 ++ va.extractLsb' 0 47)) e.ks e.vpn e.upn
      else .denied
    | _ => .miss

/-- How a data access addresses memory: ordinary; the /p forms; the /v forms; /vpte (R292, R293, R310). -/
inductive AccForm where
  | normal
  | phys
  | virt
  | vpte
deriving DecidableEq, Repr

/-- One data access: what the checks R529 need to know of the instruction. -/
structure Acc where
  /-- The Ra field, for EXC_SUM[REG] (R108). -/
  ra : BitVec 5
  /-- Read-class, write-class (R316); an atomic is both. -/
  isR : Bool
  isW : Bool
  form : AccForm := .normal
  /-- Bytes accessed. -/
  size : Nat
  /-- The alignment R226 asks for: 1 where none is checked (R227). -/
  align : Nat
  /-- Element bytes of a general SIMD access, for SIMD_MV (R544); 0 where it has none. -/
  elem : Nat := 0
  simd : Bool := false
  /-- It is a part of an access of 16 bytes or more (R229). -/
  wide : Bool := false
  atomic : Bool := false
  nc : Bool := false
  lock : Bool := false
  /-- The data of a store-class instruction that will write, for the value match (R677). -/
  data : Option Nat := none
  /-- How far below the checked address the bytes begin: the UH forms (R852) and misaligned PRI_ accesses (U23). -/
  back : Nat := 0
deriving DecidableEq, Repr

/-- What TranslateD finds; `denied` carries the flags ACV0, FOR, FOW of R545 causes 5–7 and the physical address. -/
inductive DataTrans where
  | page (pa : PAddr)
  | miss
  | denied (flags : W64) (pa : PAddr)
deriving DecidableEq, Repr

/-- A DTB entry that hits `va` for the current process (R281, R310 steps 2–4). -/
def dtbHits (c : Csrs) (va : W64) (e : DtbEntry) : Bool :=
  pageMatch e.gh e.va (va.extractLsb' 13 40) && decide (e.vpn = c.dVpn) && (e.ks || decide (e.upn = c.dUpn))

/-- The entry an access uses: the one that hits, a free one of several (U20). -/
def dtbLookup (s : State) (va : W64) : Option DtbEntry :=
  let hits := s.dtb.filter (dtbHits s.csr va)
  hits[Config.dtbPick s.freeCtr % max hits.length 1]? <|> hits.head?

/-- Read and write permission of a mode (R310 step 5, R311). -/
def DtbEntry.readable (e : DtbEntry) (m : BitVec 2) : Bool :=
  match m with
  | 0b00#2 => e.hre
  | 0b01#2 => e.vre
  | 0b10#2 => e.kre
  | _ => e.ure

/-- See `DtbEntry.readable`. -/
def DtbEntry.writable (e : DtbEntry) (m : BitVec 2) : Bool :=
  match m with
  | 0b00#2 => e.hwe
  | 0b01#2 => e.vwe
  | 0b10#2 => e.kwe
  | _ => e.uwe

/-- The flags of step 5: ACV0 [1], FOR [2], FOW [3]; every one whose condition holds (R313, D25). -/
def denyFlags (e : DtbEntry) (m : BitVec 2) (isR isW : Bool) : W64 :=
  orBit (orBit (orBit 0 1 ((isR && !e.readable m) || (isW && !e.writable m))) 2 (isR && e.faultOnRead))
    3 (isW && e.faultOnWrite)

/-- The mode whose permissions count (R296). -/
def State.checkMode (s : State) (f : AccForm) : BitVec 2 :=
  match f with
  | .virt | .vpte => s.csr.dPm
  | _ => s.mode

/-- TranslateD (R310): the /p forms and the VM superpage use VA[47:0] as it is. -/
def translateD (s : State) (f : AccForm) (isR isW : Bool) (va : W64) : DataTrans :=
  if f = .phys ∨ (s.mode = 1#2 ∧ va.getLsbD 52 = false) then .page (va.extractLsb' 0 48)
  else
    match dtbLookup s va with
    | none => .miss
    | some e =>
      let flags := denyFlags e (s.checkMode f) isR isW
      let pa := joinPage e.gh (e.pa ++ 0#13) (va.extractLsb' 0 48)
      if flags = 0 then .page pa else .denied flags pa

end Sys2Proof.Machine
end

