-- ==== Sys2Proof/Machine/Errors.lean ====
section
/-! DEFINITION. The corrected-error counter (R334, R335) and the status flags hardware sets under their enables
(R340–R367). -/

namespace Sys2Proof.Machine

/-- A counted correctable error (R334, R335): "bit n carries" by the parameter `carryOut` (OPEN-6). -/
def State.countCorrected (s : State) : State :=
  let c := s.csr
  let n := (c.hserrTh.extractLsb' 7 5).toNat + (if s.par.carryOut then 1 else 0)
  let cnt := (c.hserrCnt.extractLsb' 0 32).toNat + 1
  let h := putField c.hserrCnt 0 (BitVec.ofNat 32 cnt)
  if cnt % 2 ^ n = 0 then
    ({ s with csr := { c with hserrCnt := setBit h 32 } }.request c.crVec).emit .correctedThreshold
  else { s with csr := { c with hserrCnt := h } }

/-- Set bit `bit` of IS_STAT (R115), unless it is lost to a clear in flight (R750). -/
def State.flagIs (s : State) (bit : Nat) : State :=
  { s with csr := { s.csr with isStat := orBit s.csr.isStat bit (s.flagStays 0x14) } }

/-- Set bit `bit` of DC_STAT (R154), as `State.flagIs`. -/
def State.flagDc (s : State) (bit : Nat) : State :=
  { s with csr := { s.csr with dcStat := orBit s.csr.dcStat bit (s.flagStays 0x4B) } }

/-- Set bit `bit` of SC_STAT (R171), as `State.flagIs`. -/
def State.flagSc (s : State) (bit : Nat) : State :=
  { s with csr := { s.csr with scStat := orBit s.csr.scStat bit (s.flagStays 0x81) } }

/-- Bit `bit` of SC_CTL (R170). -/
def State.scEn (s : State) (bit : Nat) : Bool := s.csr.scCtl.getLsbD bit

/-- Bit `bit` of DC_CTL (R152). -/
def State.dcEn (s : State) (bit : Nat) : Bool := s.csr.dcCtl.getLsbD bit

/-- An SBOX error recorded and raised as a machine check when SC_CTL[`en`] is 1, else nothing (R171, R367). -/
def State.sboxCheck (s : State) (en bit : Nat) : State := if s.scEn en then (s.flagSc bit).machineCheck else s

/-- An SBOX single-bit error recorded and counted when SC_CTL[`en`] is 1, else nothing (R367). -/
def State.sboxCorrected (s : State) (en bit : Nat) : State := if s.scEn en then (s.flagSc bit).countCorrected else s

/-- The same for a multi-bit error, which is also reported to the maintenance interface (R336 item 4). -/
def State.sboxMulti (s : State) (en bit : Nat) : State :=
  if s.scEn en then ((s.flagSc bit).machineCheck).emit .multiBitEcc else s

/-- A single-bit error of the data cache that a store meets (R344). -/
def State.rmwSingle (s : State) : State := if s.dcEn 9 then s.countCorrected else s

/-- A multi-bit error of the data cache that a store meets and does not cover (R344). -/
def State.rmwMulti (s : State) : State := if s.dcEn 9 then ((s.flagDc 2).machineCheck).emit .multiBitEcc else s

/-- The bit of SC_STAT for an error response to a write: address 7–9, control 24/26/28, ECC 25/27/29 (R171). -/
def WriteKind.addrBit : WriteKind → Nat
  | .io => 7
  | .nc => 8
  | .vic => 9

/-- See `WriteKind.addrBit`. -/
def WriteKind.controlBit : WriteKind → Nat
  | .io => 24
  | .nc => 26
  | .vic => 28

/-- An illegal-address response to a write (R358): the flag is recorded under WR_ERR_EN, the machine check is requested
whatever that enable is, and a software fault is reported. -/
def State.writeAddrError (s : State) (k : WriteKind) : State :=
  (if s.scEn 13 then s.flagSc k.addrBit else s).machineCheck.emit .softwareFault

/-- An I/O read, an evict or an atomic that met an illegal-address response is also a response-type error (R171, R365).
R333 names only bits [9:7] of SC_STAT for a machine without faults: the model follows R171, and it reports no hardware
fault: whether such a response is one of R336 item 1e is open (DESIGN CHOICE, log 42). -/
def State.requestError (s : State) : State := s.sboxCheck 18 14

/-- The machine-check request would be taken at this instruction: pending, enabled and outside HM (R602, R606). -/
def State.takesMachineCheck (s : State) : Bool := s.interruptView.candidate s.csr.mchkVec && !s.inHm

end Sys2Proof.Machine
end

