-- ==== Sys2Proof/Machine/Track.lean ====
section
/-! DEFINITION. What R245 leaves unordered of memory without MEMB, what deep sleep loses of the caches (R628, U34), and
the writes of other agents. -/

namespace Sys2Proof.Machine

/-- The memory address PA[45:0] (R222). -/
def memAddr (pa : PAddr) : Nat := (pa.extractLsb' 0 46).toNat

/-- One of several possible contents: the free choice `k`. -/
def pickByte (k : Nat) (now : BitVec 8) (l : List (BitVec 8)) : BitVec 8 := (l[k % l.length]?).getD now

/-! ### Coherence of the instruction cache -/

/-- Drop the instruction-cache lines of one physical line (R234, R270). -/
def icDropLine (line : Nat) (c : Vector IcSet 64) : Vector IcSet 64 :=
  c.map (fun t =>
    { t with ways := t.ways.map (fun o => if o.any (fun l => decide (l.pline.toNat = line)) then none else o) })

/-- Change the instruction cache, also as a fetch may still see it before an IC_FLUSH that no barrier ordered (R741). -/
def State.mapCaches (s : State) (f : Vector IcSet 64 → Vector IcSet 64) : State :=
  { s with icache := f s.icache, unsynced := s.unsynced.map (fun e => { e with cache := e.cache.map f }) }

/-- With SC_CTL[IC_COH_EN] = 1 the instruction cache drops the lines of `n` bytes that change at `addr` (R234, R253). The
bytes lie in one 128-byte line or in two adjacent ones. -/
def State.coherent (s : State) (addr n : Nat) : State :=
  s.mapCaches (fun c => if s.scEn 20 then icDropLine ((addr + n - 1) / 128) (icDropLine (addr / 128) c) else c)

/-- `n` bytes of memory change. -/
def State.store (s : State) (addr n v : Nat) : State := { s.coherent addr n with mem := writeMem s.mem addr n v }

/-! ### The order of accesses without MEMB (R245, D10)

Memory in `State.mem` is that of program order. `MemTrack.stream` is what cacheable accesses see: the stores since the last
MEMB in the order in which they took place. Every store enters it at once but a non-cacheable one, which takes its place
when an access that it is not ordered against looks for it: on top, or under cacheable stores that came after it or before
it in the program. A store is placed whole, so that no access sees a part of it (R256). -/

/-- Two ranges of bytes share one. -/
def rangesMeet (a n b k : Nat) : Bool := decide (a < b + k) && decide (b < a + n)

/-- The store meets the range. -/
def MemStore.meets (e : MemStore) (a n : Nat) : Bool := rangesMeet e.addr e.size a n

/-- The byte a store leaves at an address, if it covers it. -/
def MemStore.byte (e : MemStore) (x : Nat) : Option (BitVec 8) :=
  if e.addr ≤ x ∧ x < e.addr + e.size then some (BitVec.ofNat 8 (e.value / 2 ^ (8 * (x - e.addr)))) else none

/-- The byte an event leaves at an address: a fence leaves none. -/
def MemEvent.byte (e : MemEvent) (x : Nat) : Option (BitVec 8) := if e.kind = .fence then none else e.bytes.byte x

/-- A store that the program has not reached and that meets the range. -/
def MemEvent.ahead (e : MemEvent) (a n : Nat) : Bool := decide (e.kind = .early) && e.bytes.meets a n

/-- Some store seen early meets the range. -/
def MemTrack.hasEarly (t : MemTrack) (a n : Nat) : Bool := t.stream.any (fun e => e.ahead a n)

/-- Forget the stores seen early that meet the range: what the program did since excludes that they came so soon. -/
def MemTrack.dropEarly (t : MemTrack) (a n : Nat) : MemTrack := { t with stream := t.stream.filter (fun e => !e.ahead a n) }

/-- What the program has done: without the stores it has not reached. -/
def MemTrack.real (t : MemTrack) : MemTrack := { t with stream := t.stream.filter (fun e => decide (e.kind ≠ .early)) }

/-- A byte as cacheable accesses see it; `m` is memory. -/
def MemTrack.seen (t : MemTrack) (m : List Host.Cell) (x : Nat) : BitVec 8 :=
  match t.stream.findSome? (fun e => e.byte x) with
  | some b => b
  | none =>
    match t.base.find? (fun c => decide (c.1 = x)) with
    | some c => c.2
    | none => memGet m x

/-- `n` bytes as cacheable accesses see them, little-endian. -/
def MemTrack.seenBytes (t : MemTrack) (m : List Host.Cell) (a : Nat) : Nat → Nat
  | 0 => 0
  | n + 1 => (t.seen m a).toNat + 256 * t.seenBytes m (a + 1) n

/-- Put a non-cacheable store into the stream under at most `depth` newer events: not under a non-cacheable store or a
fence that it meets, since those it follows (R245). -/
def placeUnder (e : MemStore) : Nat → List MemEvent → List MemEvent
  | _, [] => [⟨.nc, e⟩]
  | 0, l => ⟨.nc, e⟩ :: l
  | d + 1, x :: r =>
    if decide (x.kind ≠ .cached) && x.bytes.meets e.addr e.size then ⟨.nc, e⟩ :: x :: r else x :: placeUnder e d r

/-- Choose which late stores take their place now, of those `want` asks for by their number, from the newest: with a store
every older one that it meets. Answers the chosen ones, oldest first, and those that stay, newest first. -/
def chooseLate (want : Nat → MemStore → Bool) : Nat → List MemStore → List MemStore → List MemStore × List MemStore
  | _, chosen, [] => (chosen, [])
  | k, chosen, e :: r =>
    if want k e || chosen.any (fun c => c.meets e.addr e.size) then chooseLate want (k + 1) (e :: chosen) r
    else
      let q := chooseLate want (k + 1) chosen r
      (q.1, e :: q.2)

/-- The chosen late stores take their places, each at a free depth. -/
def MemTrack.place (t : MemTrack) (ctr : Nat) (want : Nat → MemStore → Bool) : MemTrack × List MemStore :=
  let q := chooseLate want 0 [] t.late
  ({ t with
      stream := q.1.foldl (fun l e => placeUnder e (Config.raceDepth ctr e.addr e.value) l) t.stream
      late := q.2 }, q.1)

/-- The bytes of stores that have taken their places become what memory holds. -/
def State.settle (s : State) (l : List MemStore) : State :=
  l.foldl (fun t e => t.store e.addr e.size (t.track.real.seenBytes t.mem e.addr e.size)) s

/-- Late stores take their places, as `MemTrack.place`. -/
def State.place (s : State) (want : Nat → MemStore → Bool) : State :=
  let q := s.track.place s.freeCtr want
  ({ s with track := q.1 }).settle q.2

/-- Nothing that R245 leaves open meets the range: no late store, none that is seen early, and for a non-cacheable access no
cacheable store to be ordered after. -/
def noRace (s : State) (nc : Bool) (a n : Nat) : Bool :=
  s.track.late.all (fun e => !e.meets a n) && !s.track.hasEarly a n
    && (!nc || s.track.stream.all (fun e => !e.bytes.meets a n))

/-- One indivisible read of at most 8 bytes (R256). Where R245 leaves it open a cacheable read sees any of the late stores
or not; a non-cacheable one follows all of them and is followed by all that comes after, stores seen early included. -/
def State.readPart (s : State) (nc : Bool) (a n : Nat) : Nat × State :=
  if noRace s nc a n then (readMem s.mem a n, s)
  else
    let u := if nc then { s with track := s.track.dropEarly a n } else s
    let t := u.place (fun k e => e.meets a n && (nc || Config.raceSeen s.freeCtr a k))
    (t.track.seenBytes t.mem a n,
      if nc then { t with track := { t.track with stream := ⟨.fence, a, n, 0⟩ :: t.track.stream } } else t)

/-- MEMB orders every earlier access (R250): all late stores take their places; one seen early that never came is
forgotten. -/
def State.settleRaces (s : State) : State :=
  let t := { s with track := s.track.real }.place (fun _ _ => true)
  { t with track := ⟨[], [], [], t.track.dirty⟩ }

/-- A store that cacheable accesses see at once. -/
def MemTrack.push (t : MemTrack) (a n v : Nat) : MemTrack := { t with stream := ⟨.cached, a, n, v⟩ :: t.stream }

/-- A non-cacheable store of this core that cacheable loads see before the program reaches it (R245): the non-cacheable
stores before it that it meets take their places first. -/
def State.pushEarly (s : State) (a n v : Nat) : State :=
  let t := s.place (fun _ e => e.meets a n)
  { t with track := { t.track with stream := ⟨.early, a, n, v % 2 ^ (8 * n)⟩ :: t.track.stream } }

/-- The program reaches a store that was seen early, the oldest such. -/
def arrive (e : MemStore) : List MemEvent → List MemEvent
  | [] => []
  | x :: r => if x = ⟨.early, e⟩ ∧ !r.elem ⟨.early, e⟩ then ⟨.nc, e⟩ :: r else x :: arrive e r

/-- Put a non-cacheable store under the oldest store seen early that it meets, since it comes before it (R245); none where
it follows a non-cacheable access above that. -/
def putUnder (e : MemStore) (depth : Nat) : List MemEvent → Option (List MemEvent)
  | [] => none
  | x :: r =>
    if r.any (fun y => y.ahead e.addr e.size) then
      if (decide (x.kind = .nc) || decide (x.kind = .fence)) && x.bytes.meets e.addr e.size then none
      else (putUnder e depth r).map (fun l => x :: l)
    else if x.ahead e.addr e.size then some (x :: placeUnder e depth r)
    else none

/-- The stream once the program makes a non-cacheable store that meets one seen early: that one itself, or one before it;
none where neither can be. -/
def MemTrack.reach (t : MemTrack) (ctr : Nat) (e : MemStore) : Option (List MemEvent) :=
  match (t.stream.filter (fun x => x.ahead e.addr e.size)).getLast? with
  | none => none
  | some x =>
    if x.bytes = e then some (arrive e t.stream)
    else if t.late.any (fun l => l.meets e.addr e.size) then none
    else putUnder e (Config.raceDepth ctr e.addr e.value) t.stream

/-! ### Recording stores -/

/-- A store of `new` over `old` to one byte, as the record of what no flush has written back: a cacheable store that changes
a byte lists the byte, a non-cacheable one only adds to a listed byte (U34). -/
def noteDirty (l : List DirtyByte) (cached : Bool) (a : Nat) (old new : BitVec 8) : List DirtyByte :=
  match l.find? (fun d => decide (d.addr = a)) with
  | some d => { d with old := old :: d.old } :: l.filter (fun d => decide (d.addr ≠ a))
  | none => if cached && decide (old ≠ new) then ⟨a, [old]⟩ :: l else l

/-- The same of the low `n` bytes of `v` at `a`; `m` is memory before them. -/
def noteDirtyBytes (m : List Host.Cell) (cached : Bool) (a : Nat) : Nat → Nat → List DirtyByte → List DirtyByte
  | 0, _, l => l
  | n + 1, v, l =>
    noteDirtyBytes m cached (a + 1) n (v / 256) (noteDirty l cached a (memGet m a) (BitVec.ofNat 8 v))

/-- What the bytes of a non-cacheable store hold before it, where no earlier one says so. -/
def noteBase (m : List Host.Cell) (a : Nat) : Nat → List Host.Cell → List Host.Cell
  | 0, l => l
  | n + 1, l => noteBase m (a + 1) n (if l.any (fun c => decide (c.1 = a)) then l else (a, memGet m a) :: l)

/-- The indivisible parts of an access: at most 8 bytes, ending at multiples of 8, by rising address (R256 leaves their
order open; DESIGN CHOICE, log 57). -/
def partsOf (a n : Nat) : List (Nat × Nat) :=
  (List.range ((a + n + 7) / 8 - a / 8)).map (fun i =>
    let b := 8 * (a / 8 + i)
    (max a b, min (a + n) (b + 8) - max a b))

/-- Record one indivisible store (R245); `m` is memory before it. -/
def MemTrack.note (t : MemTrack) (m : List Host.Cell) (cached : Bool) (a n v : Nat) : MemTrack :=
  if cached then t.push a n v
  else { t with late := ⟨a, n, v % 2 ^ (8 * n)⟩ :: t.late, base := noteBase m a n t.base }

/-- Record a store, part by part. -/
def MemTrack.noteParts (t : MemTrack) (m : List Host.Cell) (cached : Bool) (a n v : Nat) : MemTrack :=
  (partsOf a n).foldl (fun t p => t.note m cached p.1 p.2 (v / 2 ^ (8 * (p.1 - a)))) t

/-- One indivisible non-cacheable store where one was seen early: with its place it leaves what the stream shows, else the
stores seen early were none of this program and it waits like any other. -/
def State.writeReached (s : State) (a n v : Nat) : State :=
  match s.track.reach s.freeCtr ⟨a, n, v % 2 ^ (8 * n)⟩ with
  | some l =>
    let t := { s.track with stream := l }
    { s with track := t }.store a n (t.real.seenBytes s.mem a n)
  | none => { s with track := (s.track.dropEarly a n).note s.mem false a n v }.store a n v

/-- A store of this core (R223, R245). -/
def State.write (s : State) (cached : Bool) (a n v : Nat) : State :=
  let t := { s.track with dirty := noteDirtyBytes s.mem cached a n v s.track.dirty }
  if cached || !t.hasEarly a n then { s with track := t.noteParts s.mem cached a n v }.store a n v
  else (partsOf a n).foldl (fun u p => u.writeReached p.1 p.2 (v / 2 ^ (8 * (p.1 - a)))) { s with track := t }

/-- Another agent's write: memory, the instruction-cache line (R253), the locked line (R458), and what this core had not
written back of the byte. -/
def State.agentWrite (s : State) (addr : Nat) (b : BitVec 8) : State :=
  let t := s.track.push addr 1 b.toNat
  { s with
    lock := { s.lock with line := s.lock.line && !decide (memAddr s.lock.addr / 128 = addr / 128) }
    track := { t with dirty := t.dirty.filter (fun d => decide (d.addr ≠ addr)) } }.store addr 1 b.toNat

/-! ### Whole accesses -/

/-- What another agent writes after part `k` of a vector access (R256). -/
def State.midWrite (s : State) (k : Nat) : State :=
  { (s.midWrites.filter (fun w => decide (w.after = k))).foldl (fun t w => t.agentWrite w.addr w.byte) s with
    midWrites := s.midWrites.filter (fun w => decide (w.after ≠ k)) }

/-- A read, part by part; `k` numbers the part. -/
def readParts (nc : Bool) (k : Nat) : List (Nat × Nat) → State → Nat × State
  | [], s => (0, s)
  | p :: r, s =>
    let q := s.readPart nc p.1 p.2
    let u := readParts nc (k + 1) r (q.2.midWrite k)
    (q.1 + 2 ^ (8 * p.2) * u.1, u.2)

/-- A write, part by part. -/
def writeParts (cached : Bool) (k : Nat) : List (Nat × Nat) → Nat → State → State
  | [], _, s => s
  | p :: r, v, s => writeParts cached (k + 1) r (v / 2 ^ (8 * p.2)) ((s.write cached p.1 p.2 v).midWrite k)

/-- Read `n` bytes of memory (R223): at once, or part by part where order is open or another agent writes in between. -/
def State.load (s : State) (nc : Bool) (a n : Nat) : Nat × State :=
  if noRace s nc a n && (decide (n ≤ 8) || s.midWrites.isEmpty) then (readMem s.mem a n, s)
  else if n ≤ 8 then s.readPart nc a n
  else readParts nc 0 (partsOf a n) s

/-- Write the low `n` bytes of `v` (R223), as `State.load`. -/
def State.save (s : State) (cached : Bool) (a n v : Nat) : State :=
  if decide (8 < n) && !s.midWrites.isEmpty then writeParts cached 0 (partsOf a n) v s else s.write cached a n v

/-! ### Flushing and losing -/

/-- A flush or an evict writes the line back (R473–R475). -/
def State.cleanLine (s : State) (line : Nat) : State :=
  { s with track := { s.track with dirty := s.track.dirty.filter (fun d => decide (d.addr / 128 ≠ line)) } }

/-- Deep sleep loses the caches: a byte no flush wrote back holds any of its contents since (R628, U34). -/
def State.loseCaches (s : State) : State :=
  let t := s.settleRaces
  { t with
    mem := t.track.dirty.foldl
      (fun m d =>
        memSet m d.addr (pickByte (Config.lostByte t.freeCtr d.addr) (memGet m d.addr) (memGet m d.addr :: d.old))) t.mem
    track := ⟨[], [], [], []⟩ }

/-- `n` free bytes. -/
def wrongBytes (ctr a : Nat) : Nat → Nat
  | 0 => 0
  | n + 1 => (Config.wrongByte ctr a).toNat + 256 * wrongBytes ctr (a + 1) n

/-- A response with a multi-bit ECC error fills the caches with the wrong data of its line (R351, R356, R361). What main memory
then holds, and so what a later fill brings, is not stated: here memory takes the wrong data, which so outlasts a flush, an
evict and the loss of the clean line in deep sleep (DESIGN CHOICE, log 42). -/
def State.corruptLine (s : State) (line : Nat) : State :=
  let v := wrongBytes s.freeCtr (128 * line) 128
  { s with mem := writeMem s.mem (128 * line) 128 v, track := s.track.push (128 * line) 128 v }

end Sys2Proof.Machine
end

