-- ==== Sys2Proof/Machine/Access.lean ====
section
/-! DEFINITION. One data access: the checks of R529 in their order, then the read or the write. Every function answers
`.error` with the state AFTER the exception it takes. -/

namespace Sys2Proof.Machine

/-- DS_STAT[WR] (R545): free for an atomic (U24). -/
def Acc.wr (a : Acc) (s : State) : Bool := if a.isR && a.isW then Config.dsWr s.freeCtr else a.isW

/-! ### Debug matches (R675–R680) -/

/-- `da_hit` (R675) for a compared address of `n` bits. -/
def daBitsOk (c : Csrs) (a : W64) (n : Nat) : Bool :=
  decide ((c.daMask &&& ((a ^^^ c.daMatch) ^^^ c.daMatchMode ^^^ BitVec.allOnes 64) &&& (BitVec.allOnes 64 >>> (64 - n))) = 0)

/-- Whether DA_MATCH[EN] enables the class of the access (R675): 0b11 enables every class. -/
def daClass (c : Csrs) (isR isW : Bool) : Bool :=
  (c.daMatch.getLsbD 53 && isR) || (c.daMatch.getLsbD 54 && isW) || (c.daMatch.getLsbD 53 && c.daMatch.getLsbD 54)

/-- `da_hit` (R675). -/
def daHit (c : Csrs) (a : Acc) (va : W64) (pa : PAddr) : Bool :=
  daClass c a.isR a.isW
    && (if c.daMatch.getLsbD 55 || decide (a.form = .phys) then daBitsOk c (pa.setWidth 64) 48
        else daBitsOk c va 53)

/-- `dv_hit` in one aligned 8-byte word (R677): the byte lanes the store covers, and its data placed in them. -/
def dvWordHit (c : Csrs) (lanes image : W64) : Bool :=
  decide ((c.dvMask &&& ~~~lanes) = 0) && decide (((image ^^^ c.dvMatch) &&& c.dvMask) = 0)

/-- `dv_hit` (R677). The data and the byte lanes are those the store writes: of a misaligned PRI_ST the free bytes in the
enclosing aligned unit (U23; DESIGN CHOICE, log 27). A vector store, its UL and UH forms with a part of 8 bytes or fewer included, matches only where
the parameter says so, and then in any word it covers (U27; DESIGN CHOICE, log 17). -/
def dvHit (s : State) (a : Acc) (va : W64) : Bool :=
  match a.data with
  | none => false
  | some d =>
    let o := (va.toNat - a.back) % 8
    s.dcEn 19 && (!a.simd || s.par.dvMatchWideStores) &&
      (List.range ((o + a.size + 7) / 8)).any (fun j => dvWordHit s.csr
        (BitVec.ofNat 64 ((2 ^ (8 * a.size) - 1) * 2 ^ (8 * o) / 2 ^ (64 * j)))
        (BitVec.ofNat 64 (d % 2 ^ (8 * a.size) * 2 ^ (8 * o) / 2 ^ (64 * j))))

/-- Whether the address matches where an exception before the match phase leaves the physical one unknown, `none`, and
with it a match of physical addresses open (R680; DESIGN CHOICE, log 32). -/
def daMayHit (c : Csrs) (a : Acc) (va : W64) (pa : Option PAddr) : Bool :=
  match pa with
  | some p => daHit c a va p
  | none => daClass c a.isR a.isW && (c.daMatch.getLsbD 55 || daBitsOk c va 53)

/-- The extra DS_STAT match flags an earlier exception may record: the two errata of R680 (U28). -/
def errataFlags (s : State) (a : Acc) (va : W64) (pa : Option PAddr) (first : Bool) : W64 :=
  let e := Config.errata s.freeCtr
  let both := s.dcEn 20 && dvHit s a va && daMayHit s.csr a va pa
  orBit (orBit 0 19 (first && dvHit s a va && e.2)) 13 (both && e.1)

/-! ### The exceptions of a data access -/

/-- DFAULT (R545). -/
def State.dfault (s : State) (a : Acc) (flags dva : W64) : State :=
  s.raiseData 0xC80 a.ra (a.wr s) s.csr.dsStat flags dva

/-- DVA where it holds a physical address: what DVA[63:48] hold is not stated (R158). -/
def State.dvaOf (s : State) (pa : PAddr) : W64 := Config.dvaHigh s.freeCtr ++ pa

/-- BAD_DVA (R228, R546). -/
def State.badDva (s : State) (a : Acc) (va : W64) : State := s.dfault a (setBit (errataFlags s a va none true) 11) va

/-- UNALIGN (R544): a scalar access clears the flags first; a general SIMD access misaligned for the vector but aligned
for its element sets SIMD_MV. -/
def State.unalign (s : State) (a : Acc) (va : W64) : State :=
  let mv := a.simd && decide (0 < a.elem) && decide (va.toNat % a.elem = 0)
  s.raiseData 0xB00 a.ra (a.wr s) (if a.simd then s.csr.dsStat else 0)
    (orBit 0 15 mv ||| errataFlags s a va none true) va

/-- A DTB miss (R530–R532): the double miss writes neither DVA nor DS_STAT. -/
def State.dtbMiss (s : State) (a : Acc) (va : W64) : State :=
  if a.form = .vpte then s.raise 0x800 a.ra 0
  else s.raiseData (if va.getLsbD 52 then 0x900 else 0x880) a.ra (a.wr s) s.csr.dsStat (errataFlags s a va none false) va

/-! ### The checks -/

/-- Memory space, I/O space (R221) and the non-cacheable accesses (R222). -/
def isIo (pa : PAddr) : Bool := pa.getLsbD 47

/-- A non-cacheable access to memory (R222). -/
def Acc.uncached (a : Acc) (pa : PAddr) : Bool := a.nc || pa.getLsbD 46

/-- The I/O offset PA[46:0]. -/
def ioAddr (pa : PAddr) : Nat := (pa.extractLsb' 0 47).toNat

/-- An I/O register with the wanted access right covers all `n` bytes (R230, OPEN-2). -/
def ioLegal (s : State) (write : Bool) (addr n : Nat) : Bool :=
  s.par.iorMap.any (fun r => decide (r.base ≤ addr) && decide (addr + n ≤ r.base + r.size)
    && (if write then r.writable else r.readable))

/-- The platform accepts the address (R230). -/
def platformOk (s : State) (pa : PAddr) (write : Bool) (n : Nat) : Bool :=
  if isIo pa then ioLegal s write (ioAddr pa) n else decide (memAddr pa + n ≤ s.par.memSize)

/-- The access is cacheable (R222). -/
def Acc.cached (a : Acc) (pa : PAddr) : Bool := !isIo pa && !a.uncached pa

/-- Where the bytes of an access begin. -/
def Acc.base (a : Acc) (pa : PAddr) : PAddr := pa - BitVec.ofNat 48 a.back

/-- ACV1 by instruction type (R229, R547). -/
def Acc.typeIllegal (a : Acc) (pa : PAddr) : Bool :=
  (isIo pa && (a.simd || a.wide || a.atomic || a.nc || decide (16 ≤ a.size))) || (a.lock && (isIo pa || pa.getLsbD 46))

/-- Steps 6–9 of R529: sign extension, alignment, translation, instruction type. -/
def addressPhase (s : State) (a : Acc) (va : W64) : Except State PAddr :=
  if a.form ≠ .phys ∧ !canonical va then .error (s.badDva a va)
  else if va.toNat % a.align ≠ 0 then .error (s.unalign a va)
  else
    match translateD s a.form a.isR a.isW va with
    | .miss => .error (s.dtbMiss a va)
    | .denied flags pa => .error (s.dfault a (flags ||| errataFlags s a va (some pa) false) va)
    | .page pa => if a.typeIllegal pa then .error (s.dfault a (setBit (errataFlags s a va (some pa) false) 12) va) else .ok pa

/-- Step 10 of R529: the debug matches as one function (R679). -/
def matchPhase (s : State) (a : Acc) (va : W64) (pa : PAddr) : Except State Unit :=
  let ha := daHit s.csr a va pa
  let hv := dvHit s a va
  let flags := orBit (orBit (orBit 0 13 ha) 19 hv) 20 (ha && hv)
  if s.dcEn 20 then
    if ha && hv then .error (s.dfault a flags (s.dvaOf pa)) else .ok ()
  else if ha || hv then .error (s.dfault a flags (if ha then va else s.dvaOf pa))
  else .ok ()

/-- Step 11 of R529: an error of the data cache, armed by the environment or forced in the FPGA environment by
DC_CTL[14:12] (R152), which this access consumes; it needs a cacheable access, DAT_ERR a load, and each its enable (R342,
R343). With its enable off an error is consumed, nothing is recorded and the access goes on with the right data (the spec
is silent on DAT_ERR: DESIGN CHOICE, log 42). A store of less than a word meets a forced error as R344 says. -/
def arrayPhase (s : State) (a : Acc) (va : W64) (pa : PAddr) : Except State State :=
  let forced := fun n => s.par.fpga && a.cached pa && s.dcEn n
  let tag := forced 12 || (a.cached pa && decide (s.armedData = some .dtagParity))
  let ecc := a.isR && (forced 13 || forced 14 || (a.cached pa && decide (s.armedData = some .dataEcc)))
  let t := if s.armedData = some .dtagParity ∨ s.armedData = some .dataEcc then { s with armedData := none } else s
  if tag && s.dcEn 4 then .error (t.countCorrected.dfault a (setBit (errataFlags s a va (some pa) true) 10) (s.dvaOf pa))
  else if ecc && s.dcEn 9 then .error (t.dfault a (setBit 0 14) (s.dvaOf pa))
  else if !a.isR && decide (a.size % 8 ≠ 0) then
    let u := if forced 14 then t.rmwSingle else t
    .ok (if forced 13 then u.rmwMulti else u)
  else .ok t

/-- Step 12 of R529, ACV1 by the platform (R548): a read of any space, a write of cacheable space; an I/O read closes the
write window (R243). A write to non-cacheable or I/O space at an illegal address does not fault here. That the platform's
answer comes before the error responses is the model's choice inside step 12 (DESIGN CHOICE, log 66). -/
def platformPhase (s : State) (a : Acc) (pa : PAddr) : Except State Unit :=
  if (a.isR || a.cached pa) && !platformOk s (a.base pa) (a.isW && !a.isR) a.size then
    let s' := if a.isR && (isIo pa || a.isW) then s.requestError else s
    let t := if isIo pa then { s' with ioWin := none } else s'
    .error (t.dfault a (setBit 0 12) (s.dvaOf pa))
  else .ok ()

/-- A response with the control-error flag to an access that has not retired (R359). -/
def controlResponse (s : State) : Except State State :=
  if s.scEn 14 && s.dcEn 7 then
    let m := (s.flagDc 0).machineCheck
    if m.takesMachineCheck then .error (m.interrupt 0xF80) else .ok m
  else .ok s

/-- A response with a multi-bit ECC error to an access that has not retired (R351, R361): with SYSDAT_ERR_EN = 1 it is
recorded, reported and forwarded as the flag that raises DFAULT. -/
def eccResponse (s : State) (a : Acc) (pa : PAddr) : Except State State :=
  if s.scEn 16 then .error ((s.sboxMulti 16 12).dfault a (setBit 0 16) (s.dvaOf pa)) else .ok s

/-- Step 12 of R529, the bad responses the environment armed (R351, R359–R362). A store that is not cacheable has retired:
its error is recorded in SC_STAT (R360, R362). A multi-bit ECC error leaves its wrong data in the line of a cacheable
access; a read that is not cacheable and gets no flag takes the wrong data itself (`performRead`). An I/O read that gets
such an answer has left the core: it closes the write window (R243). -/
def responsePhase (s : State) (a : Acc) (pa : PAddr) : Except State State :=
  let t := { s with armedData := none, ioWin := if isIo pa && a.isR then none else s.ioWin }
  let kind : WriteKind := if isIo pa then .io else .nc
  let waits := a.cached pa || a.isR
  match s.armedData with
  | some .control =>
    if waits then controlResponse t else .ok (if s.scEn 14 then t.sboxCheck 13 kind.controlBit else t)
  | some .multiEcc =>
    if !waits then .ok (t.sboxCheck 13 (kind.controlBit + 1))
    else if a.cached pa then eccResponse (t.corruptLine (memAddr pa / 128)) a pa
    else if s.scEn 16 then eccResponse t a pa
    else .ok s
  | _ => .ok s

/-- Steps 11 and 12 of R529: the data cache, the platform and the response. -/
def physicalPhase (s : State) (a : Acc) (va : W64) (pa : PAddr) : Except State State :=
  match arrayPhase s a va pa with
  | .error t => .error t
  | .ok t =>
    match platformPhase t a pa with
    | .error u => .error u
    | .ok () => responsePhase t a pa

/-- All the checks of one data access, in the order of R529. -/
def dataPhase (s : State) (a : Acc) (va : W64) : Except State (PAddr × State) :=
  match addressPhase s a va with
  | .error t => .error t
  | .ok pa =>
    match matchPhase s a va pa with
    | .error t => .error t
    | .ok () =>
      match physicalPhase s a va pa with
      | .error t => .error t
      | .ok t => .ok (pa, t)

/-! ### Reading and writing -/

/-- The value of an I/O register: CHIP_CORE where it is placed (R199), else what the device answers (R236) to the `k`-th I/O
read of the step. -/
def ioValue (s : State) (addr n : Nat) (k : Nat := 0) : W64 :=
  match s.par.chipCore with
  | some (p, v) =>
    if addr = p ∧ n = 4 then (v &&& 0xFFFF00FF ||| 0x3100).setWidth 64
    else Config.ioRead s.freeCtr k addr n &&& (BitVec.allOnes 64 >>> (64 - 8 * n))
  | none => Config.ioRead s.freeCtr k addr n &&& (BitVec.allOnes 64 >>> (64 - 8 * n))

/-- An I/O read closes the write window and is shown outside (R243, R256). -/
def State.ioRead (s : State) (addr n : Nat) : Nat × State :=
  let v := ioValue s addr n
  (v.toNat, { s with ioWin := none }.emit (.ioRead addr n v))

/-- Perform a checked read (R223). A multi-bit ECC error still armed here comes without its flag: the data is wrong
(R351). -/
def performRead (s : State) (a : Acc) (pa : PAddr) : Nat × State :=
  let p := a.base pa
  let r := if isIo pa then s.ioRead (ioAddr p) a.size else s.load (a.uncached pa) (memAddr p) a.size
  if s.armedData = some .multiEcc then (wrongBytes s.freeCtr (memAddr p) a.size, { r.2 with armedData := none }) else r

/-- A checked read of an instruction that may still meet a fault: of memory it is performed, which has no side effect (R256
item 4); of I/O space it is only answered, with what is to be shown outside once the instruction completes (R256 item 3);
`k` I/O reads of the instruction came before. -/
def pendRead (s : State) (a : Acc) (pa : PAddr) (k : Nat := 0) : (Nat × List Output) × State :=
  if isIo pa then
    let addr := ioAddr (a.base pa)
    let v := ioValue s addr a.size k
    if s.armedData = some .multiEcc then
      ((wrongBytes s.freeCtr (memAddr (a.base pa)) a.size, [.ioRead addr a.size v]), { s with armedData := none })
    else ((v.toNat, [.ioRead addr a.size v]), s)
  else (((performRead s a pa).1, []), (performRead s a pa).2)

/-- The I/O reads of an instruction that completes are performed, in their order (R256 item 3); each closes the write window
(R243). -/
def State.ioReads (s : State) (l : List Output) : State := l.foldl (fun t o => { t with ioWin := none }.emit o) s

/-- Whether an I/O write may join the previous one (R243): words in an aligned 64 bytes, longwords in an aligned 128,
ascending and not overlapping, the window open and merging allowed (R174). -/
def ioMayJoin (s : State) (addr n : Nat) : Bool :=
  match s.ioWin with
  | none => false
  | some w =>
    decide (w.size = n) && decide (4 ≤ n) && decide (w.addr + n ≤ addr) && decide (addr / (16 * n) = w.addr / (16 * n))
      && decide (s.csr.mergeOvtime ≠ 0)

/-- Perform an I/O write: shown outside, joined to the previous request or not (R243, R244: either is allowed). The
window closes at the top of its range. -/
def State.ioWrite (s : State) (addr n v : Nat) : State :=
  let joined := ioMayJoin s addr n && Config.ioMerge s.freeCtr
  let top := decide (n < 4) || decide ((addr + n) % (16 * n) = 0) || decide (s.csr.mergeOvtime = 0)
  { s with ioWin := if top then none else some ⟨n, addr, if joined then ((s.ioWin.map IoWindow.age).getD 0) else 0⟩ }.emit
    (.ioWrite addr n (BitVec.ofNat 64 (v % 2 ^ (8 * n))) joined)

/-- Perform a checked write (R223): an illegal address loses the data and is reported (R358); in I/O space it closes the
write window (R243). -/
def performWrite (s : State) (a : Acc) (pa : PAddr) (v : Nat) : State :=
  let p := a.base pa
  if isIo pa then
    if ioLegal s true (ioAddr p) a.size then s.ioWrite (ioAddr p) a.size v
    else { s with ioWin := none }.writeAddrError .io
  else if platformOk s p true a.size then s.save (a.cached pa) (memAddr p) a.size v
  else s.writeAddrError .nc

/-- A load: the checks, then the read; a memory access ends a lock sequence (U33). -/
def doLoad (s : State) (a : Acc) (va : W64) : Except State (Nat × State) :=
  match dataPhase s a va with
  | .error t => .error t
  | .ok (pa, t) => .ok (performRead t.unlock a pa)

/-- A store of the low bytes of `v`: the checks, then the write. -/
def doStore (s : State) (a : Acc) (va : W64) (v : Nat) : Except State State :=
  match dataPhase s { a with data := some v } va with
  | .error t => .error t
  | .ok (pa, t) => .ok (performWrite t.unlock a pa v)

/-- An atomic read-modify-write (R463): the old value and the state with the new one written. In non-cacheable memory it
is a non-cacheable read and a non-cacheable write, like every access there (R222; DESIGN CHOICE, log 57). -/
def doAtomic (s : State) (a : Acc) (va : W64) (op : Nat → Nat) : Except State (Nat × State) :=
  match dataPhase s a va with
  | .error t => .error t
  | .ok (pa, t) =>
    let r := performRead t.unlock a pa
    .ok (r.1, r.2.save (a.cached pa) (memAddr (a.base pa)) a.size (op r.1 % 2 ^ (8 * a.size)))

end Sys2Proof.Machine
end

