-- ==== Sys2Proof/Machine/Counters.lean ====
section
/-! DEFINITION. The event counters (R650–R654) and how an instruction retires. -/

namespace Sys2Proof.Machine

/-- The counting condition under a value of IS_CTL of a counter whose enable is its bit `en` (R113, R651). -/
def countsUnder (m : BitVec 2) (en : Nat) (c : W64) : Bool :=
  c.getLsbD en && (c.getLsbD 10 || (c.getLsbD 11 && decide (m = c.extractLsb' 12 2)))

/-- The counting condition; a write of IS_CTL that no barrier ordered may not be seen yet (R744). -/
def State.counting (s : State) (en : Nat) : Bool :=
  seenBool s.freeCtr (40 + en) (countsUnder s.mode en s.csr.isCtl) ((s.oldValues 0x11 s.inHm).map (countsUnder s.mode en))

/-- PC0_SEL (R119). -/
def Csrs.pc0Sel (c : Csrs) : Nat := (c.pc0Cr.extractLsb' 60 4).toNat

/-- PC1_SEL (R120). -/
def Csrs.pc1Sel (c : Csrs) : Nat := (c.pc1Cr.extractLsb' 58 6).toNat

/-- A 58-bit counter after `n` more events: it counts modulo 2^58 (R651). -/
def bumpCounter (w : W64) (n : Nat) : W64 := putField w 0 (BitVec.ofNat 58 ((w.extractLsb' 0 58).toNat + n))

/-- Whether those events overflow the counter (R651). -/
def counterOverflows (w : W64) (n : Nat) : Bool := decide (2 ^ 58 ≤ (w.extractLsb' 0 58).toNat + n)

/-- Set one bit of the request vector when `b` holds. -/
def orRaw (raw : BitVec 256) (vec : BitVec 8) (b : Bool) : BitVec 256 :=
  if b then raw ||| BitVec.twoPow 256 vec.toNat else raw

/-- `n` events of counter 0: on overflow it requests its interrupt (R651). -/
def State.addPc0 (s : State) (n : Nat) : State :=
  let on := s.counting 14
  { s with csr := { s.csr with
      pc0Cr := if on then bumpCounter s.csr.pc0Cr n else s.csr.pc0Cr
      raw := orRaw s.csr.raw s.csr.pc0Vec (on && counterOverflows s.csr.pc0Cr n) } }

/-- `n` events of counter 1 (R651). -/
def State.addPc1 (s : State) (n : Nat) : State :=
  let on := s.counting 15
  { s with csr := { s.csr with
      pc1Cr := if on then bumpCounter s.csr.pc1Cr n else s.csr.pc1Cr
      raw := orRaw s.csr.raw s.csr.pc1Vec (on && counterOverflows s.csr.pc1Cr n) } }

/-- What an instruction counts as for the selectors 0x0–0x7 of counter 0 (R652). -/
inductive EventClass where
  /-- Not a no-operation, not a memory access, not a branch. -/
  | plain
  /-- A no-operation or MEMB: not counted by selector 0x0. -/
  | nop
  /-- A cache-control instruction that is a no-operation (R392, R470): a read or another memory access that selector 0x0
  does not count. -/
  | nopRead
  | nopWrite
  /-- A read memory access: LDx, FETCHDx, an atomic. -/
  | read
  /-- Any other memory access. -/
  | write
  | conditional
  | unconditional
  | call
  | ret
  | jump
deriving DecidableEq, Repr

/-- Whether selector `sel` of counter 0 counts the class (R652). Selectors 0x3–0x7 are a lower bound (D27): what
the environment adds comes at the step boundary, JMP under 0x6 included (90_conflicts.md C27). -/
def EventClass.counts (e : EventClass) (sel : Nat) : Bool :=
  match sel with
  | 0 => decide (e ≠ .nop ∧ e ≠ .nopRead ∧ e ≠ .nopWrite)
  | 1 => decide (e = .read ∨ e = .write ∨ e = .nopRead ∨ e = .nopWrite)
  | 2 => decide (e = .read ∨ e = .nopRead)
  | 3 => decide (e = .conditional ∨ e = .unconditional ∨ e = .call ∨ e = .ret ∨ e = .jump)
  | 4 => decide (e = .conditional)
  | 5 => decide (e = .unconditional)
  | 6 => decide (e = .call)
  | 7 => decide (e = .ret)
  | _ => false

/-- Count a retiring instruction (R652); the mode is still that of the instruction. -/
def State.count (s : State) (e : EventClass) : State := if e.counts s.csr.pc0Sel then s.addPc0 1 else s

/-- The instruction retires and the next in sequence follows (R38). -/
def State.retire (s : State) (e : EventClass) : State := (s.count e).nextPc

/-- The outcome of a data access that either completes or has taken an exception. -/
def settle {α : Type} (r : Except State α) (k : α → State) : Host.Outcome State Fault Refusal :=
  match r with
  | .error t => .next t
  | .ok a => .next (k a)

/-! ### The checks of the decode stage (R529 steps 3–5) -/

/-- The instruction address matches a value of IA_MATCH under one of IA_MASK (R672). -/
def iaHitUnder (s : State) (v k : W64) : Bool :=
  let cur : W64 := 0#1 ++ s.csr.vpn ++ s.csr.upn ++ s.pc.extractLsb' 0 53
  v.getLsbD 63 && decide (((cur ^^^ v) &&& k &&& 0x7FFFFFFFFFFFFFFF) = 0)

/-- IA_MATCH (R672); a write of either register that no barrier ordered may not be seen yet (R744). -/
def iaHit (s : State) : Bool :=
  seenBool s.freeCtr 60 (iaHitUnder s s.csr.iaMatch s.csr.iaMask)
    ((s.csr.iaMatch :: s.oldValues 0x1A s.inHm).flatMap (fun v =>
      (s.csr.iaMask :: s.oldValues 0x1B s.inHm).map (iaHitUnder s v)))

/-- What FEN asks of an instruction (R541). -/
inductive FpClass where
  | none
  | scalar
  | simd
deriving DecidableEq, Repr

/-- The floating unit is enabled for the class (R118, R541). -/
def fpEnabled (c : Csrs) (f : FpClass) : Bool :=
  match f with
  | .none => true
  | .scalar => c.fpe && c.fce
  | .simd => c.fpe && c.fce && c.sce

/-- The current word is one of BaseISA's unimplemented instructions (R555). -/
def unimplemented (s : State) : Bool := s.par.unimplemented.any (fun p => decide (s.word &&& p.1 = p.2))

/-- The decode stage of a meaning: OPCDEC (`legal` false: LOCK_IGL = `lockIgl`), then IACV by IA_MATCH, then FEN, then
the body (R529 steps 3–5). -/
def decodeStage (s : State) (legal lockIgl : Bool) (f : FpClass)
    (body : State → Host.Outcome State Fault Refusal) : Host.Outcome State Fault Refusal :=
  if !legal || unimplemented s then .next (s.raiseOpcdec (lockIgl && !unimplemented s))
  else if iaHit s then .next s.raiseIaMatch
  else if fpEnabled s.csr f then body s
  else .next s.raiseFen

/-- The decode stage of an instruction that is legal in every mode and needs no floating unit. -/
def plainStage (s : State) (body : State → Host.Outcome State Fault Refusal) : Host.Outcome State Fault Refusal :=
  decodeStage s true false .none body

/-- The decode stage of a privileged instruction (R418). -/
def privStage (s : State) (body : State → Host.Outcome State Fault Refusal) : Host.Outcome State Fault Refusal :=
  decodeStage s s.inHm false .none body

end Sys2Proof.Machine
end

