-- ==== Sys2Proof/Machine/Flags.lean ====
section
/-! DEFINITION. FPCR (13_fpcr.md) and the arithmetic traps of floating instructions (R560–R572). -/

namespace Sys2Proof.Machine

/-- The 23 status bits (R200, R202). -/
def fpcrStatus : W64 := 0x03F001F001F001F0

/-- The bits of FPCR with storage: status, control and EXC_CTL (R200). -/
def fpcrStored : W64 := 0x7FFF01F001F001F3

/-- The bits WFPCR writes: all of them but EXC_CTL (R205, R450). -/
def fpcrWritable : W64 := 0x7FFF01F001F001F0

/-- FPCR as it reads: SUM is the OR of the status bits (R202). -/
def readFpcr (w : W64) : W64 := orBit (w &&& fpcrStored) 63 (decide (w &&& fpcrStatus ≠ 0))

/-- FPCR after WFPCR of `d` (R450). -/
def writeFpcr (w d : W64) : W64 := (w &&& 0x3) ||| (d &&& fpcrWritable)

/-- FPCR after SETFPECn (R451–R454). -/
def setExcCtl (w : W64) (n : BitVec 2) : W64 := putField w 0 n

/-- What one element of a floating operation raised, with the result it would write with every trap masked. -/
structure FpResult where
  value : W64
  inv : Bool := false
  dze : Bool := false
  ovf : Bool := false
  unf : Bool := false
  ine : Bool := false
  /-- Integer overflow of a conversion: element 0 alone records it (R107, R200). -/
  ovi : Bool := false
  /-- A Denormal trap (R564): the trap is INV, FPCR is unchanged. -/
  den : Bool := false
deriving DecidableEq, Repr

/-- The bits of FPCR that hardware reads (R207): the control bits and EXC_CTL. -/
def fpcrControl : W64 := 0x7C0F000000000003

/-- A Denormal trap is possible (R564): EXC_CTL[1] = 1 or DNZ = 0. -/
def denormalMode (fpcr : W64) : Bool := fpcr.getLsbD 1 || !fpcr.getLsbD 48

/-- A result with free status bits, INV, DZE, OVF, UNF, INE, OVI from bit 0: an overflow or an underflow is inexact
(R565, R566, R567), and what underflows is true zero (R200). -/
def FpResult.ofBits (r : W64 × BitVec 6) : FpResult :=
  let b := r.2
  { value := if b.getLsbD 3 then 0 else r.1, inv := b.getLsbD 0, dze := b.getLsbD 1, ovf := b.getLsbD 2, unf := b.getLsbD 3
    ine := b.getLsbD 2 || b.getLsbD 3 || b.getLsbD 4 || b.getLsbD 5, ovi := b.getLsbD 5 }

/-- The result on data of the wrong type (R884 item 5, U6): the value is free and so is each status bit, of those in `sets`
that the instruction can set, a Denormal trap included where one is possible (bit 6). -/
def FpResult.free (fpcr : W64) (sets : BitVec 7) (r : W64 × BitVec 7) : FpResult :=
  let b := r.2 &&& sets
  if b.getLsbD 6 && denormalMode fpcr then { value := 0, den := true }
  else
    { value := r.1, inv := b.getLsbD 0, dze := b.getLsbD 1, ovf := b.getLsbD 2, unf := b.getLsbD 3, ine := b.getLsbD 4
      ovi := b.getLsbD 5 }

/-- The enabled traps of one element (R572): INV, DZE, OVF, UNF, INE, OVI. -/
def trapInv (fpcr : W64) (r : FpResult) : Bool := r.den || (r.inv && (fpcr.getLsbD 1 || !fpcr.getLsbD 49))
/-- See `trapInv`. -/
def trapDze (fpcr : W64) (r : FpResult) : Bool := r.dze && (fpcr.getLsbD 1 || !fpcr.getLsbD 50)
/-- See `trapInv`. -/
def trapOvf (fpcr : W64) (r : FpResult) : Bool := r.ovf && (fpcr.getLsbD 1 || !fpcr.getLsbD 51)
/-- See `trapInv`. -/
def trapUnf (fpcr : W64) (r : FpResult) : Bool :=
  r.unf && (decide (fpcr.extractLsb' 0 2 = 2#2) || (!fpcr.getLsbD 1 && (!fpcr.getLsbD 61 || !fpcr.getLsbD 60)))
/-- See `trapInv`. -/
def trapIne (fpcr : W64) (r : FpResult) : Bool :=
  r.ine && decide (fpcr.extractLsb' 0 2 = 0#2) && !fpcr.getLsbD 62
/-- See `trapInv`. -/
def trapOvi (fpcr : W64) (r : FpResult) : Bool := r.ovi && decide (fpcr.extractLsb' 0 2 ≠ 3#2)

/-- The EXC_SUM bits of element `i`: its group starts at bit 1, 15, 21 or 27; OVI0 is bit 6 (R107, R569). -/
def excBits (fpcr : W64) (i : Nat) (r : FpResult) : W64 :=
  let b := match i with | 0 => 1 | 1 => 15 | 2 => 21 | _ => 27
  orBit (orBit (orBit (orBit (orBit (orBit 0 b (trapInv fpcr r)) (b + 1) (trapDze fpcr r)) (b + 2) (trapOvf fpcr r))
    (b + 3) (trapUnf fpcr r)) (b + 4) (trapIne fpcr r)) 6 (decide (i = 0) && trapOvi fpcr r)

/-- The FPCR status bits element `i` records, trap masked or not (R206): its group starts at bit 52 − 16i; OVI0 is bit 57.
A Denormal trap records nothing. -/
def statusBits (i : Nat) (r : FpResult) : W64 :=
  let b := 52 - 16 * i
  if r.den then 0
  else orBit (orBit (orBit (orBit (orBit (orBit 0 b r.inv) (b + 1) r.dze) (b + 2) r.ovf) (b + 3) r.unf) (b + 4) r.ine) 57
    (decide (i = 0) && r.ovi)

/-- What element `i` writes: free where an enabled INV, DZE, OVF or Denormal trap leaves it open (R570, U25). -/
def elementValue (ctr : Nat) (fpcr : W64) (i : Nat) (r : FpResult) : W64 :=
  if trapInv fpcr r || trapDze fpcr r || trapOvf fpcr r then Config.trapResult ctr i else r.value

end Sys2Proof.Machine
end

