-- ==== Sys2Proof/Machine/Float.lean ====
section
/-! DEFINITION. Double-precision addition (R875) and the conversions between the memory and the register format of
single precision (R823, R825). -/

namespace Sys2Proof.Machine

/-- The exponent field of a double. -/
def expField (w : W64) : Nat := (w.extractLsb' 52 11).toNat

/-- The fraction field of a double. -/
def fracField (w : W64) : Nat := (w.extractLsb' 0 52).toNat

/-- Not a finite number. -/
def nonFinite (w : W64) : Bool := decide (expField w = 0x7FF)

/-- A NaN. -/
def isNan (w : W64) : Bool := nonFinite w && decide (fracField w ≠ 0)

/-- A denormal operand (R204). -/
def isDenormal (w : W64) : Bool := decide (expField w = 0) && decide (fracField w ≠ 0)

/-- A zero of the same sign (R204: DNZ). -/
def flushZero (w : W64) : W64 := w &&& 0x8000000000000000

/-- The magnitude of a finite double in units of 2^-1074. -/
def magnitude (w : W64) : Nat :=
  if expField w = 0 then fracField w else (2 ^ 52 + fracField w) * 2 ^ (expField w - 1)

/-- The value of a finite double in units of 2^-1074. -/
def exactValue (w : W64) : Int := if w.getLsbD 63 then -(magnitude w : Int) else magnitude w

/-- A double from its sign and its 63 lower bits. -/
def signed (neg : Bool) (bits : Nat) : W64 := orBit (BitVec.ofNat 64 bits) 63 neg

/-- Whether the rounding mode DYN (R200) takes the next larger magnitude: `q` is the truncated significand, `r` the
remainder of `2 ^ sh`. -/
def roundsUp (dyn : BitVec 2) (neg : Bool) (q r sh : Nat) : Bool :=
  match dyn with
  | 0b00#2 => false
  | 0b01#2 => neg && decide (r ≠ 0)
  | 0b10#2 => decide (2 ^ sh < 2 * r) || (decide (2 * r = 2 ^ sh) && decide (q % 2 = 1))
  | _ => !neg && decide (r ≠ 0)

/-- The masked result of an overflow: infinity or the largest finite number, by the rounding mode (R200: OVFD). -/
def overflowBits (dyn : BitVec 2) (neg : Bool) : Nat :=
  let inf := match dyn with
    | 0b00#2 => false
    | 0b01#2 => neg
    | 0b10#2 => true
    | _ => !neg
  if inf then 0x7FF0000000000000 else 0x7FEFFFFFFFFFFFFF

/-- An exact value of magnitude `m` ≠ 0 in units of 2^-1074, rounded (R563, R565, R566): a magnitude below 2^-1022
underflows to true zero (R200). -/
def roundDouble (dyn : BitVec 2) (neg : Bool) (m : Nat) : FpResult :=
  if m < 2 ^ 52 then { value := 0, unf := true, ine := true }
  else
    let sh := m.log2 - 52
    let q := m / 2 ^ sh
    let r := m % 2 ^ sh
    let bits := sh * 2 ^ 52 + (if roundsUp dyn neg q r sh then q + 1 else q)
    if 0x7FF * 2 ^ 52 ≤ bits then { value := signed neg (overflowBits dyn neg), ovf := true, ine := true }
    else { value := signed neg bits, ine := decide (r ≠ 0) }

/-- The IEEE result of an addition with a non-finite operand: a NaN, or the infinity (`ctr`, `i` name the free NaN). -/
def invalidSum (ctr i : Nat) (a b : W64) : W64 :=
  let p := Config.nanPayload ctr i
  let nan : W64 := p.extractLsb' 51 1 ++ 0xFFF#12 ++ p.extractLsb' 0 51
  if isNan a || isNan b then nan
  else if nonFinite a && nonFinite b then (if a = b then a else nan)
  else if nonFinite a then a else b

/-- The Denormal trap (R564). -/
def denormalTraps (fpcr a b : W64) : Bool :=
  (isDenormal a || isDenormal b) && denormalMode fpcr

/-- An operand as DNZ hands it on (R204): a denormal is a zero of its sign. -/
def flushed (w : W64) : W64 := if isDenormal w then flushZero w else w

/-- One element of FADDD or VADDD on floating data (R875): the denormal handling of R564, INV for an operand that is not a
finite number (R200), else the exact sum rounded by FPCR[DYN]. -/
def addDoubles (ctr : Nat) (fpcr : W64) (i : Nat) (a b : W64) : FpResult :=
  let dyn := fpcr.extractLsb' 58 2
  if denormalTraps fpcr a b then { value := 0, den := true }
  else
    let a' := flushed a
    let b' := flushed b
    if nonFinite a' || nonFinite b' then { value := invalidSum ctr i a' b', inv := true }
    else
      let e := exactValue a' + exactValue b'
      if e = 0 then
        { value := if a' = b' then a' else signed (decide (dyn = 0b01#2)) 0 }
      else roundDouble dyn (decide (e < 0)) e.natAbs

/-- One element of FADDD or VADDD: with `int` some source of the instruction holds integer data, and the result and the status
bits of every element are free (R884 item 5, U6); an addition divides nothing and converts nothing. -/
def addElement (ctr : Nat) (fpcr : W64) (i : Nat) (int : Bool) (a b : W64) : FpResult :=
  if int then FpResult.free fpcr 0b1011101#7 (Config.typeFree ctr i)
  else addDoubles ctr fpcr i a b

/-- The register image of a 32-bit single (R823): the exponent widened through bits [61:59], the low 29 bits 0. That the
exponent 0 becomes 0 and 0xFF becomes 0x7FF is the family's widening (PRESUMED, log 12). -/
def singleToReg (w : BitVec 32) : W64 :=
  let e := w.extractLsb' 23 8
  let wide : BitVec 11 :=
    if e = 0xFF#8 then 0x7FF#11
    else if e = 0#8 then 0#11
    else if w.getLsbD 30 then 0b1000#4 ++ w.extractLsb' 23 7 else 0b0111#4 ++ w.extractLsb' 23 7
  w.extractLsb' 31 1 ++ wide ++ w.extractLsb' 0 23 ++ 0#29

/-- The 32-bit single of a register image (R825): bits [61:59] and [28:0] are dropped. -/
def regToSingle (r : W64) : BitVec 32 := r.extractLsb' 62 2 ++ r.extractLsb' 29 30

end Sys2Proof.Machine
end

