-- ==== Sys2Proof/Machine/Operands.lean ====
section
/-! DEFINITION. The operand forms: effective addresses, branch targets, literals, and the access each kind of memory
instruction makes. -/

namespace Sys2Proof.Machine

/-- The effective address of the memory format (R385). -/
def State.ea16 (s : State) (rb : BitVec 5) (disp : BitVec 16) : W64 := s.getX rb + disp.signExtend 64

/-- The effective address of the memory format with function (R385, R401). -/
def State.ea12 (s : State) (rb : BitVec 5) (disp : BitVec 12) : W64 := s.getX rb + disp.signExtend 64

/-- The target of a branch (R805 item 7); the mode bits are those of the pc. -/
def State.branchTarget (s : State) (disp : BitVec 21) : W64 := s.pc + 4 + (disp.signExtend 64 <<< 2)

/-- The target of a jump: Rb[63:2] with the current mode (R805 items 1 and 9). -/
def State.jumpTarget (s : State) (t : W64) : W64 := t.extractLsb' 2 62 ++ s.mode

/-- The literal operand: eight bits, unsigned (R802). -/
def litOperand (lit : BitVec 8) : W64 := lit.setWidth 64

/-- The encodings of the privileged instructions that D00 prints (R384, R386, R387, R390 item 4). -/
def privilegedWord (w : W32) : Bool :=
  match fldOp w with
  | 0x07#6 | 0x25#6 | 0x2D#6 => true
  | 0x06#6 => decide (0xFE00 ≤ (fld16 w).toNat)
  | _ => false

/-- The row of BaseISA that names a word. BaseISA is the unprivileged set (R6), so no row takes a privileged encoding. -/
def baseRow (p : Params) (w : W32) : Option BaseRow :=
  if privilegedWord w then none else p.base.find? (fun r => decide (w &&& r.mask = r.value))

/-- The instruction a fetched word stands for: BaseISA's words for the rows of unknown encoding first, then BaseISA's other
rows, which have no constructor, then the conventional table (R404, R800; logs 10, 65). -/
def decodeFetched (p : Params) (w : W32) : Except DecodeError Instr :=
  match p.extEnc.find? (fun e => decide (e.1 = w)) with
  | some e => .ok e.2
  | none => if (baseRow p w).isSome then .error (.baseInstruction (fldOp w)) else decodeWord w

/-- An ordinary load of `n` bytes, aligned to `n` (R226). -/
def loadAcc (ra : BitVec 5) (n : Nat) : Acc := { ra := ra, isR := true, isW := false, size := n, align := n }

/-- An ordinary store of `n` bytes, aligned to `n` (R226). -/
def storeAcc (ra : BitVec 5) (n : Nat) : Acc := { ra := ra, isR := false, isW := true, size := n, align := n }

/-- An unprivileged atomic (R463). -/
def atomicAcc (ra : BitVec 5) (n : Nat) : Acc :=
  { ra := ra, isR := true, isW := true, size := n, align := n, atomic := true }

/-- A load's value as a register takes it: a longword, a word sign-extended (G9), a shorter one zero-extended. -/
def loadValue (n v : Nat) : W64 := if n = 4 then sextW (BitVec.ofNat 32 v) else BitVec.ofNat 64 v

/-- A load into an integer register (R801). -/
def loadX (s : State) (a : Acc) (va : W64) : Host.Outcome State Fault Refusal :=
  settle (doLoad s a va) (fun r => (r.2.setX a.ra (loadValue a.size r.1)).retire .read)

/-- A load whose destination R31 makes it a prefetch or a no-operation (R801, log 11). -/
def loadXOr31 (s : State) (a : Acc) (va : W64) : Host.Outcome State Fault Refusal :=
  if a.ra = 31#5 then .next (s.retire .read) else loadX s a va

/-- A load into a floating register (R824), F31 as R31; `cvt` takes the memory image to the register image. What it brings
is integer data when the environment says so (R884, log 22). -/
def loadF (s : State) (a : Acc) (va : W64) (cvt : Nat → W64) : Host.Outcome State Fault Refusal :=
  if a.ra = 31#5 then .next (s.retire .read)
  else settle (doLoad s a va) (fun r => (r.2.setF a.ra (cvt r.1) s.intData).retire .read)

/-- A store (R801). -/
def storeV (s : State) (a : Acc) (va : W64) (v : Nat) : Host.Outcome State Fault Refusal :=
  settle (doStore s a va v) (fun t => t.retire .write)

/-- The wrapped result and the overflow of an atomic's operation (R463, D18). -/
inductive AtomicOp where
  | inc
  | dec
  | set
deriving DecidableEq, Repr

/-- The new value, before it is cut to the width. -/
def AtomicOp.apply (o : AtomicOp) (n old : Nat) : Nat :=
  match o with
  | .inc => old + 1
  | .dec => old + (2 ^ (8 * n) - 1)
  | .set => 1

/-- Signed overflow of the access width (D18). -/
def AtomicOp.overflows (o : AtomicOp) (n old : Nat) : Bool :=
  match o with
  | .inc => decide (old = 2 ^ (8 * n - 1) - 1)
  | .dec => decide (old = 2 ^ (8 * n - 1))
  | .set => false

/-- An atomic read-modify-write (R463), which reads ICR implicitly (R746); INCO is an arithmetic trap, taken after memory
and Ra are written (R568). -/
def atomicX (s : State) (a : Acc) (va : W64) (o : AtomicOp) (mayTrap : Bool) : Host.Outcome State Fault Refusal :=
  settle (doAtomic s a va (o.apply a.size)) (fun r =>
    let t := (r.2.setX a.ra (loadValue a.size r.1)).count .read
    if mayTrap && o.overflows a.size r.1 && !s.maskSeen && s.dcEn 10 then
      t.raiseArith a.ra (BitVec.twoPow 64 14)
    else t.nextPc)

end Sys2Proof.Machine
end

