-- ==== Sys2Proof/Machine/ExecCache.lean ====
section
/-! DEFINITION. The cache-control instructions (R470–R475). Their address is the line's: bits [6:0] are 0 (R227). -/

namespace Sys2Proof.Machine

/-- The line a cache-control instruction works on (R470). -/
def State.lineAddr (s : State) (rb : BitVec 5) (disp : BitVec 16) : W64 := s.ea16 rb disp &&& ~~~0x7F

/-- The access of a cache-control instruction: no alignment check; whether it is tested for reading or writing is free
(N23). The Ra field of the word is what EXC_SUM[REG] would record (R470: it carries no destination). -/
def cacheAcc (s : State) (f : AccForm) : Acc :=
  { ra := s.word.extractLsb' 21 5, isR := (Config.cacheOpClass s.freeCtr).1, isW := (Config.cacheOpClass s.freeCtr).2,
    form := f, size := 1, align := 1 }

/-- The request for one line of cacheable memory leaves the core; the instruction is a memory access, so it ends a lock
sequence (R455, U33). -/
def sendCacheOp (s : State) (pa : PAddr) (op : BitVec 3) : State :=
  s.unlock.emit (.cacheOp op (memAddr pa / 128))

/-- A fill (R470): a DTB miss is taken only with DC_CTL[F_DTB_MISS] = 1; any other fault, a debug match included, drops it
(D19). Dropped, or in non-cacheable or I/O space, it is a no-operation (R235, R236, R392). -/
def fetchLine (s : State) (rb : BitVec 5) (disp : BitVec 16) (op : BitVec 3) : Host.Outcome State Fault Refusal :=
  plainStage s (fun s =>
    let va := s.lineAddr rb disp
    let a := cacheAcc s .normal
    if !canonical va then .next (s.retire .nopRead)
    else
      match translateD s .normal a.isR a.isW va with
      | .miss => if s.dcEn 16 then .next (s.dtbMiss a va) else .next (s.retire .nopRead)
      | .denied .. => .next (s.retire .nopRead)
      | .page pa =>
        if isIo pa || pa.getLsbD 46 then .next (s.retire .nopRead)
        else
          match matchPhase s a va pa with
          | .error _ => .next (s.retire .nopRead)
          | .ok () => .next ((sendCacheOp s pa op).retire .read))

/-- The bad response an evict request may meet (R470, R359, R361): ignored with DC_CTL[EVICTD_ERR_EN] = 0. -/
def evictResponse (s : State) (a : Acc) (pa : PAddr) : Except State State :=
  let t := { s with armedData := none }
  match s.armedData with
  | some .control => if s.dcEn 5 then controlResponse t else .ok t
  | some .multiEcc => if s.dcEn 5 then eccResponse t a pa else .ok t
  | _ => .ok s

/-- A flush or an evict (R470, R473–R475): OPCDEC when its bit of CP_CTL is 0. With DC_CTL[EVICTD_ERR_EN] = 0 a fault in
translation and an error response are ignored; a bad address and a debug match are not (R149, R152, R228, R676). An
illegal-address response to the request is also a response-type error (R171). In non-cacheable or I/O space it is a
no-operation (R392). The physical address of FLUSHD in HM takes no sign check: N21 leaves open whether physical forms do
(DESIGN CHOICE, log 37). -/
def evictLine (s : State) (rb : BitVec 5) (disp : BitVec 16) (f : AccForm) (enable : Nat) (op : BitVec 3) :
    Host.Outcome State Fault Refusal :=
  decodeStage s (s.csr.cpCtl.getLsbD enable) false .none (fun s =>
    let va := s.lineAddr rb disp
    let a := cacheAcc s f
    if f ≠ .phys ∧ !canonical va then .next (s.badDva a va)
    else
      match addressPhase s a va with
      | .error t => if s.dcEn 5 then .next t else .next (s.retire .write)
      | .ok pa =>
        if isIo pa || pa.getLsbD 46 then .next (s.retire .nopWrite)
        else
          match matchPhase s a va pa with
          | .error t => .next t
          | .ok () =>
            if memAddr pa + 128 ≤ s.par.memSize then
              match evictResponse s a pa with
              | .error t => .next t
              | .ok t => .next (((sendCacheOp t pa op).cleanLine (memAddr pa / 128)).retire .write)
            else
              let e := s.unlock.requestError
              if s.dcEn 5 then .next (e.dfault a (setBit 0 12) (s.dvaOf pa)) else .next (e.retire .write))

/-- FETCHD (R471). -/
def execFetchd (rb : BitVec 5) (disp : BitVec 16) (s : State) : Host.Outcome State Fault Refusal :=
  fetchLine s rb disp 0

/-- FETCHD_E (R472). -/
def execFetchdE (rb : BitVec 5) (disp : BitVec 16) (s : State) : Host.Outcome State Fault Refusal :=
  fetchLine s rb disp 1

/-- FLUSHD (R473): its address is physical in HM, translated in every other mode. -/
def execFlushd (rb : BitVec 5) (disp : BitVec 16) (s : State) : Host.Outcome State Fault Refusal :=
  evictLine s rb disp (if s.inHm then .phys else .normal) 3 2

/-- EVICTDL (R474). -/
def execEvictdl (rb : BitVec 5) (disp : BitVec 16) (s : State) : Host.Outcome State Fault Refusal :=
  evictLine s rb disp .normal 3 3

/-- EVICTDG (R475). -/
def execEvictdg (rb : BitVec 5) (disp : BitVec 16) (s : State) : Host.Outcome State Fault Refusal :=
  evictLine s rb disp .normal 4 4

end Sys2Proof.Machine
end

