-- ==== Sys2Proof/Machine/ExecControl.lean ====
section
/-! DEFINITION. Control transfer (R805–R812). -/

namespace Sys2Proof.Machine

/-- `ida_hit` (R673): the target address with the current mode. -/
def idaHit (s : State) (target : W64) : Bool :=
  let t : W64 := 0#11 ++ target.extractLsb' 2 51 ++ s.mode
  s.csr.idaMatch.getLsbD 53 && decide (((t ^^^ s.csr.idaMatch) &&& s.csr.idaMask &&& 0x001FFFFFFFFFFFFF) = 0)

/-- A transfer that passed its checks: the link register and the pc (R805). It ends a lock sequence (R455 item 2, D9). -/
def State.transfer (s : State) (e : EventClass) (ra : BitVec 5) (link : Bool) (target : W64) : State :=
  let t := s.unlock.count e
  { (if link then t.setX ra (s.pc + 4) else t) with pc := target }

/-- Take a transfer of an integer branch-class instruction that passed the sign check: the target match, then the transfer
(R805). -/
def takeBranch (s : State) (e : EventClass) (ra : BitVec 5) (link : Bool) (iva target : W64) : State :=
  if idaHit s target then s.raiseTarget ra 34 iva else s.transfer e ra link target

/-- A jump through Rb (R809): BAD_IVA before everything else (R528). -/
def jumpTo (s : State) (e : EventClass) (ra rb : BitVec 5) : Host.Outcome State Fault Refusal :=
  plainStage s (fun s =>
    let t := s.getX rb
    if canonical t then .next (takeBranch s e ra true t (s.jumpTarget t)) else .next (s.raiseTarget ra 13 t))

/-- A conditional branch (R806). -/
def branchIf (s : State) (c : Bool) (ra : BitVec 5) (disp : BitVec 21) : Host.Outcome State Fault Refusal :=
  plainStage s (fun s =>
    if c then .next (takeBranch s .conditional ra false (s.branchTarget disp) (s.branchTarget disp))
    else .next (s.unlock.retire .conditional))

/-- CALL (R809). -/
def execCall (ra rb : BitVec 5) (_hint : BitVec 16) (s : State) : Host.Outcome State Fault Refusal :=
  jumpTo s .call ra rb

/-- RET (R810). -/
def execRet (ra rb : BitVec 5) (_hint : BitVec 16) (s : State) : Host.Outcome State Fault Refusal :=
  jumpTo s .ret ra rb

/-- JMP (R811). -/
def execJmp (ra rb : BitVec 5) (_hint : BitVec 16) (s : State) : Host.Outcome State Fault Refusal :=
  jumpTo s .jump ra rb

/-- JSR (R812): as CALL. -/
def execJsr (ra rb : BitVec 5) (s : State) : Host.Outcome State Fault Refusal :=
  jumpTo s .call ra rb

/-- BSR (R808). -/
def execBsr (ra : BitVec 5) (disp : BitVec 21) (s : State) : Host.Outcome State Fault Refusal :=
  plainStage s (fun s => .next (takeBranch s .unconditional ra true (s.branchTarget disp) (s.branchTarget disp)))

/-- BEQ (R806). -/
def execBeq (ra : BitVec 5) (disp : BitVec 21) (s : State) : Host.Outcome State Fault Refusal :=
  branchIf s (decide (s.getX ra = 0)) ra disp

/-- BNE (R807). -/
def execBne (ra : BitVec 5) (disp : BitVec 21) (s : State) : Host.Outcome State Fault Refusal :=
  branchIf s (decide (s.getX ra ≠ 0)) ra disp

end Sys2Proof.Machine
end

