-- ==== Sys2Proof/Machine/ExecFloat.lean ====
section
/-! DEFINITION. FPCR access (R449–R454), FADDD and VADDD (R875, R876) and the moves between and inside the register
files (R877–R883). -/

namespace Sys2Proof.Machine

/-- The decode stage of a scalar floating instruction (R541, R542). -/
def floatStage (s : State) (body : State → Host.Outcome State Fault Refusal) : Host.Outcome State Fault Refusal :=
  decodeStage s true false .scalar body

/-- The decode stage of a SIMD instruction (R541, R542). -/
def simdStage (s : State) (body : State → Host.Outcome State Fault Refusal) : Host.Outcome State Fault Refusal :=
  decodeStage s true false .simd body

/-- RFPCR (R449). -/
def execRfpcr (fa : BitVec 5) (s : State) : Host.Outcome State Fault Refusal :=
  floatStage s (fun s => .next ((s.setF fa (readFpcr s.fpcr) false).retire .plain))

/-- WFPCR (R450). -/
def execWfpcr (fa : BitVec 5) (s : State) : Host.Outcome State Fault Refusal :=
  floatStage s (fun s => .next ({ s with fpcr := writeFpcr s.fpcr (s.getF fa) }.retire .plain))

/-- SETFPECn (R451–R454). -/
def setFpec (s : State) (n : BitVec 2) : Host.Outcome State Fault Refusal :=
  floatStage s (fun s => .next ({ s with fpcr := setExcCtl s.fpcr n }.retire .plain))

/-- SETFPEC0 (R451). -/
def execSetfpec0 (s : State) : Host.Outcome State Fault Refusal := setFpec s 0
/-- SETFPEC1 (R452). -/
def execSetfpec1 (s : State) : Host.Outcome State Fault Refusal := setFpec s 1
/-- SETFPEC2 (R453). -/
def execSetfpec2 (s : State) : Host.Outcome State Fault Refusal := setFpec s 2
/-- SETFPEC3 (R454). -/
def execSetfpec3 (s : State) : Host.Outcome State Fault Refusal := setFpec s 3

/-- A floating instruction completes (R561): FPCR takes the status bits, the instruction is counted, and either the
enabled traps `bits` enter ARITH with the destination register or the next instruction follows. `s` has the destination
written. -/
def finishFloat (s : State) (rd : BitVec 5) (status bits : W64) : State :=
  let t := { s with fpcr := s.fpcr ||| status }.count .plain
  if bits = 0 then t.nextPc else t.raiseArith rd bits

/-- A scalar floating operation: the low 64 bits of the sources, element 0 of FPCR; `f` takes the element, whether a
source holds integer data, and the operands; `toInt`: the result is integer data. -/
def scalarFloat (s : State) (fa fb fc : BitVec 5) (toInt : Bool) (f : Nat → Bool → W64 → W64 → FpResult) :
    Host.Outcome State Fault Refusal :=
  floatStage s (fun s =>
    let r := f 0 ((s.getInts fa).getLsbD 0 || (s.getInts fb).getLsbD 0) (s.getF fa) (s.getF fb)
    .next (finishFloat (s.setF fc (elementValue s.freeCtr s.fpcr 0 r) toInt) fc (statusBits 0 r) (excBits s.fpcr 0 r)))

/-- A floating SIMD operation: four elements, each with its own exceptions (R569); it converts nothing, so OVI does not
occur. Integer data in any lane of a source leaves the whole destination and every status bit open (R884 item 5, U6). -/
def vectorFloat (s : State) (fa fb fc : BitVec 5) (f : Nat → Bool → W64 → W64 → FpResult) :
    Host.Outcome State Fault Refusal :=
  simdStage s (fun s =>
    let int := decide (s.getInts fa ||| s.getInts fb ≠ 0#4)
    let r := fun i => { f i int (lane (s.getV fa) i) (lane (s.getV fb) i) with ovi := false }
    let v := fun i => elementValue s.freeCtr s.fpcr i (r i)
    .next (finishFloat (s.setV fc (ofLanes (v 0) (v 1) (v 2) (v 3)) 0) fc
      (statusBits 0 (r 0) ||| statusBits 1 (r 1) ||| statusBits 2 (r 2) ||| statusBits 3 (r 3))
      (excBits s.fpcr 0 (r 0) ||| excBits s.fpcr 1 (r 1) ||| excBits s.fpcr 2 (r 2) ||| excBits s.fpcr 3 (r 3))))

/-- FADDD (R875). -/
def execFaddd (fa fb fc : BitVec 5) (s : State) : Host.Outcome State Fault Refusal :=
  scalarFloat s fa fb fc false (addElement s.freeCtr s.fpcr)

/-- VADDD (R876). -/
def execVaddd (fa fb fc : BitVec 5) (s : State) : Host.Outcome State Fault Refusal :=
  vectorFloat s fa fb fc (addElement s.freeCtr s.fpcr)

/-- `v` with bits [lo+k-1:lo] replaced. -/
def putLane {k : Nat} (v : V256) (lo : Nat) (d : BitVec k) : V256 :=
  (v &&& ~~~((BitVec.allOnes k).setWidth 256 <<< lo)) ||| (d.setWidth 256 <<< lo)

/-- The lanes that hold integer data after lane `i` of the tag `t` was replaced by data tagged `b` (log 22). -/
def putTag (t : BitVec 4) (i : Nat) (b : Bool) : BitVec 4 :=
  if b then t ||| BitVec.twoPow 4 i else t &&& ~~~(BitVec.twoPow 4 i)

/-- VINSF (R877): Vb with lane `lit` replaced by f[Fa]; a literal that names no lane leaves the result free. -/
def execVinsf (fa fb : BitVec 5) (lit : BitVec 8) (fc : BitVec 5) (s : State) : Host.Outcome State Fault Refusal :=
  simdStage s (fun s =>
    let v := if lit.toNat < 4 then putLane (s.getV fb) (64 * lit.toNat) (s.getF fa) else Config.badLane s.freeCtr
    .next ((s.setV fc v (putTag (s.getInts fb) lit.toNat ((s.getInts fa).getLsbD 0))).retire .plain))

/-- VINSW (R878): the same for a 32-bit element; its lane then holds integer data. That the element is the low word of Fa is
the model's choice (DESIGN CHOICE, log 53). -/
def execVinsw (fa fb : BitVec 5) (lit : BitVec 8) (fc : BitVec 5) (s : State) : Host.Outcome State Fault Refusal :=
  simdStage s (fun s =>
    let v := if lit.toNat < 8 then putLane (s.getV fb) (32 * lit.toNat) ((s.getF fa).extractLsb' 0 32)
             else Config.badLane s.freeCtr
    .next ((s.setV fc v (putTag (s.getInts fb) (lit.toNat / 2) true)).retire .plain))

/-- VCPYF (R879). -/
def execVcpyf (fa fc : BitVec 5) (s : State) : Host.Outcome State Fault Refusal :=
  simdStage s (fun s =>
    let f := s.getF fa
    .next ((s.setV fc (ofLanes f f f f) (if (s.getInts fa).getLsbD 0 then 0b1111 else 0)).retire .plain))

/-- VEXTF (R880): a scalar write of lane `lit` of Va. -/
def execVextf (fa : BitVec 5) (lit : BitVec 8) (fc : BitVec 5) (s : State) : Host.Outcome State Fault Refusal :=
  simdStage s (fun s =>
    let w := if lit.toNat < 4 then lane (s.getV fa) lit.toNat else lane (Config.badLane s.freeCtr) 0
    .next ((s.setF fc w ((s.getInts fa).getLsbD lit.toNat)).retire .plain))

/-- VEXTW (R881): a scalar write whose low word is 32-bit element `lit` of Va; the upper word is free. That the element goes
to the low word is the model's choice (DESIGN CHOICE, log 53). -/
def execVextw (fa : BitVec 5) (lit : BitVec 8) (fc : BitVec 5) (s : State) : Host.Outcome State Fault Refusal :=
  simdStage s (fun s =>
    let w := if lit.toNat < 8 then Config.upper32 s.freeCtr ++ (s.getV fa).extractLsb' (32 * lit.toNat) 32
             else lane (Config.badLane s.freeCtr) 0
    .next ((s.setF fc w true).retire .plain))

/-- The FEN class of FIMOVx and IFMOVx, which D00 does not classify (R542): a parameter. -/
def moveClass (p : Params) : FpClass := if p.fpMovesNeedFpe then .scalar else .none

/-- What a move between the files carries: all 64 bits in the D form, a free value in the S form. -/
def moveValue (s : State) (w : MoveWidth) (d : W64) : W64 :=
  match w with
  | .d => d
  | .s => Config.moveS s.freeCtr d

/-- FIMOVx (R882). -/
def execFimov (w : MoveWidth) (fa rc : BitVec 5) (s : State) : Host.Outcome State Fault Refusal :=
  decodeStage s true false (moveClass s.par) (fun s => .next ((s.setX rc (moveValue s w (s.getF fa))).retire .plain))

/-- IFMOVx (R883). Whether what it brings is integer data is no matter of the instruction (R882, R884): the environment says it,
as of a load (log 22). -/
def execIfmov (w : MoveWidth) (ra fc : BitVec 5) (s : State) : Host.Outcome State Fault Refusal :=
  decodeStage s true false (moveClass s.par) (fun s => .next ((s.setF fc (moveValue s w (s.getX ra)) s.intData).retire .plain))

end Sys2Proof.Machine
end

