-- ==== Sys2Proof/Machine/ExecInt.lean ====
section
/-! DEFINITION. The integer operate instructions and LDI (R863–R873). -/

namespace Sys2Proof.Machine

/-- An operate instruction: the result goes to Rc; no flag, no exception of its own (R802, R44). -/
def operate (s : State) (rc : BitVec 5) (r : W64) : Host.Outcome State Fault Refusal :=
  plainStage s (fun s => .next ((s.setX rc r).retire .plain))

/-- ADDW (R866). -/
def addW (a b : W64) : W64 := sextW ((a + b).extractLsb' 0 32)
/-- MULW (R870). -/
def mulW (a b : W64) : W64 := sextW ((a * b).extractLsb' 0 32)
/-- MULL (R871). -/
def mulL (a b : W64) : W64 := a * b
/-- UMULH (R872). -/
def umulH (a b : W64) : W64 := BitVec.ofNat 64 (a.toNat * b.toNat / 2 ^ 64)
/-- CMPEQ (R867). -/
def cmpEq (a b : W64) : W64 := if a = b then 1 else 0

/-- ADDW (R866). -/
def execAddw (ra rb rc : BitVec 5) (s : State) : Host.Outcome State Fault Refusal :=
  operate s rc (addW (s.getX ra) (s.getX rb))

/-- MULW (R870). -/
def execMulw (ra rb rc : BitVec 5) (s : State) : Host.Outcome State Fault Refusal :=
  operate s rc (mulW (s.getX ra) (s.getX rb))

/-- MULL (R871). -/
def execMull (ra rb rc : BitVec 5) (s : State) : Host.Outcome State Fault Refusal :=
  operate s rc (mulL (s.getX ra) (s.getX rb))

/-- UMULH (R872). -/
def execUmulh (ra rb rc : BitVec 5) (s : State) : Host.Outcome State Fault Refusal :=
  operate s rc (umulH (s.getX ra) (s.getX rb))

/-- CMPEQ (R867). -/
def execCmpeq (ra rb rc : BitVec 5) (s : State) : Host.Outcome State Fault Refusal :=
  operate s rc (cmpEq (s.getX ra) (s.getX rb))

/-- BIS (R868). -/
def execBis (ra rb rc : BitVec 5) (s : State) : Host.Outcome State Fault Refusal :=
  operate s rc ((s.getX ra) ||| (s.getX rb))

/-- XOR (R869). -/
def execXor (ra rb rc : BitVec 5) (s : State) : Host.Outcome State Fault Refusal :=
  operate s rc ((s.getX ra) ^^^ (s.getX rb))

/-- ADDW (R866), literal form (R802). -/
def execAddwLit (ra : BitVec 5) (lit : BitVec 8) (rc : BitVec 5) (s : State) : Host.Outcome State Fault Refusal :=
  operate s rc (addW (s.getX ra) (litOperand lit))

/-- MULW (R870), literal form (R802). -/
def execMulwLit (ra : BitVec 5) (lit : BitVec 8) (rc : BitVec 5) (s : State) : Host.Outcome State Fault Refusal :=
  operate s rc (mulW (s.getX ra) (litOperand lit))

/-- MULL (R871), literal form (R802). -/
def execMullLit (ra : BitVec 5) (lit : BitVec 8) (rc : BitVec 5) (s : State) : Host.Outcome State Fault Refusal :=
  operate s rc (mulL (s.getX ra) (litOperand lit))

/-- UMULH (R872), literal form (R802). -/
def execUmulhLit (ra : BitVec 5) (lit : BitVec 8) (rc : BitVec 5) (s : State) : Host.Outcome State Fault Refusal :=
  operate s rc (umulH (s.getX ra) (litOperand lit))

/-- CMPEQ (R867), literal form (R802). -/
def execCmpeqLit (ra : BitVec 5) (lit : BitVec 8) (rc : BitVec 5) (s : State) : Host.Outcome State Fault Refusal :=
  operate s rc (cmpEq (s.getX ra) (litOperand lit))

/-- BIS (R868), literal form (R802). -/
def execBisLit (ra : BitVec 5) (lit : BitVec 8) (rc : BitVec 5) (s : State) : Host.Outcome State Fault Refusal :=
  operate s rc ((s.getX ra) ||| (litOperand lit))

/-- XOR (R869), literal form (R802). -/
def execXorLit (ra : BitVec 5) (lit : BitVec 8) (rc : BitVec 5) (s : State) : Host.Outcome State Fault Refusal :=
  operate s rc ((s.getX ra) ^^^ (litOperand lit))

/-- LDI (R863): address arithmetic, no memory access. -/
def execLdi (ra rb : BitVec 5) (disp : BitVec 16) (s : State) : Host.Outcome State Fault Refusal :=
  operate s ra (s.ea16 rb disp)

end Sys2Proof.Machine
end

