-- ==== Sys2Proof/Machine/ExecLock.lean ====
section
/-! DEFINITION. The lock instructions (R455–R462) and the unprivileged atomics (R463–R469). -/

namespace Sys2Proof.Machine

/-- The instruction in slot `k` of the current group. -/
def State.groupInstr (s : State) (k : Nat) : Option Instr := (decodeFetched s.par (s.groupWord k)).toOption

/-- A non-empty RD_F: its destination is not R31 (R460, R554). -/
def isRdF (i : Option Instr) : Bool :=
  match i with
  | some (.rdF ra) => decide (ra ≠ 31#5)
  | _ => false

/-- A lock store. -/
def isLst (i : Option Instr) : Bool :=
  match i with
  | some (.lstw _ _ _) => true
  | some (.lstl _ _ _) => true
  | _ => false

/-- The pairing rule for a lock store: slot 0 or 2, and a non-empty RD_F in the next slot (R460). -/
def lstPaired (s : State) : Bool := decide (s.slot % 2 = 0) && isRdF (s.groupInstr (s.slot + 1))

/-- The pairing rule for a non-empty RD_F: slot 1 or 3, after a lock store (R460). -/
def rdFPaired (s : State) : Bool := decide (s.slot % 2 = 1) && isLst (s.groupInstr (s.slot - 1))

/-- A lock load (R456): the address and the granularity go to the lock register, lock_valid is set. -/
def lockLoad (s : State) (ra rb : BitVec 5) (disp : BitVec 12) (n : Nat) : Host.Outcome State Fault Refusal :=
  plainStage s (fun s =>
    match dataPhase s { loadAcc ra n with lock := true } (s.ea12 rb disp) with
    | .error t => .next t
    | .ok (pa, t) =>
      let r := t.load false (memAddr pa) n
      let l : Lock := { r.2.lock with valid := true, addr := pa, long := decide (n = 8), line := true, steps := 0 }
      .next (({ r.2 with lock := l }.setX ra (loadValue n r.1)).retire .read))

/-- The condition of R458 under which a lock store to `pa` writes; `line` is the oracle DcacheHitWritable (log 40), and the
lock store is at most 16 instructions after its lock load (R755, U33; log 67). -/
def lockOk (l : Lock) (pa : PAddr) (n : Nat) : Bool :=
  l.valid && l.flag && decide (l.addr = pa) && decide (l.long = decide (n = 8)) && l.line && decide (l.steps ≤ 16)

/-- A lock store (R458): it writes only when `lockOk`; lock_success records whether it did; lock_valid and lock_flag are
cleared either way. A store that will not write takes no part in the matches (D9). That it still meets the errors of the
data cache, the platform's ACV1 and a bad response is the model's choice (DESIGN CHOICE, log 40), and so is that an exception
of its access may record DS_STAT[DV_MATCH] or [DA_MATCH] by the errata of R680 with it, as with a store that writes: D9 and
R680 leave open whether data that will not be written is compared (DESIGN CHOICE, log 32). -/
def lockStore (s : State) (ra rb : BitVec 5) (disp : BitVec 12) (n : Nat) : Host.Outcome State Fault Refusal :=
  decodeStage s (lstPaired s) true .none (fun s =>
    let ea := s.ea12 rb disp
    let a : Acc := { storeAcc ra n with lock := true, data := some (s.getX ra).toNat }
    match addressPhase s a ea with
    | .error t => .next t
    | .ok pa =>
      let ok := lockOk s.lock pa n
      match (if ok then matchPhase s a ea pa else .ok ()) with
      | .error t => .next t
      | .ok () =>
        match physicalPhase s a ea pa with
        | .error t => .next t
        | .ok u =>
          let t := if ok then u.save true (memAddr pa) n (s.getX ra).toNat else u
          .next ({ t with lock := { t.lock with valid := false, flag := false, success := ok } }.retire .write))

/-- LLDW (R456). -/
def execLldw (ra rb : BitVec 5) (disp : BitVec 12) (s : State) : Host.Outcome State Fault Refusal :=
  lockLoad s ra rb disp 4

/-- LLDL (R457). -/
def execLldl (ra rb : BitVec 5) (disp : BitVec 12) (s : State) : Host.Outcome State Fault Refusal :=
  lockLoad s ra rb disp 8

/-- LSTW (R458). -/
def execLstw (ra rb : BitVec 5) (disp : BitVec 12) (s : State) : Host.Outcome State Fault Refusal :=
  lockStore s ra rb disp 4

/-- LSTL (R459). -/
def execLstl (ra rb : BitVec 5) (disp : BitVec 12) (s : State) : Host.Outcome State Fault Refusal :=
  lockStore s ra rb disp 8

/-- WR_F (R461). -/
def execWrF (ra : BitVec 5) (s : State) : Host.Outcome State Fault Refusal :=
  plainStage s (fun s => .next ({ s with lock := { s.lock with flag := (s.getX ra).getLsbD 0 } }.retire .plain))

/-- RD_F (R462); with destination R31 it is a no-operation the pairing rule does not look at (R460). -/
def execRdF (ra : BitVec 5) (s : State) : Host.Outcome State Fault Refusal :=
  decodeStage s (decide (ra = 31#5) || rdFPaired s) true .none (fun s =>
    if ra = 31#5 then .next (s.retire .nop)
    else .next ((s.setX ra ((BitVec.ofBool s.lock.success).setWidth 64)).retire .plain))

/-- An unprivileged atomic (R463). -/
def atomic (s : State) (ra rb : BitVec 5) (disp : BitVec 12) (n : Nat) (o : AtomicOp) :
    Host.Outcome State Fault Refusal :=
  plainStage s (fun s => atomicX s (atomicAcc ra n) (s.ea12 rb disp) o true)

/-- LDW_INC (R464). -/
def execLdwInc (ra rb : BitVec 5) (disp : BitVec 12) (s : State) : Host.Outcome State Fault Refusal :=
  atomic s ra rb disp 4 .inc

/-- LDL_INC (R465). -/
def execLdlInc (ra rb : BitVec 5) (disp : BitVec 12) (s : State) : Host.Outcome State Fault Refusal :=
  atomic s ra rb disp 8 .inc

/-- LDW_DEC (R466). -/
def execLdwDec (ra rb : BitVec 5) (disp : BitVec 12) (s : State) : Host.Outcome State Fault Refusal :=
  atomic s ra rb disp 4 .dec

/-- LDL_DEC (R467). -/
def execLdlDec (ra rb : BitVec 5) (disp : BitVec 12) (s : State) : Host.Outcome State Fault Refusal :=
  atomic s ra rb disp 8 .dec

/-- LDW_SET (R468). -/
def execLdwSet (ra rb : BitVec 5) (disp : BitVec 12) (s : State) : Host.Outcome State Fault Refusal :=
  atomic s ra rb disp 4 .set

/-- LDL_SET (R469). -/
def execLdlSet (ra rb : BitVec 5) (disp : BitVec 12) (s : State) : Host.Outcome State Fault Refusal :=
  atomic s ra rb disp 8 .set

end Sys2Proof.Machine
end

