-- ==== Sys2Proof/Machine/ExecMem.lean ====
section
/-! DEFINITION. The scalar loads and stores (R815–R827) and the non-cacheable ones (R832–R838). -/

namespace Sys2Proof.Machine

/-- A load into an integer register, legal in every mode (R801). -/
def scalarLoad (s : State) (ra rb : BitVec 5) (disp : BitVec 16) (n : Nat) : Host.Outcome State Fault Refusal :=
  plainStage s (fun s => loadXOr31 s (loadAcc ra n) (s.ea16 rb disp))

/-- A store from an integer register (R801). -/
def scalarStore (s : State) (ra rb : BitVec 5) (disp : BitVec 16) (n : Nat) : Host.Outcome State Fault Refusal :=
  plainStage s (fun s => storeV s (storeAcc ra n) (s.ea16 rb disp) (s.getX ra).toNat)

/-- A non-cacheable load into an integer register (R832). -/
def ncLoad (s : State) (ra rb : BitVec 5) (disp : BitVec 12) (n : Nat) : Host.Outcome State Fault Refusal :=
  plainStage s (fun s => loadXOr31 s { loadAcc ra n with nc := true } (s.ea12 rb disp))

/-- A non-cacheable store from an integer register (R832). -/
def ncStore (s : State) (ra rb : BitVec 5) (disp : BitVec 12) (n : Nat) : Host.Outcome State Fault Refusal :=
  plainStage s (fun s => storeV s { storeAcc ra n with nc := true } (s.ea12 rb disp) (s.getX ra).toNat)

/-- The FEN class of FLDS and FLDD: none when the destination is F31 (R541, D31). -/
def fldClass (fa : BitVec 5) : FpClass := if fa = 31#5 then .none else .scalar

/-- LDBU (R827). -/
def execLdbu (ra rb : BitVec 5) (disp : BitVec 16) (s : State) : Host.Outcome State Fault Refusal :=
  scalarLoad s ra rb disp 1

/-- LDHU (R816). -/
def execLdhu (ra rb : BitVec 5) (disp : BitVec 16) (s : State) : Host.Outcome State Fault Refusal :=
  scalarLoad s ra rb disp 2

/-- LDW (R817). -/
def execLdw (ra rb : BitVec 5) (disp : BitVec 16) (s : State) : Host.Outcome State Fault Refusal :=
  scalarLoad s ra rb disp 4

/-- LDL (R818). -/
def execLdl (ra rb : BitVec 5) (disp : BitVec 16) (s : State) : Host.Outcome State Fault Refusal :=
  scalarLoad s ra rb disp 8

/-- LDL_U (R819): as printed it is checked like LDL; by the parameter it loads the enclosing aligned longword, and the checks,
the matches and DVA take that longword's address (DESIGN CHOICE, log 17). -/
def execLdlU (ra rb : BitVec 5) (disp : BitVec 16) (s : State) : Host.Outcome State Fault Refusal :=
  if s.par.ldlUChecksAlignment then scalarLoad s ra rb disp 8
  else plainStage s (fun s => loadXOr31 s (loadAcc ra 8) (s.ea16 rb disp &&& ~~~7))

/-- FLDS (R823). -/
def execFlds (fa rb : BitVec 5) (disp : BitVec 16) (s : State) : Host.Outcome State Fault Refusal :=
  decodeStage s true false (fldClass fa) (fun s =>
    loadF s (loadAcc fa 4) (s.ea16 rb disp) (fun v => singleToReg (BitVec.ofNat 32 v)))

/-- FLDD (R824). -/
def execFldd (fa rb : BitVec 5) (disp : BitVec 16) (s : State) : Host.Outcome State Fault Refusal :=
  decodeStage s true false (fldClass fa) (fun s =>
    loadF s (loadAcc fa 8) (s.ea16 rb disp) (fun v => BitVec.ofNat 64 v))

/-- STB (R827). -/
def execStb (ra rb : BitVec 5) (disp : BitVec 16) (s : State) : Host.Outcome State Fault Refusal :=
  scalarStore s ra rb disp 1

/-- STH (R820). -/
def execSth (ra rb : BitVec 5) (disp : BitVec 16) (s : State) : Host.Outcome State Fault Refusal :=
  scalarStore s ra rb disp 2

/-- STW (R821). -/
def execStw (ra rb : BitVec 5) (disp : BitVec 16) (s : State) : Host.Outcome State Fault Refusal :=
  scalarStore s ra rb disp 4

/-- STL (R822). -/
def execStl (ra rb : BitVec 5) (disp : BitVec 16) (s : State) : Host.Outcome State Fault Refusal :=
  scalarStore s ra rb disp 8

/-- FSTS (R825). -/
def execFsts (fa rb : BitVec 5) (disp : BitVec 16) (s : State) : Host.Outcome State Fault Refusal :=
  decodeStage s true false .scalar (fun s =>
    storeV s (storeAcc fa 4) (s.ea16 rb disp) (regToSingle (s.getF fa)).toNat)

/-- FSTD (R826). -/
def execFstd (fa rb : BitVec 5) (disp : BitVec 16) (s : State) : Host.Outcome State Fault Refusal :=
  decodeStage s true false .scalar (fun s => storeV s (storeAcc fa 8) (s.ea16 rb disp) (s.getF fa).toNat)

/-- LDW_NC (R833). -/
def execLdwNc (ra rb : BitVec 5) (disp : BitVec 12) (s : State) : Host.Outcome State Fault Refusal :=
  ncLoad s ra rb disp 4

/-- LDL_NC (R834). -/
def execLdlNc (ra rb : BitVec 5) (disp : BitVec 12) (s : State) : Host.Outcome State Fault Refusal :=
  ncLoad s ra rb disp 8

/-- LDD_NC (R835). -/
def execLddNc (fa rb : BitVec 5) (disp : BitVec 12) (s : State) : Host.Outcome State Fault Refusal :=
  decodeStage s true false .scalar (fun s =>
    loadF s { loadAcc fa 8 with nc := true } (s.ea12 rb disp) (fun v => BitVec.ofNat 64 v))

/-- STW_NC (R836). -/
def execStwNc (ra rb : BitVec 5) (disp : BitVec 12) (s : State) : Host.Outcome State Fault Refusal :=
  ncStore s ra rb disp 4

/-- STL_NC (R837). -/
def execStlNc (ra rb : BitVec 5) (disp : BitVec 12) (s : State) : Host.Outcome State Fault Refusal :=
  ncStore s ra rb disp 8

/-- STD_NC (R838). -/
def execStdNc (fa rb : BitVec 5) (disp : BitVec 12) (s : State) : Host.Outcome State Fault Refusal :=
  decodeStage s true false .scalar (fun s =>
    storeV s { storeAcc fa 8 with nc := true } (s.ea12 rb disp) (s.getF fa).toNat)

end Sys2Proof.Machine
end

