-- ==== Sys2Proof/Machine/ExecPriv.lean ====
section
/-! DEFINITION. The privileged instructions (R415–R427). -/

namespace Sys2Proof.Machine

/-- PRI_RCSR (R416). A read of a CSR orders the write of it before (R741, R744–R746). -/
def execPriRcsr (ra : BitVec 5) (idx : BitVec 8) (s : State) : Host.Outcome State Fault Refusal :=
  privStage s (fun s =>
    .next (((s.setX ra (readCsr s idx)).retire .plain).noteRead idx))

/-- PRI_WCSR (R417): the write takes effect when the instruction retires (R52); an implicit reader may see it later
(R740). The instruction is counted before its write: whether a write of PC0_CR or IS_CTL is counted under the old or the new
counter and enable is open, and a write of PC0_CR replaces the count it made (R119; DESIGN CHOICE, log 46). -/
def execPriWcsr (ra : BitVec 5) (idx : BitVec 8) (s : State) : Host.Outcome State Fault Refusal :=
  privStage s (fun s =>
    let u := s.count .plain
    match writeCsr u idx (s.getX ra) with
    | .ok t => .next (u.noteWrite t idx (s.getX ra)).nextPc
    | .error r => .refused r)

/-- PRI_RET in both forms (R415): no check of the target (N26). -/
def priReturn (s : State) (ra : BitVec 5) : Host.Outcome State Fault Refusal :=
  privStage s (fun s => .next ((s.count .plain).leave (s.getX ra)))

/-- PRI_RET (R415). -/
def execPriRet (ra : BitVec 5) (s : State) : Host.Outcome State Fault Refusal := priReturn s ra

/-- PRI_RET/b (R415): it drains the pipeline (R740, R743). -/
def execPriRetB (ra : BitVec 5) (s : State) : Host.Outcome State Fault Refusal :=
  privStage s (fun s => .next ((s.count .plain).leave (s.getX ra)).noteReturn)

/-- The access of a privileged load: no alignment check (R227, R420). -/
def priLoadAcc (ra : BitVec 5) (f : AccForm) (n : Nat) : Acc :=
  { ra := ra, isR := true, isW := false, form := f, size := n, align := 1 }

/-- The access of a privileged store. -/
def priStoreAcc (ra : BitVec 5) (f : AccForm) (n : Nat) : Acc :=
  { ra := ra, isR := false, isW := true, form := f, size := n, align := 1 }

/-- How far a privileged access lies above its aligned unit: the checks and DVA take the effective address, the access
the unit around it (U23; DESIGN CHOICE, log 27). -/
def misBy (n : Nat) (ea : W64) : Nat := ea.toNat % n

/-- A privileged load (R420–R423). An address that is no multiple of the width loads a free value (U23). -/
def priLoad (s : State) (ra rb : BitVec 5) (disp : BitVec 12) (f : AccForm) (n : Nat) :
    Host.Outcome State Fault Refusal :=
  privStage s (fun s =>
    let ea := s.ea12 rb disp
    if misBy n ea = 0 then loadX s (priLoadAcc ra f n) ea
    else settle (doLoad s { priLoadAcc ra f n with back := misBy n ea } ea)
      (fun r => (r.2.setX ra (Config.misLoad s.freeCtr)).retire .read))

/-- The bytes a misaligned privileged store leaves in its aligned unit (U23). -/
def misBytes (ctr : Nat) : Nat → Nat
  | 0 => 0
  | n + 1 => misBytes ctr n * 256 + (Config.misStore ctr n).toNat

/-- A privileged store (R425, R426); a misaligned one leaves free bytes in the enclosing aligned unit (U23). -/
def priStore (s : State) (ra rb : BitVec 5) (disp : BitVec 12) (f : AccForm) (n : Nat) :
    Host.Outcome State Fault Refusal :=
  privStage s (fun s =>
    let ea := s.ea12 rb disp
    if misBy n ea = 0 then storeV s (priStoreAcc ra f n) ea (s.getX ra).toNat
    else storeV s { priStoreAcc ra f n with back := misBy n ea } ea (misBytes s.freeCtr n))

/-- A privileged atomic (R424): physical, and never INCO. A misaligned one is treated as U23: the old value read and
the bytes left are free. -/
def priAtomic (s : State) (ra rb : BitVec 5) (disp : BitVec 12) (n : Nat) (o : AtomicOp) :
    Host.Outcome State Fault Refusal :=
  privStage s (fun s =>
    let ea := s.ea12 rb disp
    let a : Acc := { atomicAcc ra n with form := .phys, align := 1 }
    if misBy n ea = 0 then atomicX s a ea o false
    else settle (doAtomic s { a with back := misBy n ea } ea (fun _ => misBytes s.freeCtr n))
      (fun r => (r.2.setX ra (Config.misLoad s.freeCtr)).retire .read))

/-- PRI_LDW/p (R421). -/
def execPriLdwP (ra rb : BitVec 5) (disp : BitVec 12) (s : State) : Host.Outcome State Fault Refusal :=
  priLoad s ra rb disp .phys 4

/-- PRI_LDW_INC/p (R424). -/
def execPriLdwIncP (ra rb : BitVec 5) (disp : BitVec 12) (s : State) : Host.Outcome State Fault Refusal :=
  priAtomic s ra rb disp 4 .inc

/-- PRI_LDW_DEC/p (R424). -/
def execPriLdwDecP (ra rb : BitVec 5) (disp : BitVec 12) (s : State) : Host.Outcome State Fault Refusal :=
  priAtomic s ra rb disp 4 .dec

/-- PRI_LDW_SET/p (R424). -/
def execPriLdwSetP (ra rb : BitVec 5) (disp : BitVec 12) (s : State) : Host.Outcome State Fault Refusal :=
  priAtomic s ra rb disp 4 .set

/-- PRI_LDW/v (R422). -/
def execPriLdwV (ra rb : BitVec 5) (disp : BitVec 12) (s : State) : Host.Outcome State Fault Refusal :=
  priLoad s ra rb disp .virt 4

/-- PRI_LDW/vpte (R423). -/
def execPriLdwVpte (ra rb : BitVec 5) (disp : BitVec 12) (s : State) : Host.Outcome State Fault Refusal :=
  priLoad s ra rb disp .vpte 4

/-- PRI_LDL/p (R421). -/
def execPriLdlP (ra rb : BitVec 5) (disp : BitVec 12) (s : State) : Host.Outcome State Fault Refusal :=
  priLoad s ra rb disp .phys 8

/-- PRI_LDL_INC/p (R424). -/
def execPriLdlIncP (ra rb : BitVec 5) (disp : BitVec 12) (s : State) : Host.Outcome State Fault Refusal :=
  priAtomic s ra rb disp 8 .inc

/-- PRI_LDL_DEC/p (R424). -/
def execPriLdlDecP (ra rb : BitVec 5) (disp : BitVec 12) (s : State) : Host.Outcome State Fault Refusal :=
  priAtomic s ra rb disp 8 .dec

/-- PRI_LDL_SET/p (R424). -/
def execPriLdlSetP (ra rb : BitVec 5) (disp : BitVec 12) (s : State) : Host.Outcome State Fault Refusal :=
  priAtomic s ra rb disp 8 .set

/-- PRI_LDL/v (R422). -/
def execPriLdlV (ra rb : BitVec 5) (disp : BitVec 12) (s : State) : Host.Outcome State Fault Refusal :=
  priLoad s ra rb disp .virt 8

/-- PRI_LDL/vpte (R423). -/
def execPriLdlVpte (ra rb : BitVec 5) (disp : BitVec 12) (s : State) : Host.Outcome State Fault Refusal :=
  priLoad s ra rb disp .vpte 8

/-- PRI_STW/p (R425). -/
def execPriStwP (ra rb : BitVec 5) (disp : BitVec 12) (s : State) : Host.Outcome State Fault Refusal :=
  priStore s ra rb disp .phys 4

/-- PRI_STW/v (R426). -/
def execPriStwV (ra rb : BitVec 5) (disp : BitVec 12) (s : State) : Host.Outcome State Fault Refusal :=
  priStore s ra rb disp .virt 4

/-- PRI_STL/p (R425). -/
def execPriStlP (ra rb : BitVec 5) (disp : BitVec 12) (s : State) : Host.Outcome State Fault Refusal :=
  priStore s ra rb disp .phys 8

/-- PRI_STL/v (R426). -/
def execPriStlV (ra rb : BitVec 5) (disp : BitVec 12) (s : State) : Host.Outcome State Fault Refusal :=
  priStore s ra rb disp .virt 8

end Sys2Proof.Machine
end

