-- ==== Sys2Proof/Machine/ExecSystem.lean ====
section
/-! DEFINITION. SYS_CALL (R411), the barriers (R440, R441), HALT (R443), the reads of TC, CID and TID (R446–R448) and
NOP (R392). -/

namespace Sys2Proof.Machine

/-- A SYS_CALL function is legal in the current mode (R411). -/
def sysCallLegal (s : State) (fn : BitVec 25) : Bool :=
  let lvl := fn.extractLsb' 6 2
  let m := s.mode
  decide (fn.extractLsb' 8 17 = 0) &&
    (s.inHm || decide (lvl = 0b10#2) || (decide (lvl = 0b00#2) && (decide (m = 0b10#2) || decide (m = 0b01#2)))
      || (decide (lvl = 0b01#2) && decide (m = 0b01#2)))

/-- PC[14:13] of a SYS_CALL entry (R412, R413). -/
def sysCallLevel (lvl : BitVec 2) : BitVec 2 :=
  match lvl with
  | 0b10#2 => 0b11#2
  | 0b00#2 => 0b10#2
  | l => l

/-- SysCallEntry(fn) (R412). -/
def sysCallEntry (s : State) (fn : BitVec 25) : W64 :=
  0#17 ++ s.csr.priBase.extractLsb' 16 31 ++ 0#1 ++ sysCallLevel (fn.extractLsb' 6 2) ++ fn.extractLsb' 0 6 ++ 0#7

/-- The entry of a legal SYS_CALL outside HM: SR23 takes the return address with the mode, lock_valid is cleared
(R411, D16, R39, D9). -/
def enterSysCall (s : State) (fn : BitVec 25) : State :=
  { (s.count .plain).setSr23 (sext53 (s.pc + 4)) with lock := { s.lock with valid := false }, pc := sysCallEntry s fn }

/-- SYS_CALL in both forms (R411): illegal functions raise OPCDEC, in HM it is a no-operation. -/
def sysCall (fn : BitVec 25) (s : State) : Host.Outcome State Fault Refusal :=
  decodeStage s (sysCallLegal s fn) false .none (fun s =>
    if s.inHm then .next (s.retire .nop) else .next (enterSysCall s fn))

/-- SYS_CALL (R411). -/
def execSysCall (fn : BitVec 25) (s : State) : Host.Outcome State Fault Refusal := sysCall fn s

/-- SYS_CALL/b (R411): the same effect, it drains the pipeline. -/
def execSysCallB (fn : BitVec 25) (s : State) : Host.Outcome State Fault Refusal := sysCall fn s

/-- MEMB (R440): earlier accesses are complete and ordered (R245, R250), so it closes the I/O write window (R243) and, where
CP_CTL[MB] = 1, sends a barrier request with SC_CTL[MB_CTL] (R173, R251). -/
def execMemb (s : State) : Host.Outcome State Fault Refusal :=
  plainStage s (fun s =>
    let t := { s.settleRaces.noteMemb with ioWin := none }
    .next ((if s.csr.cpCtl.getLsbD 5 then t.emit (.barrier (s.scEn 11)) else t).retire .nop))

/-- IMEMB (R441): every earlier CSR write is in effect after it (R742–R746). It waits for earlier instructions to retire
(R252); whether that orders a non-cacheable store that has retired before later cacheable loads (R245) is not stated: it does
not here (DESIGN CHOICE, log 58). -/
def execImemb (s : State) : Host.Outcome State Fault Refusal :=
  plainStage s (fun s => .next { s.retire .plain with unsynced := [] })

/-- HALT (R443): shallow sleep outside HM; in HM OPCDEC, or a no-operation by the parameter haltInHM (OPEN-9). -/
def execHalt (s : State) : Host.Outcome State Fault Refusal :=
  decodeStage s (!s.inHm || !s.par.haltInHmIsOpcdec) false .none (fun s =>
    if s.inHm then .next (s.retire .nop) else .next { s.retire .plain with power := .shallowSleep })

/-- RTC (R446): TC as it stands at this step; Rb orders it only. -/
def execRtc (ra _rb : BitVec 5) (s : State) : Host.Outcome State Fault Refusal :=
  plainStage s (fun s => .next ((s.setX ra s.csr.tc).retire .plain))

/-- RCID (R447). -/
def execRcid (ra : BitVec 5) (s : State) : Host.Outcome State Fault Refusal :=
  plainStage s (fun s => .next ((s.setX ra (readCsr s 0xC4)).retire .plain))

/-- RTID (R448). -/
def execRtid (ra : BitVec 5) (s : State) : Host.Outcome State Fault Refusal :=
  plainStage s (fun s => .next ((s.setX ra s.csr.tid).retire .plain))

/-- NOP (R392). -/
def execNop (s : State) : Host.Outcome State Fault Refusal :=
  plainStage s (fun s => .next (s.retire .nop))

end Sys2Proof.Machine
end

