-- ==== Sys2Proof/Machine/ExecVector.lean ====
section
/-! DEFINITION. The vector loads and stores (R839–R860). The element layouts are general knowledge (G11, log 15). -/

namespace Sys2Proof.Machine

/-- A vector load of `n` bytes: aligned to `align`, `elem` the element size of a general SIMD access (R226, R544). -/
def vecLoadAcc (fa : BitVec 5) (n align elem : Nat) : Acc :=
  { ra := fa, isR := true, isW := false, size := n, align := align, elem := elem, simd := true }

/-- A vector store of `n` bytes. -/
def vecStoreAcc (fa : BitVec 5) (n align elem : Nat) : Acc :=
  { ra := fa, isR := false, isW := true, size := n, align := align, elem := elem, simd := true }

/-- The four register lanes of 16 bytes of singles (R843). -/
def singlesToVec (m : Nat) : V256 :=
  let l := fun i => singleToReg (BitVec.ofNat 32 (m / 2 ^ (32 * i)))
  ofLanes (l 0) (l 1) (l 2) (l 3)

/-- The 16-byte memory image of four lanes stored as singles (R853). -/
def vecToSingles (v : V256) : Nat :=
  (regToSingle (lane v 3) ++ regToSingle (lane v 2) ++ regToSingle (lane v 1) ++ regToSingle (lane v 0)).toNat

/-- A lane value in all four lanes (R846, R847, R879). -/
def replicate4 (w : W64) : V256 := ofLanes w w w w

/-- A vector load (R842): all 256 bits are written, `int` where they are integer data, as the
environment may also say (R884, log 22); with destination F31 no
access is made (R801). -/
def vecLoad (s : State) (a : Acc) (va : W64) (int : Bool) (cvt : Nat → V256) : Host.Outcome State Fault Refusal :=
  simdStage s (fun s =>
    if a.ra = 31#5 then .next (s.retire .read)
    else settle (doLoad s a va) (fun r => (r.2.setV a.ra (cvt r.1) (if int || s.intData then 0b1111 else 0)).retire .read))

/-- The bytes of an unaligned access that lie below its next boundary: of a vector access the next 32-byte one. -/
def lowPart (va : W64) (n : Nat) (edge : Nat := 32) : Nat := min n (edge - va.toNat % edge)

/-- The checks of the second part of an unaligned access, at `va`: it is translated on its own, as it may lie in the next page
(DESIGN CHOICE, log 71), and takes no part in the debug matches, which compare the effective address `ea` (R675). A fault
of its translation records the effective address as DVA (R801). -/
def highPhase (s : State) (a : Acc) (ea va : W64) : Except State (PAddr × State) :=
  match addressPhase s a va with
  | .error t => .error { t with csr := { t.csr with dva := ea } }
  | .ok pa =>
    match physicalPhase s a va pa with
    | .error t => .error t
    | .ok t => .ok (pa, t)

/-- A load that may be cut in two at a boundary: what its parts read, and the I/O reads among them, which are still to be
performed (R256 item 3); `n` came before in the instruction. -/
def splitRead (s : State) (a : Acc) (va : W64) (edge : Nat) (n : Nat := 0) : Except State ((Nat × List Output) × State) :=
  let k := lowPart va a.size edge
  match dataPhase s { a with size := k } va with
  | .error t => .error t
  | .ok (pa, t) =>
    let lo := pendRead t.unlock { a with size := k } pa n
    if k = a.size then .ok lo
    else
      let b := { a with size := a.size - k, align := 1 }
      match highPhase lo.2 b va (va + BitVec.ofNat 64 k) with
      | .error u => .error u
      | .ok (pb, u) =>
        let hi := pendRead u b pb (n + lo.1.2.length)
        .ok ((lo.1.1 + hi.1.1 * 2 ^ (8 * k), lo.1.2 ++ hi.1.2), hi.2)

/-- An unaligned load (R848–R850): the part below the next boundary and the rest; nothing is written, and no register of a
device is read, unless both complete. -/
def splitLoad (s : State) (a : Acc) (va : W64) (edge : Nat := 32) : Except State (Nat × State) :=
  (splitRead s a va edge).map (fun r => (r.1.1, r.2.ioReads r.1.2))

/-- An unaligned vector load into a register (R842 item 6). -/
def vecLoadU (s : State) (a : Acc) (va : W64) (int : Bool) (cvt : Nat → V256) : Host.Outcome State Fault Refusal :=
  simdStage s (fun s =>
    if a.ra = 31#5 then .next (s.retire .read)
    else settle (splitLoad s a va) (fun r => (r.2.setV a.ra (cvt r.1) (if int || s.intData then 0b1111 else 0)).retire .read))

/-- A vector store of an image (R852). -/
def vecStore (s : State) (a : Acc) (va : W64) (image : Nat) : Host.Outcome State Fault Refusal :=
  simdStage s (fun s => storeV s a va image)

/-- The UL form (R852): the part of the vector below the next 32-byte boundary. -/
def vecStoreLow (s : State) (a : Acc) (va : W64) (image : Nat) : Host.Outcome State Fault Refusal :=
  simdStage s (fun s => storeV s { a with size := lowPart va a.size } va image)

/-- The bytes the UH form writes: those above the last 32-byte boundary before the vector's end `va`, when the vector
crosses it. -/
def highPart (va : W64) (n : Nat) (edge : Nat := 32) : Nat := if va.toNat % edge < n then va.toNat % edge else 0

/-- A store, or a part of one, that every check has let through: its access, where it goes, its bytes. -/
abbrev StorePart := Acc × PAddr × Nat

/-- The checks of a store that may be cut in two at a boundary (R801, R529): the first part takes those of the effective
address and the matches, with the data of the whole (R677); both parts are checked before either is written (R526; that each
part is translated on its own is a DESIGN CHOICE, log 71). -/
def checkCut (s : State) (a : Acc) (va : W64) (v edge : Nat) : Except State (List StorePart × State) :=
  let k := lowPart va a.size edge
  let w := { a with data := some v }
  match addressPhase s w va with
  | .error t => .error t
  | .ok pa =>
    match matchPhase s w va pa with
    | .error t => .error t
    | .ok () =>
      match physicalPhase s { w with size := k } va pa with
      | .error t => .error t
      | .ok t =>
        if k = a.size then .ok ([(a, pa, v)], t)
        else
          match highPhase t { a with size := a.size - k, align := 1 } va (va + BitVec.ofNat 64 k) with
          | .error u => .error u
          | .ok (pb, u) =>
            .ok ([({ a with size := k }, pa, v), ({ a with size := a.size - k }, pb, v / 2 ^ (8 * k))], u)

/-- The checks of a store of the UH form (R852), addressed by the end of the vector: the checks and the matches take that
address like any other, and the bytes lie below it. With nothing above the boundary it is checked in the same way and stores
nothing (DESIGN CHOICE, log 71). -/
def checkHigh (s : State) (a : Acc) (va : W64) (v : Nat) (edge : Nat := 32) : Except State (List StorePart × State) :=
  let k := highPart va a.size edge
  let w := v / 2 ^ (8 * (a.size - k))
  if 0 < k then
    let b := { a with size := k, back := k }
    match dataPhase s { b with data := some w } va with
    | .error t => .error t
    | .ok (pa, t) => .ok ([(b, pa, w)], t)
  else
    match addressPhase s a va with
    | .error t => .error t
    | .ok pa =>
      match matchPhase s a va pa with
      | .error t => .error t
      | .ok () => .ok ([], s)

/-- The checked parts are written, and the lock sequence ends (U33). -/
def State.performAll (s : State) (l : List StorePart) : State :=
  l.foldl (fun t e => performWrite t e.1 e.2.1 e.2.2) s.unlock

/-- A store of the UH form (R852). -/
def highStore (s : State) (a : Acc) (va : W64) (image : Nat) : Except State State :=
  match checkHigh s a va image with
  | .error t => .error t
  | .ok (l, t) => .ok (t.performAll l)

/-- The UH form (R852). -/
def vecStoreHigh (s : State) (a : Acc) (va : W64) (image : Nat) : Host.Outcome State Fault Refusal :=
  simdStage s (fun s => settle (highStore s a va image) (fun t => t.retire .write))

/-- VLDD_NC (R839). -/
def execVlddNc (fa rb : BitVec 5) (disp : BitVec 16) (s : State) : Host.Outcome State Fault Refusal :=
  vecLoad s { vecLoadAcc fa 32 32 8 with nc := true } (s.ea16 rb disp) false (fun v => BitVec.ofNat 256 v)

/-- VSTD_NC (R840). -/
def execVstdNc (fa rb : BitVec 5) (disp : BitVec 16) (s : State) : Host.Outcome State Fault Refusal :=
  vecStore s { vecStoreAcc fa 32 32 8 with nc := true } (s.ea16 rb disp) (s.getV fa).toNat

/-- VLDS (R843). -/
def execVlds (fa rb : BitVec 5) (disp : BitVec 16) (s : State) : Host.Outcome State Fault Refusal :=
  vecLoad s (vecLoadAcc fa 16 16 4) (s.ea16 rb disp) false singlesToVec

/-- VLDD (R844). -/
def execVldd (fa rb : BitVec 5) (disp : BitVec 16) (s : State) : Host.Outcome State Fault Refusal :=
  vecLoad s (vecLoadAcc fa 32 32 8) (s.ea16 rb disp) false (fun v => BitVec.ofNat 256 v)

/-- LDWE (R845): the word in all eight elements. -/
def execLdwe (fa rb : BitVec 5) (disp : BitVec 16) (s : State) : Host.Outcome State Fault Refusal :=
  vecLoad s (vecLoadAcc fa 4 4 0) (s.ea16 rb disp) true
    (fun v => replicate4 (BitVec.ofNat 32 v ++ BitVec.ofNat 32 v))

/-- LDSE (R846). -/
def execLdse (fa rb : BitVec 5) (disp : BitVec 16) (s : State) : Host.Outcome State Fault Refusal :=
  vecLoad s (vecLoadAcc fa 4 4 0) (s.ea16 rb disp) false (fun v => replicate4 (singleToReg (BitVec.ofNat 32 v)))

/-- LDDE (R847). -/
def execLdde (fa rb : BitVec 5) (disp : BitVec 16) (s : State) : Host.Outcome State Fault Refusal :=
  vecLoad s (vecLoadAcc fa 8 8 0) (s.ea16 rb disp) false (fun v => replicate4 (BitVec.ofNat 64 v))

/-- VLDW_U (R848). -/
def execVldwU (fa rb : BitVec 5) (disp : BitVec 16) (s : State) : Host.Outcome State Fault Refusal :=
  vecLoadU s (vecLoadAcc fa 32 4 0) (s.ea16 rb disp) true (fun v => BitVec.ofNat 256 v)

/-- VLDS_U (R849). -/
def execVldsU (fa rb : BitVec 5) (disp : BitVec 16) (s : State) : Host.Outcome State Fault Refusal :=
  vecLoadU s (vecLoadAcc fa 16 4 0) (s.ea16 rb disp) false singlesToVec

/-- VLDD_U (R850). -/
def execVlddU (fa rb : BitVec 5) (disp : BitVec 16) (s : State) : Host.Outcome State Fault Refusal :=
  vecLoadU s (vecLoadAcc fa 32 8 0) (s.ea16 rb disp) false (fun v => BitVec.ofNat 256 v)

/-- VSTS (R853). -/
def execVsts (fa rb : BitVec 5) (disp : BitVec 16) (s : State) : Host.Outcome State Fault Refusal :=
  vecStore s (vecStoreAcc fa 16 16 4) (s.ea16 rb disp) (vecToSingles (s.getV fa))

/-- VSTD (R854). -/
def execVstd (fa rb : BitVec 5) (disp : BitVec 16) (s : State) : Host.Outcome State Fault Refusal :=
  vecStore s (vecStoreAcc fa 32 32 8) (s.ea16 rb disp) (s.getV fa).toNat

/-- VSTW_UL (R855). -/
def execVstwUl (fa rb : BitVec 5) (disp : BitVec 16) (s : State) : Host.Outcome State Fault Refusal :=
  vecStoreLow s (vecStoreAcc fa 32 4 0) (s.ea16 rb disp) (s.getV fa).toNat

/-- VSTW_UH (R856). -/
def execVstwUh (fa rb : BitVec 5) (disp : BitVec 16) (s : State) : Host.Outcome State Fault Refusal :=
  vecStoreHigh s (vecStoreAcc fa 32 4 0) (s.ea16 rb disp) (s.getV fa).toNat

/-- VSTS_UL (R857). -/
def execVstsUl (fa rb : BitVec 5) (disp : BitVec 16) (s : State) : Host.Outcome State Fault Refusal :=
  vecStoreLow s (vecStoreAcc fa 16 4 0) (s.ea16 rb disp) (vecToSingles (s.getV fa))

/-- VSTS_UH (R858). -/
def execVstsUh (fa rb : BitVec 5) (disp : BitVec 16) (s : State) : Host.Outcome State Fault Refusal :=
  vecStoreHigh s (vecStoreAcc fa 16 4 0) (s.ea16 rb disp) (vecToSingles (s.getV fa))

/-- VSTD_UL (R859). -/
def execVstdUl (fa rb : BitVec 5) (disp : BitVec 16) (s : State) : Host.Outcome State Fault Refusal :=
  vecStoreLow s (vecStoreAcc fa 32 8 0) (s.ea16 rb disp) (s.getV fa).toNat

/-- VSTD_UH (R860). -/
def execVstdUh (fa rb : BitVec 5) (disp : BitVec 16) (s : State) : Host.Outcome State Fault Refusal :=
  vecStoreHigh s (vecStoreAcc fa 32 8 0) (s.ea16 rb disp) (s.getV fa).toNat

end Sys2Proof.Machine
end

