-- ==== Sys2Proof/Machine/Dispatch.lean ====
section
/-! DEFINITION. The meaning of every instruction: one arm per constructor. -/

namespace Sys2Proof.Machine

/-- Execute one instruction. -/
def exec (i : Instr) (s : State) : Host.Outcome State Fault Refusal :=
  match i with
  | .sysCall fn => Sys2Proof.Machine.execSysCall fn s
  | .sysCallB fn => Sys2Proof.Machine.execSysCallB fn s
  | .call ra rb hint => Sys2Proof.Machine.execCall ra rb hint s
  | .ret ra rb hint => Sys2Proof.Machine.execRet ra rb hint s
  | .jmp ra rb hint => Sys2Proof.Machine.execJmp ra rb hint s
  | .bsr ra disp => Sys2Proof.Machine.execBsr ra disp s
  | .memb => Sys2Proof.Machine.execMemb s
  | .imemb => Sys2Proof.Machine.execImemb s
  | .rtc ra rb => Sys2Proof.Machine.execRtc ra rb s
  | .rcid ra => Sys2Proof.Machine.execRcid ra s
  | .halt => Sys2Proof.Machine.execHalt s
  | .rdF ra => Sys2Proof.Machine.execRdF ra s
  | .wrF ra => Sys2Proof.Machine.execWrF ra s
  | .rtid ra => Sys2Proof.Machine.execRtid ra s
  | .priRcsr ra idx => Sys2Proof.Machine.execPriRcsr ra idx s
  | .priWcsr ra idx => Sys2Proof.Machine.execPriWcsr ra idx s
  | .priRet ra => Sys2Proof.Machine.execPriRet ra s
  | .priRetB ra => Sys2Proof.Machine.execPriRetB ra s
  | .lldw ra rb disp => Sys2Proof.Machine.execLldw ra rb disp s
  | .lldl ra rb disp => Sys2Proof.Machine.execLldl ra rb disp s
  | .ldwInc ra rb disp => Sys2Proof.Machine.execLdwInc ra rb disp s
  | .ldlInc ra rb disp => Sys2Proof.Machine.execLdlInc ra rb disp s
  | .ldwDec ra rb disp => Sys2Proof.Machine.execLdwDec ra rb disp s
  | .ldlDec ra rb disp => Sys2Proof.Machine.execLdlDec ra rb disp s
  | .ldwSet ra rb disp => Sys2Proof.Machine.execLdwSet ra rb disp s
  | .ldlSet ra rb disp => Sys2Proof.Machine.execLdlSet ra rb disp s
  | .lstw ra rb disp => Sys2Proof.Machine.execLstw ra rb disp s
  | .lstl ra rb disp => Sys2Proof.Machine.execLstl ra rb disp s
  | .ldwNc ra rb disp => Sys2Proof.Machine.execLdwNc ra rb disp s
  | .ldlNc ra rb disp => Sys2Proof.Machine.execLdlNc ra rb disp s
  | .lddNc fa rb disp => Sys2Proof.Machine.execLddNc fa rb disp s
  | .stwNc ra rb disp => Sys2Proof.Machine.execStwNc ra rb disp s
  | .stlNc ra rb disp => Sys2Proof.Machine.execStlNc ra rb disp s
  | .stdNc fa rb disp => Sys2Proof.Machine.execStdNc fa rb disp s
  | .addw ra rb rc => Sys2Proof.Machine.execAddw ra rb rc s
  | .mulw ra rb rc => Sys2Proof.Machine.execMulw ra rb rc s
  | .mull ra rb rc => Sys2Proof.Machine.execMull ra rb rc s
  | .umulh ra rb rc => Sys2Proof.Machine.execUmulh ra rb rc s
  | .cmpeq ra rb rc => Sys2Proof.Machine.execCmpeq ra rb rc s
  | .bis ra rb rc => Sys2Proof.Machine.execBis ra rb rc s
  | .xor ra rb rc => Sys2Proof.Machine.execXor ra rb rc s
  | .addwLit ra lit rc => Sys2Proof.Machine.execAddwLit ra lit rc s
  | .mulwLit ra lit rc => Sys2Proof.Machine.execMulwLit ra lit rc s
  | .mullLit ra lit rc => Sys2Proof.Machine.execMullLit ra lit rc s
  | .umulhLit ra lit rc => Sys2Proof.Machine.execUmulhLit ra lit rc s
  | .cmpeqLit ra lit rc => Sys2Proof.Machine.execCmpeqLit ra lit rc s
  | .bisLit ra lit rc => Sys2Proof.Machine.execBisLit ra lit rc s
  | .xorLit ra lit rc => Sys2Proof.Machine.execXorLit ra lit rc s
  | .faddd fa fb fc => Sys2Proof.Machine.execFaddd fa fb fc s
  | .rfpcr fa => Sys2Proof.Machine.execRfpcr fa s
  | .wfpcr fa => Sys2Proof.Machine.execWfpcr fa s
  | .setfpec0 => Sys2Proof.Machine.execSetfpec0 s
  | .setfpec1 => Sys2Proof.Machine.execSetfpec1 s
  | .setfpec2 => Sys2Proof.Machine.execSetfpec2 s
  | .setfpec3 => Sys2Proof.Machine.execSetfpec3 s
  | .ldbu ra rb disp => Sys2Proof.Machine.execLdbu ra rb disp s
  | .ldhu ra rb disp => Sys2Proof.Machine.execLdhu ra rb disp s
  | .ldw ra rb disp => Sys2Proof.Machine.execLdw ra rb disp s
  | .ldl ra rb disp => Sys2Proof.Machine.execLdl ra rb disp s
  | .ldlU ra rb disp => Sys2Proof.Machine.execLdlU ra rb disp s
  | .flds fa rb disp => Sys2Proof.Machine.execFlds fa rb disp s
  | .fldd fa rb disp => Sys2Proof.Machine.execFldd fa rb disp s
  | .stb ra rb disp => Sys2Proof.Machine.execStb ra rb disp s
  | .sth ra rb disp => Sys2Proof.Machine.execSth ra rb disp s
  | .stw ra rb disp => Sys2Proof.Machine.execStw ra rb disp s
  | .stl ra rb disp => Sys2Proof.Machine.execStl ra rb disp s
  | .fsts fa rb disp => Sys2Proof.Machine.execFsts fa rb disp s
  | .fstd fa rb disp => Sys2Proof.Machine.execFstd fa rb disp s
  | .ldi ra rb disp => Sys2Proof.Machine.execLdi ra rb disp s
  | .beq ra disp => Sys2Proof.Machine.execBeq ra disp s
  | .bne ra disp => Sys2Proof.Machine.execBne ra disp s
  | .priLdwP ra rb disp => Sys2Proof.Machine.execPriLdwP ra rb disp s
  | .priLdlP ra rb disp => Sys2Proof.Machine.execPriLdlP ra rb disp s
  | .priLdwIncP ra rb disp => Sys2Proof.Machine.execPriLdwIncP ra rb disp s
  | .priLdlIncP ra rb disp => Sys2Proof.Machine.execPriLdlIncP ra rb disp s
  | .priLdwDecP ra rb disp => Sys2Proof.Machine.execPriLdwDecP ra rb disp s
  | .priLdlDecP ra rb disp => Sys2Proof.Machine.execPriLdlDecP ra rb disp s
  | .priLdwSetP ra rb disp => Sys2Proof.Machine.execPriLdwSetP ra rb disp s
  | .priLdlSetP ra rb disp => Sys2Proof.Machine.execPriLdlSetP ra rb disp s
  | .priLdwV ra rb disp => Sys2Proof.Machine.execPriLdwV ra rb disp s
  | .priLdlV ra rb disp => Sys2Proof.Machine.execPriLdlV ra rb disp s
  | .priLdwVpte ra rb disp => Sys2Proof.Machine.execPriLdwVpte ra rb disp s
  | .priLdlVpte ra rb disp => Sys2Proof.Machine.execPriLdlVpte ra rb disp s
  | .priStwP ra rb disp => Sys2Proof.Machine.execPriStwP ra rb disp s
  | .priStlP ra rb disp => Sys2Proof.Machine.execPriStlP ra rb disp s
  | .priStwV ra rb disp => Sys2Proof.Machine.execPriStwV ra rb disp s
  | .priStlV ra rb disp => Sys2Proof.Machine.execPriStlV ra rb disp s
  | .fetchd rb disp => Sys2Proof.Machine.execFetchd rb disp s
  | .fetchdE rb disp => Sys2Proof.Machine.execFetchdE rb disp s
  | .flushd rb disp => Sys2Proof.Machine.execFlushd rb disp s
  | .evictdl rb disp => Sys2Proof.Machine.execEvictdl rb disp s
  | .evictdg rb disp => Sys2Proof.Machine.execEvictdg rb disp s
  | .vlddNc fa rb disp => Sys2Proof.Machine.execVlddNc fa rb disp s
  | .vstdNc fa rb disp => Sys2Proof.Machine.execVstdNc fa rb disp s
  | .vlds fa rb disp => Sys2Proof.Machine.execVlds fa rb disp s
  | .vldd fa rb disp => Sys2Proof.Machine.execVldd fa rb disp s
  | .ldwe fa rb disp => Sys2Proof.Machine.execLdwe fa rb disp s
  | .ldse fa rb disp => Sys2Proof.Machine.execLdse fa rb disp s
  | .ldde fa rb disp => Sys2Proof.Machine.execLdde fa rb disp s
  | .vldwU fa rb disp => Sys2Proof.Machine.execVldwU fa rb disp s
  | .vldsU fa rb disp => Sys2Proof.Machine.execVldsU fa rb disp s
  | .vlddU fa rb disp => Sys2Proof.Machine.execVlddU fa rb disp s
  | .vsts fa rb disp => Sys2Proof.Machine.execVsts fa rb disp s
  | .vstd fa rb disp => Sys2Proof.Machine.execVstd fa rb disp s
  | .vstwUl fa rb disp => Sys2Proof.Machine.execVstwUl fa rb disp s
  | .vstwUh fa rb disp => Sys2Proof.Machine.execVstwUh fa rb disp s
  | .vstsUl fa rb disp => Sys2Proof.Machine.execVstsUl fa rb disp s
  | .vstsUh fa rb disp => Sys2Proof.Machine.execVstsUh fa rb disp s
  | .vstdUl fa rb disp => Sys2Proof.Machine.execVstdUl fa rb disp s
  | .vstdUh fa rb disp => Sys2Proof.Machine.execVstdUh fa rb disp s
  | .vaddd fa fb fc => Sys2Proof.Machine.execVaddd fa fb fc s
  | .vinsf fa fb lit fc => Sys2Proof.Machine.execVinsf fa fb lit fc s
  | .vinsw fa fb lit fc => Sys2Proof.Machine.execVinsw fa fb lit fc s
  | .vcpyf fa fc => Sys2Proof.Machine.execVcpyf fa fc s
  | .vextf fa lit fc => Sys2Proof.Machine.execVextf fa lit fc s
  | .vextw fa lit fc => Sys2Proof.Machine.execVextw fa lit fc s
  | .fimov w fa rc => Sys2Proof.Machine.execFimov w fa rc s
  | .ifmov w ra fc => Sys2Proof.Machine.execIfmov w ra fc s
  | .jsr ra rb => Sys2Proof.Machine.execJsr ra rb s
  | .nop => Sys2Proof.Machine.execNop s

end Sys2Proof.Machine
end

