-- ==== Sys2Proof/Machine/ExecBase.lean ====
section
/-! DEFINITION. The instructions of BaseISA that the opcode table has no row for (OPEN-1, R404, R800): the parameter
`Params.base` gives their words and their shape; the rules of the spec give their checks, traps and effects; their values
are free functions of the word and the operands. -/

namespace Sys2Proof.Machine

/-! ### Operands -/

/-- Read a whole register of a file (R12, R40). -/
def State.readReg (s : State) (f : BaseFile) (i : BitVec 5) : V256 :=
  match f with
  | .int => (s.getX i).setWidth 256
  | .float => (s.getF i).setWidth 256
  | .vec => s.getV i

/-- Write a register of a file, with the lanes that hold integer data (R12, R41, log 22). -/
def State.writeReg (s : State) (f : BaseFile) (i : BitVec 5) (w : V256) (ints : BitVec 4) : State :=
  match f with
  | .int => s.setX i (lane w 0)
  | .float => s.setF i (lane w 0) (ints.getLsbD 0)
  | .vec => s.setV i w ints

/-- A source holds data of the other type in a lane the instruction reads (R884 item 5, U6); the zero register holds data of
either type. -/
def mistyped (s : State) (f : BaseFile) (ty : BaseType) (i : BitVec 5) : Bool :=
  decide (i ≠ 31#5) &&
    match f, ty with
    | .float, .float => (s.getInts i).getLsbD 0
    | .float, .int => !(s.getInts i).getLsbD 0
    | .vec, .float => decide (s.getInts i ≠ 0#4)
    | .vec, .int => decide (s.getInts i ≠ 0b1111#4)
    | _, _ => false

/-- The file of an operation on whole registers of four lanes or on element 0 alone. -/
def laneFile (simd : Bool) : BaseFile := if simd then .vec else .float

/-- The enables an instruction of a unit needs (R541). -/
def baseClass (f : BaseFile) : FpClass :=
  match f with
  | .int => .none
  | .float => .scalar
  | .vec => .simd

/-- What the elements of a floating operation add to FPCR and which traps they take (R569, R572). -/
def raisedBits (fpcr : W64) (l : List FpResult) : W64 × W64 :=
  (l.take 4).zipIdx.foldl (fun q e => (q.1 ||| statusBits e.2 e.1, q.2 ||| excBits fpcr e.2 e.1)) (0, 0)

/-- An integer operation of the floating unit that overflows, or not: it sets OVI0 and INE0 of FPCR together (R562, D24); on
data of the wrong type each is free on its own (R884 item 5, U6). -/
def integerRaised (s : State) (wrong overflow : Bool) : FpResult :=
  if wrong then FpResult.free s.fpcr 0b0110000#7 (Config.typeFree s.freeCtr 0) else { value := 0, ine := overflow, ovi := overflow }

/-! ### The shapes -/

/-- The third source register, bits [9:5] of the word (PRESUMED, log 65); R31, F31 or V31 where there is none. -/
def thirdField (s : State) (third : Bool) : BitVec 5 := if third then s.word.extractLsb' 5 5 else 31#5

/-- An integer operate instruction: on overflow with ICR[FD] = 0 it completes and enters ARITH with OVI0 and INT (R562). A
write of ICR takes effect before every later integer instruction (R55). -/
def baseOperate (s : State) (ra rc : BitVec 5) (third : Bool) (b : W64) : Host.Outcome State Fault Refusal :=
  plainStage s (fun s =>
    let r := Config.baseInt s.word (s.getX ra) b (s.getX (thirdField s third))
    let t := (s.setX rc r.1).count .plain
    .next (if r.2 && !s.csr.icr.getLsbD 0 then t.raiseArith rc 0xC0 else t.nextPc))

/-- A load of `n` bytes into an integer register (R801, R815). -/
def baseLoadX (s : State) (ra : BitVec 5) (n : Nat) (va : W64) : Host.Outcome State Fault Refusal :=
  plainStage s (fun s =>
    if ra = 31#5 then .next (s.retire .read)
    else settle (doLoad s (loadAcc ra n) va) (fun r => (r.2.setX ra (Config.baseLoad s.word r.1)).retire .read))

/-- One element of a floating operation: integer data in any source leaves every element free (U6), a denormal operand may
trap (R564) or is taken as a zero (R204), an operand that is not a finite number raises INV (R200), else the result and the
status bits are those of the instruction, which reads the control bits of FPCR only (R207). It divides nothing, so DZE does
not occur (R567). -/
def baseElement (s : State) (simd third : Bool) (i : Nat) (int : Bool) (a b : W64) : FpResult :=
  let fd := thirdField s third
  let c := lane (s.getV fd) i
  if int || mistyped s (laneFile simd) .float fd then FpResult.free s.fpcr 0b1011101#7 (Config.typeFree s.freeCtr i)
  else if denormalTraps s.fpcr a b || denormalTraps s.fpcr c c then { value := 0, den := true }
  else
    let r := FpResult.ofBits (Config.baseFloat s.word (flushed a) (flushed b) (flushed c) (s.fpcr &&& fpcrControl))
    { r with inv := r.inv || nonFinite a || nonFinite b || nonFinite c, dze := false, ovi := false }

/-- A zero of either sign. -/
def isZero (w : W64) : Bool := decide (w <<< 1 = 0)

/-- One element of a floating division (R567): a zero divisor under a finite dividend that is not 0 raises DZE, and its
masked result is the infinity of their signs; no other division of floating data does. -/
def divideElement (s : State) (i : Nat) (int : Bool) (a b : W64) : FpResult :=
  if int then FpResult.free s.fpcr 0b1011111#7 (Config.typeFree s.freeCtr i)
  else
    let r := baseElement s false false i false a b
    if !r.den && isZero (flushed b) && !nonFinite a && !isZero (flushed a) then
      { value := signed (a.getLsbD 63 != b.getLsbD 63) 0x7FF0000000000000, dze := true }
    else r

/-- A conversion (R562 ways 2 and 3): from an integer it meets no denormal and no number that is not finite; to an integer it
may overflow. A source of the wrong type gives free results (U6). -/
def convertElement (s : State) (fromInt toInt wrong : Bool) (a b : W64) : FpResult :=
  if wrong then FpResult.free s.fpcr (if toInt then 0b1111101#7 else 0b1011101#7) (Config.typeFree s.freeCtr 0)
  else if !fromInt && denormalTraps s.fpcr a b then { value := 0, den := true }
  else
    let f := fun w => if fromInt then w else flushed w
    let r := FpResult.ofBits (Config.baseFloat s.word (f a) (f b) 0 (s.fpcr &&& fpcrControl))
    { r with inv := r.inv || (!fromInt && (nonFinite a || nonFinite b)), dze := false, ovi := r.ovi && toInt }

/-- An integer operation of the floating unit: its overflow traps by ways 2 and 3 (R562, D24). Floating data as an operand
makes the result and the two status bits free (R884 item 5, U6). -/
def vecInteger (s : State) (simd third : Bool) (fa fb fc : BitVec 5) : Host.Outcome State Fault Refusal :=
  let f := laneFile simd
  decodeStage s true false (baseClass f) (fun s =>
    let fd := thirdField s third
    let wrong := mistyped s f .int fa || mistyped s f .int fb || mistyped s f .int fd
    let v := Config.baseVec (if wrong then s.freeCtr + 1 else 0) s.word (s.readReg f fa) (s.readReg f fb) (s.readReg f fd)
    let r := integerRaised s wrong v.2
    .next (finishFloat (s.writeReg f fc v.1 0b1111) fc (statusBits 0 r) (excBits s.fpcr 0 r)))

/-- A move, a selection or a logical operation between floating or vector registers: it raises nothing; a lane holds integer
data when one of its sources does. -/
def vecMove (s : State) (simd third : Bool) (fa fb fc : BitVec 5) : Host.Outcome State Fault Refusal :=
  let f := laneFile simd
  decodeStage s true false (baseClass f) (fun s =>
    let fd := thirdField s third
    let v := Config.baseVec 0 s.word (s.readReg f fa) (s.readReg f fb) (s.readReg f fd)
    .next ((s.writeReg f fc v.1 (s.getInts fa ||| s.getInts fb ||| s.getInts fd)).retire .plain))

/-- A floating conditional branch (R805), in the scalar floating class (R541): R673 matches the target of integer
branch-class instructions and does not name the floating ones, so it takes no part in IDA_MATCH. -/
def floatBranch (s : State) (fa : BitVec 5) (disp : BitVec 21) : Host.Outcome State Fault Refusal :=
  floatStage s (fun s =>
    .next (if Config.baseTaken s.word (s.getF fa) then s.transfer .conditional fa false (s.branchTarget disp)
      else s.unlock.retire .conditional))

/-- An off-core cache prefetch or flush (R476): sent out with DC_CTL[ECACHE_EN] = 1 for a line of cacheable memory, else a
no-operation (R271). It has no architectural effect, so an address that cannot be translated drops it. Whether its page is
tested for reading, for writing, for both or for neither is a free choice, as of the other cache-control instructions: R316
and N23 leave it open (DESIGN CHOICE, log 37). It counts as the fills and the flushes do, which R652 leaves open (DESIGN
CHOICE, log 46). -/
def offCore (s : State) (prefetch : Bool) (rb : BitVec 5) (disp : BitVec 16) : Host.Outcome State Fault Refusal :=
  plainStage s (fun s =>
    let va := s.lineAddr rb disp
    let a := cacheAcc s .normal
    let nop := s.retire (if prefetch then .nopRead else .nopWrite)
    if !s.dcEn 18 || !canonical va then .next nop
    else
      match translateD s .normal a.isR a.isW va with
      | .page pa =>
        if isIo pa || pa.getLsbD 46 then .next nop
        else .next ((s.emit (.offCore s.word (memAddr pa / 128))).retire (if prefetch then .read else .write))
      | _ => .next nop)

/-! ### Memory -/

/-- The access of an instruction of BaseISA. An atomic is always aligned to its width (R463). -/
def baseAcc (s : State) (unit : BaseFile) (m : BaseMem) : Acc :=
  { ra := fldA s.word, isR := decide (m.access ≠ .store), isW := decide (m.access ≠ .load), size := m.size
    align := if m.access = .atomic then m.size else m.align, elem := m.elem, simd := decide (unit = .vec)
    wide := decide (16 ≤ m.size), atomic := decide (m.access = .atomic), nc := m.nc }

/-- The address with the low bits cleared that its instruction ignores. -/
def maskedAddr (m : BaseMem) (ea : W64) : W64 := ea >>> m.clear <<< m.clear

/-- Where an access is cut in two: at its boundary, else where a page may end, as the next page is translated on its own
(DESIGN CHOICE, log 71). -/
def cutAt (m : BaseMem) : Nat := if m.part = .whole then 8192 else m.edge

/-- The checks of a store of BaseISA: of all its bytes, or of the part below or above its boundary (R852). -/
def checkStore (s : State) (unit : BaseFile) (m : BaseMem) (va : W64) (v : Nat) : Except State (List StorePart × State) :=
  let a := { baseAcc s unit m with isW := true }
  match m.part with
  | .whole | .cut => checkCut s a va v (cutAt m)
  | .low => checkCut s { a with size := lowPart va a.size m.edge } va v (cutAt m)
  | .high => checkHigh s a va v m.edge

/-- The stores of one instruction are checked one after the other. -/
def checkStores (s : State) (unit : BaseFile) : List (BaseMem × W64 × Nat) → Except State (List StorePart × State)
  | [] => .ok ([], s)
  | e :: r =>
    match checkStore s unit e.1 (maskedAddr e.1 e.2.1) e.2.2 with
    | .error t => .error t
    | .ok (l, t) =>
      match checkStores t unit r with
      | .error u => .error u
      | .ok (l', u) => .ok (l ++ l', u)

/-- A load of BaseISA. -/
def loadCut (s : State) (unit : BaseFile) (m : BaseMem) (va : W64) : Except State (Nat × State) :=
  splitLoad s { baseAcc s unit m with isR := true } va (cutAt m)

/-! ### How an instruction ends -/

/-- Where an instruction goes on (R805): a jump's target is checked for its sign, that of an integer branch-class instruction
for its match (R673); the mode stays (R522). -/
def branchTo (s : State) (unit : BaseFile) (f : BaseFlow) (taken : Bool) (t : W64) : Except State (Option W64) :=
  let ra := fldA s.word
  let matched :=
    if decide (unit = .int) && idaHit s t then Except.error (s.raiseTarget ra 34 t) else .ok (some (s.jumpTarget t))
  match f with
  | .next => .ok none
  | .branch c => if !c || taken then matched else .ok none
  | .jump => if canonical t then matched else .error (s.raiseTarget ra 13 t)

/-- What an instruction counts as (R652). -/
def baseEvent (f : BaseFlow) (reads stores : Bool) : EventClass :=
  match f with
  | .branch true => .conditional
  | .branch false => .unconditional
  | .jump => .jump
  | .next => if stores && !reads then .write else if reads then .read else .plain

/-- The end of an instruction whose results are written: ARITH for the traps `bits` with the destination `rd` (R561), else the
transfer, which links to Ra with `link`, else the next instruction. -/
def State.finish (s : State) (e : EventClass) (f : BaseFlow) (link : Bool) (target : Option W64) (rd : BitVec 5) (bits : W64) :
    State :=
  if bits ≠ 0 then ((if f = .next then s else s.unlock).count e).raiseArith rd bits
  else
    match target with
    | some p => s.transfer e (fldA s.word) link p
    | none => ((if f = .next then s else s.unlock).count e).nextPc

/-! ### An instruction by its parts -/

/-- The register number in the five-bit field at `lo`. -/
def fieldAt (s : State) (lo : Nat) : BitVec 5 := s.word.extractLsb' lo 5

/-- A source operand. -/
def baseSource (s : State) (r : BaseReg) : V256 := s.readReg r.file (fieldAt s r.lo)

/-- A floating source. -/
def isFloatReg (r : BaseReg) : Bool := decide (r.file ≠ .int) && decide (r.type = .float)

/-- Some source holds data of the wrong type (R884 item 5, U6). -/
def baseWrong (s : State) (o : BaseOp) : Bool := o.src.any (fun r => mistyped s r.file r.type (fieldAt s r.lo))

/-- The lanes of a source as the instruction takes them: a floating operation flushes a denormal number (R204). -/
def baseOperand (s : State) (o : BaseOp) (r : BaseReg) : V256 :=
  let v := baseSource s r
  let l := fun i => flushed (lane v i)
  if o.elements = 0 || !isFloatReg r then v else ofLanes (l 0) (l 1) (l 2) (l 3)

/-- Element `i` of a floating operation, with `v` its value: as `baseElement`, for any sources. An integer overflow belongs
to a conversion (R562). -/
def baseOpElement (s : State) (o : BaseOp) (src : List V256) (i : Nat) (v : W64) : FpResult :=
  let reads := fun p => o.src.any (fun r => isFloatReg r && p (lane (baseSource s r) i))
  if baseWrong s o then FpResult.free s.fpcr (if o.overflow then 0b1111101#7 else 0b1011101#7) (Config.typeFree s.freeCtr i)
  else if reads isDenormal && denormalMode s.fpcr then { value := 0, den := true }
  else
    let r := FpResult.ofBits (v, Config.baseStatus s.word (s.fpcr &&& fpcrControl) src i)
    { r with inv := r.inv || reads nonFinite, dze := false, ovi := r.ovi && o.overflow }

/-- The value for destination `k`, `m` being what the access read; data of the wrong type leaves all of it free (U6). -/
def baseValue (s : State) (o : BaseOp) (src : List V256) (m k : Nat) : V256 :=
  if baseWrong s o then Config.baseResult (s.freeCtr + 1) s.word 0 src m k
  else
    let v := Config.baseResult 0 s.word (if o.elements = 0 then 0 else s.fpcr &&& fpcrControl) src m k
    let l := fun i =>
      if i < o.elements then elementValue s.freeCtr s.fpcr i (baseOpElement s o src i (lane v i)) else lane v i
    ofLanes (l 0) (l 1) (l 2) (l 3)

/-- What an instruction adds to FPCR, and its traps (R562, R572). An integer overflow goes by ICR where every destination is
an integer register, else by EXC_CTL (D24). -/
def baseTraps (s : State) (o : BaseOp) (src : List V256) (m : Nat) : W64 × W64 :=
  let overflow := o.overflow && Config.baseOverflows s.word src m
  if 0 < o.elements then raisedBits s.fpcr ((List.range o.elements).map (fun i => baseOpElement s o src i 0))
  else if o.dst.all (fun r => decide (r.file = .int)) then (0, if overflow && !s.csr.icr.getLsbD 0 then 0xC0 else 0)
  else raisedBits s.fpcr (if o.overflow then [integerRaised s (baseWrong s o) overflow] else [])

/-- The lanes of a destination that hold integer data: by its type, or those of the sources where it takes either. -/
def baseInts (s : State) (o : BaseOp) (ty : BaseType) : BitVec 4 :=
  match ty with
  | .float => 0
  | .int => 0b1111
  | .any => (o.src.filter (fun r => decide (r.file ≠ .int))).foldl (fun m r => m ||| s.getInts (fieldAt s r.lo)) 0

/-- Write the results, from number `k` on; `s` is the state before the instruction. -/
def baseDests (s : State) (o : BaseOp) (f : Nat → V256) (k : Nat) : List BaseReg → State → State
  | [], t => t
  | r :: l, t => baseDests s o f (k + 1) l (t.writeReg r.file (fieldAt s r.lo) (f k) (baseInts s o r.type))

/-- The target of an instruction by its parts: a branch's displacement, a jump through Rb. -/
def baseTarget (s : State) (o : BaseOp) (src : List V256) : Except State (Option W64) :=
  branchTo s o.unit o.flow (Config.baseGoes s.word src)
    (if o.flow = .jump then s.getX (fldB s.word) else s.branchTarget (fld21 s.word))

/-- The access of an instruction: what it reads. -/
def baseAccess (s : State) (o : BaseOp) (m : BaseMem) (src : List V256) : Except State (Nat × State) :=
  let rb := fldB s.word
  let va := maskedAddr m (if m.short then s.ea12 rb (s.word.extractLsb' 0 12) else s.ea16 rb (fld16 s.word))
  match m.access with
  | .load => loadCut s o.unit m va
  | .store => (checkStore s o.unit m va (Config.baseStored s.word src 0)).map (fun r => (0, r.2.performAll r.1))
  | .atomic => doAtomic s (baseAcc s o.unit m) va (Config.baseStored s.word src)

/-- An instruction of BaseISA by its parts: the target checks, the access, the results and the status bits, then ARITH where
a trap is enabled, the transfer, or the next instruction (R529, R561, R562). A load to R31 or F31 is a prefetch or nothing
(R801). -/
def baseGeneral (s : State) (o : BaseOp) : Host.Outcome State Fault Refusal :=
  decodeStage s true false (baseClass o.unit) (fun s =>
    let src := o.src.map (baseOperand s o)
    let access := fun x => o.mem.any (fun m => decide (m.access = x))
    match baseTarget s o src with
    | .error t => .next t
    | .ok target =>
      if access .load && o.dst.all (fun r => decide (fieldAt s r.lo = 31#5)) then .next (s.retire .read)
      else
        settle (match o.mem with | none => .ok (0, s) | some m => baseAccess s o m src) (fun r =>
          let bits := baseTraps s o src r.1
          let t := baseDests s o (baseValue s o src r.1) 0 o.dst { r.2 with fpcr := s.fpcr ||| bits.1 }
          t.finish (baseEvent o.flow (access .load || access .atomic) (access .store)) o.flow
            (decide (o.flow ≠ .branch true)) target (fieldAt s ((o.dst.map BaseReg.lo).headD 0)) bits.2))

/-! ### An instruction by its acts -/

/-- What an instruction has read: its values, whether one had the wrong type, whether memory was read, and the I/O reads
that are performed when it completes (R256 item 3). -/
structure ActsRead where
  values : List V256 := []
  wrong : Bool := false
  memory : Bool := false
  io : List Output := []
deriving DecidableEq, Repr

/-- The reads of an instruction by its acts, at most `n`. -/
def actReads (unit : BaseFile) : Nat → ActsRead → State → Except State (ActsRead × State)
  | 0, q, s => .ok (q, s)
  | n + 1, q, s =>
    match Config.baseReads s.word q.values with
    | none => .ok (q, s)
    | some (.reg f ty i) =>
      actReads unit n { q with values := q.values ++ [s.readReg f i], wrong := q.wrong || mistyped s f ty i } s
    | some (.mem m va) =>
      match splitRead s { baseAcc s unit m with isR := true } (maskedAddr m va) (cutAt m) q.io.length with
      | .error t => .error t
      | .ok (r, t) =>
        actReads unit n { q with values := q.values ++ [BitVec.ofNat 256 r.1], memory := true, io := q.io ++ r.2 } t

/-- What one element of such an instruction raised: on data of the wrong type each bit on its own (U6), else a Denormal trap
where one is possible, or status bits as R565 to R567 bind them. -/
def actRaised (fpcr : W64) (wrong : Bool) (b : BitVec 7) : FpResult :=
  if wrong then FpResult.free fpcr 0x7F#7 (0, b)
  else if b.getLsbD 6 && denormalMode fpcr then { value := 0, den := true }
  else FpResult.ofBits (0, b.setWidth 6)

/-- The lanes of a register it writes that hold integer data. -/
def writtenInts (w : BaseWrite) : BitVec 4 := if w.type = .int then 0b1111 else 0

/-- An instruction of BaseISA by its acts: its reads, the target check, the checks of its stores, and only then its effects
and its I/O reads, so that a fault leaves no register and no byte changed (R526) and no device read (R256 item 3). On data of the wrong type what it does is free by step (U6). -/
def baseActs (s : State) (unit : BaseFile) (n : Nat) : Host.Outcome State Fault Refusal :=
  decodeStage s true false (baseClass unit) (fun s =>
    match actReads unit n {} s with
    | .error t => .next t
    | .ok (q, t) =>
      let e := (Config.baseEnds (if q.wrong then s.freeCtr + 1 else 0) s.word s.pc (s.fpcr &&& fpcrControl) q.values).getD {}
      match branchTo t unit e.flow e.taken e.target with
      | .error u => .next u
      | .ok target =>
        match checkStores t unit e.stores with
        | .error u => .next u
        | .ok (l, u) =>
          let bits := raisedBits s.fpcr (e.raised.map (actRaised s.fpcr q.wrong))
          let u := u.ioReads q.io
          let u := if e.stores.isEmpty then u else u.performAll l
          let r := e.writes.foldl (fun r w => r.writeReg w.file w.i w.value (writtenInts w)) { u with fpcr := s.fpcr ||| bits.1 }
          .next (r.finish (baseEvent e.flow q.memory (!e.stores.isEmpty)) e.flow false target
            ((e.writes.map BaseWrite.i).headD 31#5)
            (bits.2 ||| (if e.overflow && !s.csr.icr.getLsbD 0 then 0xC0 else 0))))

/-- An instruction of BaseISA, by its shape. -/
def execBase (f : BaseShape) (s : State) : Host.Outcome State Fault Refusal :=
  let ra := fldA s.word
  let rb := fldB s.word
  let rc := fldC s.word
  let ea := s.ea16 rb (fld16 s.word)
  match f with
  | .operate false third => baseOperate s ra rc third (s.getX rb)
  | .operate true third => baseOperate s ra rc third (litOperand (fldLit s.word))
  | .address shift => operate s ra (s.getX rb + ((fld16 s.word).signExtend 64 <<< shift))
  | .load n false => baseLoadX s ra n ea
  | .load n true => floatStage s (fun s => loadF s (loadAcc ra n) ea (Config.baseLoad s.word))
  | .store n false => scalarStore s ra rb (fld16 s.word) n
  | .store n true => floatStage s (fun s => storeV s (storeAcc ra n) ea (Config.baseStore s.word (s.getF ra)))
  | .vecLoad n align elem int => vecLoad s (vecLoadAcc ra n align elem) ea int (Config.baseVecLoad s.word)
  | .vecStore n align elem => vecStore s (vecStoreAcc ra n align elem) ea (Config.baseVecStore s.word (s.getV ra))
  | .condBranch => branchIf s (Config.baseTaken s.word (s.getX ra)) ra (fld21 s.word)
  | .floatBranch => floatBranch s ra (fld21 s.word)
  | .branch => execBsr ra (fld21 s.word) s
  | .float false third => scalarFloat s ra rb rc false (baseElement s false third)
  | .float true third => vectorFloat s ra rb rc (baseElement s true third)
  | .divide false => scalarFloat s ra rb rc false (divideElement s)
  | .divide true => vectorFloat s ra rb rc (divideElement s)
  | .convert fromInt toInt =>
    let ty : BaseType := if fromInt then .int else .float
    scalarFloat s ra rb rc toInt
      (fun _ _ a b => convertElement s fromInt toInt (mistyped s .float ty ra || mistyped s .float ty rb) a b)
  | .vecInteger simd third => vecInteger s simd third ra rb rc
  | .vecMove simd third => vecMove s simd third ra rb rc
  | .offCore prefetch => offCore s prefetch rb (fld16 s.word)
  | .general o => baseGeneral s o
  | .acts unit reads => baseActs s unit reads
  | .hint => plainStage s (fun s => .next (s.retire .nop))

/-- A word that stands for no instruction of the table: an instruction of BaseISA, or OPCDEC (R390, R404). -/
def undecoded (s : State) : Host.Outcome State Fault Refusal :=
  match baseRow s.par s.word with
  | some r => execBase r.shape s
  | none => .next (s.raiseOpcdec false)

end Sys2Proof.Machine
end

