-- ==== Sys2Proof/Machine/ICache.lean ====
section
/-! DEFINITION. The instruction cache (R262–R266): looking a line up, filling one, dropping a set. -/

namespace Sys2Proof.Machine

/-- The instruction-cache set of the pc, PC[12:7] (R262). -/
def State.icSet (s : State) : Fin 64 := (s.pc.extractLsb' 7 6).toFin

/-- A line hits (R263). -/
def icHits (s : State) (l : IcLine) : Bool :=
  let tag := s.pc.extractLsb' 13 40
  decide (l.pm = s.mode) &&
    (if s.mode = 0#2 then decide (l.tag.extractLsb' 0 34 = tag.extractLsb' 0 34)
     else decide (l.tag = tag) && decide (l.vpn = s.csr.vpn)
      && (decide (s.mode = 1#2) || l.ks || decide (l.upn = s.csr.upn)))

/-- The line of a cache the fetch hits. Where two ways hit at once, a KS = 1 line and a KS = 0 line of one page, the spec
does not say which supplies the instruction: the lowest-numbered way does (R62, R266; DESIGN CHOICE, log 41). -/
def icFind (s : State) (cache : Vector IcSet 64) : Option IcLine :=
  match cache[s.icSet].ways.toList.find? (fun o => o.any (icHits s)) with
  | some o => o
  | none => none

/-- The first of the answers that a free choice takes, else the last resort `now`; `n` names the reader. -/
def firstSeen (ctr : Nat) (now : Option IcLine) : Nat → List (Option IcLine) → Option IcLine
  | _, [] => now
  | n, o :: r => if Config.seesOld ctr n then o else firstSeen ctr now (n + 1) r

/-- The line the fetch hits, if any; an IC_FLUSH that no barrier ordered may not be seen yet (R741). -/
def icLookup (s : State) : Option IcLine :=
  let now := icFind s s.icache
  let olds := ((s.unsynced.filter (fun e => decide (e.sync ≠ .readBack))).filterMap CsrWrite.cache).map (icFind s)
  if olds.all (fun o => decide (o = now)) then now else firstSeen s.freeCtr now 200 olds

/-- Invalidate the four ways of one set (R265, R340), also in what a fetch may still see of an IC_FLUSH that no barrier
ordered (R741). -/
def State.icDropSet (s : State) (set : Fin 64) : State :=
  s.mapCaches (fun l => l.set set { l[set] with ways := Vector.replicate 4 none })

/-- The 128 bytes of the line of a memory address. -/
def lineData (s : State) (addr : Nat) : BitVec 1024 := BitVec.ofNat 1024 (readMem s.mem (addr / 128 * 128) 128)

/-- Fill a line from memory (R264): the round-robin way of the set, the parity forced wrong where IS_CTL asks (R112,
R741). -/
def State.icFill (s : State) (pa : PAddr) (ks : Bool) (vpn : BitVec 2) (upn : BitVec 8) (data : BitVec 1024) : State :=
  let l : IcLine :=
    { tag := s.pc.extractLsb' 13 40, vpn := vpn, upn := upn, ks := ks, pm := s.mode
      pline := pa.extractLsb' 7 39, data := data, badTag := s.fillBit 1, badData := s.fillBit 2 }
  let t := s.icache[s.icSet]
  { s with icache := s.icache.set s.icSet { ways := t.ways.set t.ptr.toFin (some l), ptr := t.ptr + 1 } }

/-- The sequential prefetch of 32 instructions (R234): the line `ahead` lines after that of the pc, in the mode of the pc,
where it translates, exists and is not in the cache. When the prefetcher runs is the environment's. -/
def State.icPrefetch (s : State) (ahead : Nat) : State :=
  let u := { s with pc := (s.pc.extractLsb' 7 57 ++ 0#5 ++ s.mode) + BitVec.ofNat 64 (128 * ahead) }
  match translateI u u.pc with
  | .page pa ks vpn upn =>
    if (icFind u u.icache).isNone && decide (memAddr pa / 128 * 128 + 128 ≤ s.par.memSize) then
      { u.icFill pa ks vpn upn (lineData u (memAddr pa)) with pc := s.pc }
    else s
  | _ => s

end Sys2Proof.Machine
end

