-- ==== Sys2Proof/Machine/Inputs.lean ====
section
/-! DEFINITION. What happens at an instruction boundary: the environment's inputs (R333), the clock (R65, R620), the
requests the core sends (R610), the resets (R710–R721). -/

namespace Sys2Proof.Machine

/-! ### The clock -/

/-- The timer fires within `n` cycles (R620). -/
def timerFires (s : State) (n : Nat) : Bool :=
  s.csr.timerCtl.getLsbD 0 && decide (0 < n) && decide (s.csr.timerTh.toNat ≤ s.timer.toNat + n)

/-- `n` core clock cycles: TC (R191), the timer (R620), the cycle event of counter 0 (R652), the age of the I/O write
window, which the time-out or PRB_CTRL closes for good (R152, R174, R243, R244). -/
def State.passCycles (s : State) (n : Nat) : State :=
  let fires := timerFires s n
  let c := s.csr
  let t := { s with
    csr := { c with
      tc := if c.tcCtl.getLsbD 0 then c.tc + BitVec.ofNat 64 n else c.tc
      timerCtl := if fires then clrBit c.timerCtl 0 else c.timerCtl
      raw := orRaw c.raw c.timerVec fires }
    timer := if c.timerCtl.getLsbD 0 then s.timer + BitVec.ofNat 64 n else s.timer
    ioWin := s.ioWin.bind (fun w =>
      if c.mergeOvtime.toNat ≤ w.age + n ∨ (s.dcEn 15 ∧ 1024 ≤ w.age + n) then none else some { w with age := w.age + n }) }
  if c.pc0Sel = 8 then t.addPc0 n else t

/-- `n` units of the HSERR time counter: when it carries at its bit, the window has expired, the error count and the
counter restart (R335). A threshold lowered below the counter makes no carry by itself. -/
def State.passHserr (s : State) (n : Nat) : State :=
  let c := s.csr
  let limit := 2 ^ ((c.hserrTh.extractLsb' 0 6).toNat + (if s.par.carryOut then 1 else 0))
  let on := !c.hserrTh.getLsbD 6
  let t := s.hserrTime.toNat + n
  let carry := on && decide (s.hserrTime.toNat / limit < t / limit)
  { s with
    hserrTime := if carry then BitVec.ofNat 64 (t % limit) else if on then BitVec.ofNat 64 t else s.hserrTime
    csr := { c with hserrCnt := if carry then putField c.hserrCnt 0 (0 : BitVec 32) else c.hserrCnt } }

/-! ### Resets -/

/-- The CSRs after a cold reset (R721): those marked k keep their values. -/
def Csrs.cold (c : Csrs) (p : Params) : Csrs :=
  { Csrs.reset with
    itbTag := c.itbTag, ptbr := c.ptbr, iiEr := c.iiEr, excSum := c.excSum, excPc := c.excPc, isStat := c.isStat
    vptBase := c.vptBase, pc0Cr := c.pc0Cr, pc1Cr := c.pc1Cr, ier := c.ier, dtbTag := c.dtbTag, dtbPcr := c.dtbPcr
    dsStat := c.dsStat, dcStat := c.dcStat, dva := c.dva, scStat := c.scStat, iva := c.iva, cid := c.cid
    tid := c.tid, soft := c.soft, cpCtl := p.cpCtlScan.setWidth 64 }

/-- The CSRs after a wake-up (R721): Table 7-1, TID, SOFTCSR and CP_CTL are kept, those marked u become free. -/
def Csrs.wake (c : Csrs) (f : Nat → W64) : Csrs :=
  { Csrs.reset with
    ii0 := c.ii0, ii1 := c.ii1, iiMail := c.iiMail, excPc := c.excPc, priBase := c.priBase, issueCtl := c.issueCtl
    intVec := c.intVec, raw := c.raw, cpCtl := c.cpCtl, tid := c.tid, soft := c.soft
    itbTag := f 0, ptbr := f 1, iiEr := f 2, excSum := f 3, isStat := f 4, vptBase := f 5, pc0Cr := f 6, pc1Cr := f 7
    ier := f 8 ++ f 9 ++ f 10 ++ f 11, dtbTag := f 12, dtbPcr := f 13, dsStat := f 14, dcStat := f 15, dva := f 16
    scStat := f 17, iva := f 18, cid := f 19 }

/-- A memory image in canonical form (R715: the loaded image over zeroes). -/
def imageOf (l : List Host.Cell) : List Host.Cell := l.foldl (fun m c => memSet m c.1 c.2) []

/-- What every reset does to the state that is no CSR (R720): the registers and the lock address and granularity become
free, the buffers and caches empty, the lock bits 0; `out`, `env`, the parameters, the step counter and what the system
interface holds stay. -/
def State.clearCore (s : State) : State :=
  let f := Config.resetWord s.freeCtr
  { s with
    x := Vector.ofFn (fun i => f (100 + i.val))
    sr := Vector.ofFn (fun i => f (200 + i.val))
    v := Vector.ofFn (fun i => ⟨f (300 + i.val) ++ f (400 + i.val) ++ f (500 + i.val) ++ f (600 + i.val), 0⟩)
    fpcr := f 50
    lock := ⟨false, false, false, (f 700).setWidth 48, (f 701).getLsbD 0, false, 0⟩
    itb := Vector.replicate 32 none
    itbPtr := 0
    dtb := []
    icache := Vector.replicate 64 ⟨Vector.replicate 4 none, 0⟩
    timer := 0
    hserrTime := 0
    power := .running
    ioWin := none
    armedFetch := none
    armedData := none
    unsynced := []
    track := ⟨[], [], [], []⟩
    midWrites := []
    intData := false }

/-- Power-on reset during a run (R711, R715): the state right after reset with the loaded image. Whether the core stays
connected is not stated: it keeps its connection, and INTEN and what is held back are as right after reset (R68; DESIGN
CHOICE, log 68). -/
def State.powerOnReset (s : State) (image : List Host.Cell) : State :=
  { State.reset with
    csr := { Csrs.reset with cpCtl := s.par.cpCtlScan.setWidth 64 }
    mem := imageOf image
    env := s.env, out := s.out, freeCtr := s.freeCtr, online := s.online, par := s.par }

/-- Cold reset (R713, R715, R721). -/
def State.coldReset (s : State) (image : List Host.Cell) : State :=
  { s.clearCore with csr := s.csr.cold s.par, mem := imageOf image, pc := 0x1000 }

/-- A request bit of II0 or II1 (R613). -/
def sourceBit (w : W64) (src : BitVec 4) : W64 := setBit w src.toNat

/-- The system interface hands over the inter-core interrupts of this core to itself that it held back (R610). -/
def State.deliverHeld (s : State) : State :=
  let c := s.csr
  { s with
    csr := { c with
      ii0 := if s.heldIntr.getLsbD 0 then sourceBit c.ii0 s.par.coreId else c.ii0
      ii1 := if s.heldIntr.getLsbD 1 then sourceBit c.ii1 s.par.coreId else c.ii1 }
    heldIntr := 0 }

/-- The end of sleep reset (R630): RESET/WAKEUP at the kept PRI_BASE, in HM; what was held back arrives (R610). -/
def State.wakeReset (s : State) : State :=
  let t := { s.clearCore with csr := s.csr.wake (Config.resetWord s.freeCtr) }
  let u := { t with pc := t.entry 0x1000 }
  if u.inten then u.deliverHeld else u

/-- Entry to deep sleep (R628): every register, every CSR that R716 does not keep, the buffers and the caches lose what they
held. A CSR that each reset sets is not seen before it. -/
def State.enterDeepSleep (s : State) : State :=
  let t := s.loseCaches
  { t.clearCore with
    csr := s.csr.wake (Config.resetWord s.freeCtr), pc := Config.resetWord s.freeCtr 702, power := .deepSleep }

/-! ### Inputs -/

/-- The report of an error to the maintenance interface (R336 items 1c to 1e): R336 names no enable, and the model reports an
error only where SC_CTL[`en`] lets it be found (DESIGN CHOICE, log 42). -/
def State.reportIf (s : State) (en : Nat) : State := if s.scEn en then s.emit .hardwareFault else s

/-- The effect of one input on a core that is not in deep sleep. The prefetcher stands still in shallow sleep (R443, R632). A
multi-bit error in one of the core's own arrays (R344, R345, R347) is reported and leaves the data right: the rules do not
say what it holds (DESIGN CHOICE, log 42). When INTEN becomes 1 what was held back arrives, though the core may have been
disconnected since: R610 does not say (DESIGN CHOICE, log 68). II_MAIL[MAIL_NUM] wraps modulo 64: R102 does not state what
happens past 31 or −32 (R64; DESIGN CHOICE, log 43). -/
def applyAwake (s : State) (i : Input) : State :=
  match i with
  | .cycles n => s.passCycles n
  | .hserrTime n => s.passHserr n
  | .external v => s.request v
  | .interCore0 c => { s with csr := { s.csr with ii0 := sourceBit s.csr.ii0 c } }
  | .interCore1 c => { s with csr := { s.csr with ii1 := sourceBit s.csr.ii1 c } }
  | .mail => { s with csr := { s.csr with iiMail := (s.csr.iiMail + 1) &&& 0x3F } }
  | .mailRead => { s with csr := { s.csr with iiMail := (s.csr.iiMail - 1) &&& 0x3F } }
  | .sleepInt => s.request s.csr.sleepVec
  | .inten b => if b then { s with inten := true }.deliverHeld else { s with inten := false }
  | .online b => { s with online := b }
  | .earlyStore a n v => s.pushEarly a n v
  | .integerData => { s with intData := true }
  | .deepSleep => s.enterDeepSleep
  | .wakeUp => if s.online then { s with power := .running } else s
  | .powerOn image => s.powerOnReset image
  | .coldReset image => s.coldReset image
  | .agentWrite a b => s.agentWrite a b
  | .armWrite w => { s with midWrites := s.midWrites ++ [w] }
  | .iPrefetch n => if s.power = .running then s.icPrefetch n else s
  | .lineLost => { s with lock := { s.lock with line := false } }
  | .itbEvict k => { s with itb := s.itb.set k none }
  | .dtbEvict n => { s with dtb := s.dtb.eraseIdx n }
  | .dtbParity n => if s.dcEn 17 && s.dtb[n]?.any (fun e => decide (e.gh = 0)) then { s with dtb := s.dtb.eraseIdx n } else s
  | .icTagParity k => ((s.flagIs 3).icDropSet k).countCorrected
  | .icDataParity k => ((s.flagIs 4).icDropSet k).countCorrected
  | .icCopyParity k => (s.sboxCorrected 19 30).icDropSet k
  | .armFetch e => { s with armedFetch := some e }
  | .armData e => { s with armedData := some e }
  | .rmwSingle => s.rmwSingle
  | .rmwMulti => s.rmwMulti
  | .dvicSingle => s.sboxCorrected 9 4
  | .dvicMulti => s.sboxMulti 9 5
  | .stagSingle => s.sboxCorrected 8 0
  | .stagMulti => s.sboxMulti 8 1
  | .scDataSingle replay =>
    let t := s.sboxCorrected 9 2
    if replay then { t with csr := { t.csr with dsStat := orBit t.csr.dsStat 17 (t.flagStays 0x48) } } else t
  | .scDataMulti => s.sboxMulti 9 3
  | .sysReqError => (s.sboxCheck 17 13).reportIf 17
  | .sysAckError => (s.sboxCheck 15 10).reportIf 15
  | .sysDataSingle => s.sboxCorrected 16 11
  | .sysDataMulti line => (s.sboxMulti 16 12).corruptLine line
  | .writeAddrError k => s.writeAddrError k
  | .writeControlError k => if s.scEn 14 then s.sboxCheck 13 k.controlBit else s
  | .writeEccError k => s.sboxCheck 13 (k.controlBit + 1)
  | .robError => (s.flagIs 2).machineCheck.emit .hardwareFault
  | .probeError => if s.dcEn 8 then (s.flagDc 1).machineCheck else s
  | .sboxControl n =>
    let t := s.sboxCheck 18 (14 + n.val)
    if n ∈ [0, 1, 2, 5] then t.reportIf 18 else t
  | .cacheState => (s.sboxCheck 10 6).reportIf 10
  | .csrIssueError => s.emit .hardwareFault

/-- The effect of one input. In deep sleep the core answers only a wake-up and the resets (R629); memory still changes, and
so does what the interfaces hold of the core. A wake-up reaches a connected core only (R612, R630). -/
def applyInput (s : State) (i : Input) : State :=
  if s.power = .deepSleep then
    match i with
    | .wakeUp => if s.online then s.wakeReset else s
    | .powerOn image => s.powerOnReset image
    | .coldReset image => s.coldReset image
    | .agentWrite a b => { s with mem := memSet s.mem a b }
    | .inten b => { s with inten := b }
    | .online b => { s with online := b }
    | _ => s
  else applyAwake s i

/-! ### The boundary -/

/-- What a request of type `kind` from this core to itself does (R610–R612): with INTEN = 0 the system interface holds an
inter-core interrupt back and loses a sleep interrupt; a wake-up to a core that is awake does nothing. To a core that is
disconnected an inter-core interrupt is lost and a software fault is reported, and the rest is lost too (R610, R611). -/
def State.selfRequest (s : State) (kind : BitVec 2) : State :=
  if !s.online then (if kind.getLsbD 1 then s else s.emit .softwareFault)
  else
  match kind with
  | 0b00#2 => let t := { s with heldIntr := s.heldIntr ||| 1 }; if s.inten then t.deliverHeld else t
  | 0b01#2 => let t := { s with heldIntr := s.heldIntr ||| 2 }; if s.inten then t.deliverHeld else t
  | 0b10#2 => if s.inten then s.request s.csr.sleepVec else s
  | _ => s

/-- Send the request INT_REQ holds and clear Valid (R172, R610–R612). -/
def State.sendIntReq (s : State) : State :=
  let r := s.csr.intReq
  if r.getLsbD 25 then
    let t := { s with csr := { s.csr with intReq := clrBit r 25 } }.emit
      (.interrupt (r.extractLsb' 23 2) (r.extractLsb' 0 16))
    if r.getLsbD s.par.coreId.toNat then t.selfRequest (r.extractLsb' 23 2) else t
  else s

/-- A selector of counter 1 with no event (R653). -/
def reservedSel (n : Nat) : Bool :=
  decide (n = 0x19) || decide (n = 0x35) || decide (n = 0x2F) || (decide (0x20 ≤ n) && decide (n ≤ 0x24))
    || decide (0x38 ≤ n)

/-- The implementation-dependent events of one step (D27): selectors 0x3–0xF of counter 0 but the cycles, and every
selector of counter 1. With a reserved selector the count is free (U26) and no overflow is requested: the spec does not say
whether such a counter overflows (DESIGN CHOICE, log 31). -/
def State.environmentEvents (s : State) : State :=
  let n := s.csr.pc0Sel
  let t := if 3 ≤ n ∧ n ≠ 8 then s.addPc0 (Config.events s.freeCtr 0) else s
  if reservedSel t.csr.pc1Sel then
    if t.counting 15 then
      { t with csr := { t.csr with pc1Cr := putField t.csr.pc1Cr 0 (Config.reservedCount t.freeCtr) } }
    else t
  else t.addPc1 (Config.events t.freeCtr 1)

/-- The inputs of this boundary: the script's, or free amounts of time when it is empty (log 19). -/
def State.inputs (s : State) : List Input :=
  match s.env with
  | [] => [.cycles (Config.cycles s.freeCtr), .hserrTime (Config.hserrUnits s.freeCtr)]
  | l :: _ => l

/-- The writes of other agents that no vector access of the last step met land (R256). -/
def State.landWrites (s : State) : State :=
  { s.midWrites.foldl (fun t w => t.agentWrite w.addr w.byte) s with midWrites := [] }

/-- The lock sequence is one instruction longer (R755). -/
def State.lockStep (s : State) : State :=
  { s with lock := { s.lock with steps := s.lock.steps + (if s.power = .running then 1 else 0) } }

/-- The step counter advances, unordered CSR writes age (R740), the lock sequence too. -/
def State.nextStep (s : State) : State :=
  let t := s.landWrites.lockStep
  { t with env := t.env.tail, freeCtr := t.freeCtr + 1, unsynced := ageWrites t.unsynced, intData := false }

/-- One instruction boundary: the inputs apply in order, then the core's own request leaves. One that has not left when the
core enters deep sleep is lost: the spec does not say when it leaves (DESIGN CHOICE, log 33). -/
def boundary (s : State) : State :=
  let t := s.inputs.foldl applyInput s.nextStep
  if t.power = .deepSleep then t else t.environmentEvents.sendIntReq

/-! ### Interrupts (R606) -/

/-- The pending, enabled vectors but for the machine check and the sleep interrupt. -/
def Csrs.generalRequests (c : Csrs) : BitVec 256 :=
  c.raw &&& c.ier &&& ~~~(BitVec.twoPow 256 c.mchkVec.toNat) &&& ~~~(BitVec.twoPow 256 c.sleepVec.toNat)

/-- An inter-core interrupt or a mail is pending and enabled (R606). -/
def Csrs.interCorePending (c : Csrs) : Bool :=
  (c.iiEr.getLsbD 0 && decide (c.ii0 &&& 0xFFFF ≠ 0)) || (c.iiEr.getLsbD 1 && decide (c.ii1 &&& 0xFFFF ≠ 0))
    || (c.iiEr.getLsbD 2 && decide (0 < (c.iiMail.extractLsb' 0 6).toInt))

/-- The entry of the interrupt to take, by priority (R606, R607): none in HM. A write of the interrupt registers that no
barrier ordered may not be seen yet (R745). -/
def pendingEntry (s : State) : Option (BitVec 16) :=
  let c := s.interruptView
  if s.inHm then none
  else if c.candidate c.mchkVec then some 0xF80
  else if c.candidate c.sleepVec then some 0xF00
  else if c.generalRequests ≠ 0 then some 0xE80
  else if c.interCorePending then some 0xE00
  else none

end Sys2Proof.Machine
end

