-- ==== Sys2Proof/Machine/Fetch.lean ====
section
/-! DEFINITION. Fetching an instruction: the instruction cache (R262–R266), TranslateI, the responses (R352–R355). -/

namespace Sys2Proof.Machine

/-- Parity of the set: a wrong tag in any valid way or in the way that hits, wrong data in the way that hits (R340). A parity error sets its
flag, drops the four ways and is counted; the fetch then misses. With both wrong only TAG_PAR is recorded and one error
counted: the spec is silent (DESIGN CHOICE, log 42). -/
def State.checkParity (s : State) : State :=
  let badTag := s.icache[s.icSet].ways.toList.any (fun o => o.any (·.badTag)) || (icLookup s).any (·.badTag)
  let badData := (icLookup s).any (·.badData)
  if badTag then ((s.flagIs 3).icDropSet s.icSet).countCorrected
  else if badData then ((s.flagIs 4).icDropSet s.icSet).countCorrected
  else s

/-- The aligned group of four instructions at PC[6:4] of a line (R757). -/
def groupOf (data : BitVec 1024) (pc : W64) : BitVec 128 := data.extractLsb' (128 * (pc.extractLsb' 4 3).toNat) 128

/-- A failed fetch that takes no machine check runs the substitute SYS_CALL/b of function 0xBB (R355): SR23 gets the
failing pc and its mode; in HM it is a no-operation. -/
def substitute (s : State) : State :=
  if s.inHm then s.retire .nop
  else { s.setSr23 (sext53 s.pc) with lock := { s.lock with valid := false }, pc := sysCallEntry s 0xBB }

/-- A bad response to a fetch (R352–R354): the flag, the machine-check request, then the entry or the substitute. -/
def badFetch (s : State) (bit : Nat) : State :=
  let t := (s.flagIs bit).machineCheck
  if t.takesMachineCheck then t.interrupt 0xF80 else substitute t

/-- Latch the group of the pc from memory (R757). -/
def State.latch (s : State) (addr : Nat) : State := { s with fgroup := groupOf (lineData s addr) s.pc }

/-- The fill for a fetch enters the level-2 cache: not in non-cacheable space (R235), never with SC_CTL[IS_FILL_CTL] = 1, and
with 0 only where it evicts nothing from the data cache, which is a free choice (R170, R234). -/
def State.fillsLevel2 (s : State) (pa : PAddr) : Bool :=
  !pa.getLsbD 46 && !s.scEn 12 && Config.instrFillKept s.freeCtr

/-- A response with a multi-bit ECC error to a fetch (R351, R354, R356): its wrong data stays in the level-2 cache where the
fill enters it, and the instruction cache is not filled (R264). With SYSDAT_ERR_EN = 1 it is recorded and forwarded, and
EXC_PC takes the virtual address whether or not a machine check is taken. With 0 nothing is recorded and the wrong data is
executed. -/
def eccFetch (s : State) (pa : PAddr) : Except State State :=
  let line := memAddr pa / 128
  let t := if s.fillsLevel2 pa then s.corruptLine line else s
  if s.scEn 16 then
    let u := t.sboxMulti 16 12
    .error (badFetch { u with csr := { u.csr with excPc := sext53 s.pc } } 5)
  else .ok { t with fgroup := groupOf (BitVec.ofNat 1024 (wrongBytes s.freeCtr (128 * line) 128)) s.pc }

/-- Read a line from memory (R230, R352–R354): an address beyond memory, or an error the environment armed, fails. -/
def fetchMemory (s : State) (pa : PAddr) (ks : Bool) (vpn : BitVec 2) (upn : BitVec 8) : Except State State :=
  let addr := memAddr pa
  let t := { s with armedFetch := none }
  if s.par.memSize < addr / 4 * 4 + 4 then .error (badFetch t 1)
  else
    match s.armedFetch with
    | some .control => if s.scEn 14 then .error (badFetch t 0) else .ok (t.latch addr)
    | some .multiEcc => eccFetch t pa
    | none => .ok ((t.latch addr).icFill pa ks vpn upn (lineData t addr))

/-- One fetch (R301, R529 steps 1 and 2): the state with the group latched, or the state after what the fetch ran
into. -/
def fetch (s0 : State) : Except State State :=
  let s := s0.checkParity
  match icLookup s with
  | some l => .ok { s with fgroup := groupOf l.data s.pc }
  | none =>
    match translateI s s.pc with
    | .miss => .error (s.raiseItbMiss s.pc)
    | .denied => .error s.raiseIacv
    | .page pa ks vpn upn => fetchMemory s pa ks vpn upn

end Sys2Proof.Machine
end

