-- ==== Sys2Proof/Machine/Step.lean ====
section
/-! DEFINITION. One step of the machine: the boundary, an interrupt or one instruction. -/

namespace Sys2Proof.Machine

/-- Decode the fetched word and execute it; a word outside the opcode table is BaseISA's or raises OPCDEC (R390, R404). -/
def runWord (s : State) : Host.Outcome State Fault Refusal :=
  match decodeFetched s.par s.word with
  | .ok i => exec i s
  | .error _ => undecoded s

/-- Fetch and run one instruction. -/
def runInstr (s : State) : Host.Outcome State Fault Refusal :=
  match fetch s with
  | .ok t => runWord t
  | .error t => .next t

/-- What a core does after the boundary: nothing in deep sleep; in shallow sleep only an interrupt wakes it (R632); else
an interrupt (R606) or the next instruction. -/
def afterBoundary (s : State) : Host.Outcome State Fault Refusal :=
  match s.power with
  | .deepSleep => .next s
  | .shallowSleep =>
    match pendingEntry s with
    | some off => .next ({ s with power := .running }.interrupt off)
    | none => .next s
  | .running =>
    match pendingEntry s with
    | some off => .next (s.interrupt off)
    | none => runInstr s

/-- One step. -/
def step (s : State) : Host.Outcome State Fault Refusal := afterBoundary (boundary s)

/-- `s` with an instruction's word where the next fetch finds it: at the physical address of the pc without its mode
bits, with the instruction-cache set of the pc empty, and no older cache in view, so that the fetch goes to memory
(log 20). -/
def State.withFetchWord (s : State) (nbits w : Nat) : State :=
  match translateI s s.pc with
  | .page pa _ _ _ =>
    { s.icDropSet s.icSet with
      mem := writeMem s.mem (memAddr pa / 4 * 4) 4 (w % 2 ^ nbits)
      unsynced := s.unsynced.filter (fun e => e.cache.isNone) }
  | _ => s

end Sys2Proof.Machine
end

