-- ==== Sys2Proof/Safety.lean ====
section
/-! DEFINITION. The terms of the claims: which CSR writes a program has ordered (Appendix A, R740–R753), when an
instruction is let through, and what an instruction leaves unchanged. -/

namespace Sys2Proof.Machine

/-! ### Programs that keep the duties of Appendix A -/

/-- No write of the CSR waits for a barrier: its implicit readers see what it holds, and hardware sets its flags (R740,
R750). -/
def settledCsr (s : State) (idx : BitVec 8) : Prop := ∀ e ∈ s.unsynced, e.idx ≠ idx

/-- The CSRs whose effect on the interrupt logic needs a barrier before the return (R745). -/
def interruptCsr (i : BitVec 8) : Bool :=
  match csrName i with
  | .intClr _ | .ier _ | .iiClr | .iiEr => true
  | _ => false

/-- The same of all the interrupt registers. -/
def settledInterrupts (s : State) : Prop := ∀ e ∈ s.unsynced, interruptCsr e.idx = false

/-- A step is safe when it does not end in a refusal. -/
def stepsOn (s : State) : Prop := ∃ t, step s = .next t

/-! ### When an instruction is let through -/

/-- The decode stage lets the instruction through (R529 steps 3–5): it is implemented, IA_MATCH does not match, the
floating unit is enabled for its class. -/
def ready (s : State) (f : FpClass) : Prop :=
  unimplemented s = false ∧ iaHit s = false ∧ fpEnabled s.csr f = true

/-- The instruction is legal where it stands (R552 causes 3–7 and 9): a SYS_CALL whose function its mode may call (R411), HALT
outside HM or where the parameter haltInHM takes it for a no-operation (C16), RD_F and the lock stores in their slots (R460),
the privileged instructions in HM (R418), the evicts that CP_CTL enables (R553), every other instruction always. -/
def legalHere (s : State) (i : Instr) : Bool :=
  match i with
  | .sysCall fn | .sysCallB fn => sysCallLegal s fn
  | .halt => decide (s.mode ≠ 0#2) || !s.par.haltInHmIsOpcdec
  | .rdF ra => decide (ra = 31#5) || rdFPaired s
  | .lstw _ _ _ | .lstl _ _ _ => lstPaired s
  | .priRcsr _ _ | .priWcsr _ _ | .priRet _ | .priRetB _ | .priLdwP _ _ _ | .priLdlP _ _ _ | .priLdwIncP _ _ _
  | .priLdlIncP _ _ _ | .priLdwDecP _ _ _ | .priLdlDecP _ _ _ | .priLdwSetP _ _ _ | .priLdlSetP _ _ _ | .priLdwV _ _ _
  | .priLdlV _ _ _ | .priLdwVpte _ _ _ | .priLdlVpte _ _ _ | .priStwP _ _ _ | .priStlP _ _ _ | .priStwV _ _ _
  | .priStlV _ _ _ => decide (s.mode = 0#2)
  | .evictdg _ _ => s.csr.cpCtl.getLsbD 4
  | .flushd _ _ | .evictdl _ _ => s.csr.cpCtl.getLsbD 3
  | _ => true

/-- Every check of R529 but the debug matches lets a data access to `va` through, at the physical address `pa`; a read
meets no byte that R245 leaves unordered, a non-cacheable store was not seen before its time, and no other agent writes inside
a vector access (R256). -/
structure partOk (s : State) (a : Acc) (va : W64) (pa : PAddr) : Prop where
  canon : a.form = .phys ∨ canonical va = true
  aligned : va.toNat % a.align = 0
  maps : translateD s a.form a.isR a.isW va = .page pa
  legal : a.typeIllegal pa = false
  noError : s.armedData = none
  notForced : s.par.fpga = false
  platform : platformOk s (a.base pa) (a.isW && !a.isR) a.size = true
  ordered : a.isR = true → isIo pa = false → noRace s (a.uncached pa) (memAddr (a.base pa)) a.size = true
  timely : a.isW = true → isIo pa = false → a.cached pa = false →
    s.track.hasEarly (memAddr (a.base pa)) a.size = false
  alone : a.size ≤ 8 ∨ s.midWrites = []

/-- Every check of R529 lets a data access to `va` through, at the physical address `pa`. -/
structure accessOk (s : State) (a : Acc) (va : W64) (pa : PAddr) : Prop extends partOk s a va pa where
  quiet : matchPhase s a va pa = .ok ()

/-! ### The memory instructions as lists -/

/-- The scalar memory instructions of every mode that make an access, each with its effective address, the bytes it
accesses, which are also the alignment it is checked for (R226; the NC forms D21), and the write flag it records, `none`
for an atomic (U24). Left out: the loads to R31 or F31 that make no access (R801, log 11), the lock stores where their
pairing is illegal (R460), the floating forms where UPCR disables them (R541). -/
def scalarAccesses (s : State) (ra rb : BitVec 5) (d : BitVec 16) (e : BitVec 12) :
    List (Instr × W64 × Nat × Option Bool) :=
  let a := s.ea16 rb d
  let b := s.ea12 rb e
  let r := some false
  let w := some true
  [(.stb ra rb d, a, 1, w), (.sth ra rb d, a, 2, w), (.stw ra rb d, a, 4, w), (.stl ra rb d, a, 8, w),
    (.stwNc ra rb e, b, 4, w), (.stlNc ra rb e, b, 8, w), (.lldw ra rb e, b, 4, r), (.lldl ra rb e, b, 8, r),
    (.ldwInc ra rb e, b, 4, none), (.ldlInc ra rb e, b, 8, none), (.ldwDec ra rb e, b, 4, none),
    (.ldlDec ra rb e, b, 8, none), (.ldwSet ra rb e, b, 4, none), (.ldlSet ra rb e, b, 8, none)] ++
  (if ra = 31#5 then [] else
    [(.ldbu ra rb d, a, 1, r), (.ldhu ra rb d, a, 2, r), (.ldw ra rb d, a, 4, r), (.ldl ra rb d, a, 8, r),
      (.ldlU ra rb d, if s.par.ldlUChecksAlignment then a else a &&& ~~~7, 8, r), (.ldwNc ra rb e, b, 4, r),
      (.ldlNc ra rb e, b, 8, r)]) ++
  (if lstPaired s then [(.lstw ra rb e, b, 4, w), (.lstl ra rb e, b, 8, w)] else []) ++
  (if fpEnabled s.csr .scalar then
    [(.fsts ra rb d, a, 4, w), (.fstd ra rb d, a, 8, w), (.stdNc ra rb e, b, 8, w)] else []) ++
  (if fpEnabled s.csr .scalar ∧ ra ≠ 31#5 then
    [(.flds ra rb d, a, 4, r), (.fldd ra rb d, a, 8, r), (.lddNc ra rb e, b, 8, r)] else [])

/-- The vector memory instructions that make an access at `s.ea16 rb d`, each with the alignment it is checked for, the
size of its element where a misaligned access may set SIMD_MV, else 0, and the write flag (R226, R544; the NC forms
D21). -/
def vectorAccesses (fa rb : BitVec 5) (d : BitVec 16) : List (Instr × Nat × Nat × Bool) :=
  [(.vstdNc fa rb d, 32, 8, true), (.vstd fa rb d, 32, 8, true), (.vsts fa rb d, 16, 4, true),
    (.vstwUl fa rb d, 4, 0, true), (.vstwUh fa rb d, 4, 0, true), (.vstsUl fa rb d, 4, 0, true),
    (.vstsUh fa rb d, 4, 0, true), (.vstdUl fa rb d, 8, 0, true), (.vstdUh fa rb d, 8, 0, true)] ++
  (if fa = 31#5 then [] else
    [(.vlddNc fa rb d, 32, 8, false), (.vldd fa rb d, 32, 8, false), (.vlds fa rb d, 16, 4, false),
      (.ldwe fa rb d, 4, 0, false), (.ldse fa rb d, 4, 0, false), (.ldde fa rb d, 8, 0, false),
      (.vldwU fa rb d, 4, 0, false), (.vldsU fa rb d, 4, 0, false), (.vlddU fa rb d, 8, 0, false)])

/-! ### What an instruction leaves unchanged -/

/-- Every byte of memory reads as before. -/
def sameMem (s t : State) : Prop := ∀ a, memGet t.mem a = memGet s.mem a

/-- Every byte of memory outside the `n` bytes at `lo` reads as before. -/
def sameMemOutside (s t : State) (lo n : Nat) : Prop := ∀ a, a < lo ∨ lo + n ≤ a → memGet t.mem a = memGet s.mem a

/-- The instruction retires and the next in sequence follows: of the CSRs only event counter 0 and the request it may
raise can change, as `State.count` says (R38, R651, R652). -/
def retires (s t : State) (e : EventClass) : Prop := t.pc = s.pc + 4 ∧ t.csr = (s.count e).csr

/-- Of the integer and the system registers only the one `rd` names (R33) changes; it then reads `w`, or 0 for R31. -/
def writesOnlyX (s t : State) (rd : BitVec 5) (w : W64) : Prop :=
  t.getX rd = (if rd = 31#5 then 0 else w) ∧ (∀ j, j ≠ rd → t.getX j = s.getX j) ∧
  match s.shadow rd with
  | some k => t.x = s.x ∧ ∀ j : Fin 10, j ≠ k → t.sr[j] = s.sr[j]
  | none => t.sr = s.sr ∧ ∀ j : Fin 31, j.val ≠ rd.toNat → t.x[j] = s.x[j]

/-- Of the vector registers only `fd` changes; its low 64 bits then read `w`, or 0 for F31 (R41: the rest is free). -/
def writesOnlyF (s t : State) (fd : BitVec 5) (w : W64) : Prop :=
  t.getF fd = (if fd = 31#5 then 0 else w) ∧ ∀ j : Fin 31, j.val ≠ fd.toNat → t.v[j] = s.v[j]

/-- Of the vector registers only `fd` changes; its lanes then read `l`, or 0 for V31. -/
def writesOnlyV (s t : State) (fd : BitVec 5) (l : Fin 4 → W64) : Prop :=
  (∀ i : Fin 4, lane (t.getV fd) i.val = (if fd = 31#5 then 0 else l i)) ∧
    ∀ j : Fin 31, j.val ≠ fd.toNat → t.v[j] = s.v[j]

/-- The instruction changes nothing but the pc and its count. -/
def resultNone (s t : State) (e : EventClass) : Prop :=
  retires s t e ∧ sameMem s t ∧ t = { s with pc := t.pc, csr := t.csr }

/-- The instruction writes `w` to the integer register `rd` and changes nothing else but the pc and its count. -/
def resultX (s t : State) (e : EventClass) (rd : BitVec 5) (w : W64) : Prop :=
  writesOnlyX s t rd w ∧ retires s t e ∧ sameMem s t ∧ t = { s with pc := t.pc, x := t.x, sr := t.sr, csr := t.csr }

/-- The instruction writes `w` to the floating register `fd` and changes nothing else but the pc and its count. -/
def resultF (s t : State) (e : EventClass) (fd : BitVec 5) (w : W64) : Prop :=
  writesOnlyF s t fd w ∧ retires s t e ∧ sameMem s t ∧ t = { s with pc := t.pc, v := t.v, csr := t.csr }

/-- The instruction writes the lanes `l` to the vector register `fd` and changes nothing else but the pc and its
count. -/
def resultV (s t : State) (e : EventClass) (fd : BitVec 5) (l : Fin 4 → W64) : Prop :=
  writesOnlyV s t fd l ∧ retires s t e ∧ sameMem s t ∧ t = { s with pc := t.pc, v := t.v, csr := t.csr }

/-- The instruction stores bytes only inside the `n` bytes at `lo`; beside them only the pc, its count, the model's own
record of the store (R245, U34) and the instruction cache change, and the cache, and what a fetch may still see of it
before an IC_FLUSH, only as `State.store` lets its coherence drop lines (R234). -/
def storesOnly (s t : State) (lo n : Nat) : Prop :=
  sameMemOutside s t lo n ∧ retires s t .write ∧ t.icache = (s.store lo n 0).icache ∧
  t.unsynced = (s.store lo n 0).unsynced ∧
  t = { s with
    pc := t.pc, csr := t.csr, mem := t.mem, icache := t.icache, unsynced := t.unsynced, track := t.track }

/-- The low `n` bytes of `v` are stored at `lo`, little-endian (R224), and nothing else changes. -/
def resultStore (s t : State) (lo n v : Nat) : Prop :=
  readMem t.mem lo n = v % 2 ^ (8 * n) ∧ storesOnly s t lo n

/-- The entry sequence of a fault (R526): the pc is the entry's, EXC_PC the pc of the instruction, lock_valid is clear;
nothing but these and the CSRs in which hardware records an exception changes. -/
def faultsTo (s t : State) (off : BitVec 16) : Prop :=
  t.csr.excPc = sext53 s.pc ∧
  t = { s with
    pc := s.entry off
    lock := { s.lock with valid := false }
    csr := { s.csr with
      excPc := t.csr.excPc, excSum := t.csr.excSum, iglInst := t.csr.iglInst, iva := t.csr.iva, dva := t.csr.dva
      dsStat := t.csr.dsStat } }

/-- EXC_SUM holds a REG field and the bits `b` (R107, R575). -/
def excSumIs (s : State) (reg : BitVec 5) (b : W64) : Prop := s.csr.excSum = (reg.setWidth 64 <<< 8) ||| b

/-- A data exception recorded the instruction in DS_STAT: its opcode, and its write flag where that is not free (R149,
R545, U24). -/
def recordsAccess (s t : State) (wr : Option Bool) : Prop :=
  t.csr.dsStat.extractLsb' 4 6 = s.opcode ∧ ∀ b, wr = some b → t.csr.dsStat.getLsbD 0 = b

/-- DS_STAT holds the flags `flags` beside OPCODE, WR, DA_MATCH and DV_MATCH: the last two may be set by an erratum of
R680 (U28). -/
def dsFlagsAre (t : State) (flags : W64) : Prop := t.csr.dsStat &&& ~~~(0x823F1 : W64) = flags &&& ~~~(0x823F1 : W64)

/-- IVA and IGL_INST keep what they held: the exception records nothing in them. -/
def keepsFetchRecords (s t : State) : Prop := t.csr.iva = s.csr.iva ∧ t.csr.iglInst = s.csr.iglInst

/-- Two CSR files agree in everything software configures: they differ at most in what hardware records while a program
runs (the exception registers, the status flags, the pending requests, the event counters). -/
def sameControl (c d : Csrs) : Prop :=
  d = { c with
    excPc := d.excPc, excSum := d.excSum, iglInst := d.iglInst, iva := d.iva, dva := d.dva, dsStat := d.dsStat
    isStat := d.isStat, dcStat := d.dcStat, scStat := d.scStat, hserrCnt := d.hserrCnt, raw := d.raw
    pc0Cr := d.pc0Cr, pc1Cr := d.pc1Cr }

/-- The offsets of the exception entries (R524). -/
def exceptionOffsets : List (BitVec 16) :=
  [0x800, 0x880, 0x900, 0x980, 0xA00, 0xA80, 0xB00, 0xB80, 0xC80, 0xD00, 0xD80, 0xF80]

/-! ### The invariant -/

/-- No two valid ITB entries could both be hit by one fetch (R282). -/
def itbUnique (t : Vector (Option ItbEntry) 32) : Prop :=
  ∀ i j : Fin 32, i ≠ j → ∀ a b, t[i] = some a → t[j] = some b → itbConflict a b = false

/-- What every step keeps: memory in its canonical form, no two conflicting ITB entries (R282), a DTB no larger than its
two levels (R285). -/
def StateInv (s : State) : Prop := Memory.wf s.mem = true ∧ itbUnique s.itb ∧ s.dtb.length ≤ 608

end Sys2Proof.Machine
end

