-- ==== Sys2Proof/Certificates/Slice0/Obligations.lean ====
section
/-! DEFINITION. The statements for the provers: what the rules of spec/ say that an instruction or the machine does. A
log number names the row of notes/assumptions/ that declares a choice of the model; D, U and C numbers are the
decisions, the undefined cases and the conflicts of spec/. -/

open Sys2Proof Sys2Proof.Machine

/-! ### Encoding -/

/-- The conventional decoder reads back every word the conventional encoder writes, with every operand at every value,
also from the four bytes of the word followed by others (30_encoding.md section 5; log 9: the table is PRESUMED). -/
def Obligations.DecodeEncode : Prop :=
  ∀ (i : Instr) (w : BitVec 32), encode i = some w →
    decodeWord w = .ok i ∧ ∀ rest, decode (bytesOfWord w ++ rest) = .ok (i, rest)

/-- Some words written out from the encoding tables decode to what they stand for (log 9: all but a few of the tables are
PRESUMED). -/
def Obligations.DecodedWords : Prop :=
  decodeWord 0x02000080 = .ok (.sysCall 0x80) ∧ decodeWord 0x183FFE10 = .ok (.priRcsr 1 0x10) ∧
  decodeWord 0x187FFF20 = .ok (.priWcsr 3 0x20) ∧ decodeWord 0x1EF00000 = .ok (.priRetB 23) ∧
  decodeWord 0x94221010 = .ok (.priLdlP 1 2 0x010) ∧ decodeWord 0x40430003 = .ok (.addw 2 3 3) ∧
  decodeWord 0x8C220008 = .ok (.ldl 1 2 8) ∧ decodeWord 0xC03FFFFF = .ok (.beq 1 0x1FFFFF) ∧
  decodeWord 0x20229004 = .ok (.lstl 1 2 4) ∧ decodeWord 0x60430023 = .ok (.faddd 2 3 3)

/-- A word that stands for no instruction, neither of the table nor of BaseISA's rows, raises OPCDEC: the word is recorded
with LOCK_IGL = 0 (R390, R552). The rows of BaseISA that R404 names beside the table run: BR links and branches as BSR
does, STL_U stores as STL does, and LDIH adds the displacement shifted left (which words they are and what they do is
PRESUMED, log 65). -/
def Obligations.ReservedWordRaisesOpcdec : Prop :=
  (∀ (s : State) (e : DecodeError), decodeFetched s.par s.word = .error e →
     (∀ r ∈ s.par.base, s.word &&& r.mask ≠ r.value) →
     ∃ t, runWord s = .next t ∧ faultsTo s t 0xD80 ∧ t.csr.iglInst = 0#32 ++ s.word ∧
       (∃ r, excSumIs t r 0) ∧ t.csr.dsStat = s.csr.dsStat ∧ t.csr.dva = s.csr.dva ∧ t.csr.iva = s.csr.iva) ∧
  (∀ s : State, s.par.base = baseRows → s.par.extEnc = [] →
     (s.opcode = 0x04 → runWord s = exec (.bsr (fldA s.word) (fld21 s.word)) s) ∧
     (s.opcode = 0x2C → runWord s = exec (.stl (fldA s.word) (fldB s.word) (fld16 s.word)) s) ∧
     (s.opcode = 0x3F → ready s .none → ∃ t, runWord s = .next t ∧
       resultX s t .plain (fldA s.word) (s.getX (fldB s.word) + ((fld16 s.word).signExtend 64 <<< 16))))

/-! ### The step -/

/-- A step runs the decoded instruction: the boundary, the fetch, then `exec` on the fetched state (the order of R529; log
43: interrupts are taken at boundaries). A word that BaseISA's rows name, an unprivileged one that no row of the opcode
table with a word of its own takes, runs that row's shape (R404, R800; log 65: such rows are asked before the
PRESUMED table). -/
def Obligations.StepRunsDecoded : Prop :=
  ∀ s t : State, (boundary s).power = .running → pendingEntry (boundary s) = none → fetch (boundary s) = .ok t →
    (∀ i : Instr, decodeFetched t.par t.word = .ok i → step s = exec i t) ∧
    (∀ r : BaseRow, (∀ e ∈ t.par.extEnc, e.1 ≠ t.word) → baseRow t.par t.word = some r →
      r ∈ t.par.base ∧ t.word &&& r.mask = r.value ∧ step s = execBase r.shape t)

/-- Where a fetch takes its word: on an instruction-cache miss from memory at the address TranslateI gives, on a hit
from the line's own bytes, asking neither the ITB nor memory. Nothing else changes but the latched group and, on a
miss, the instruction cache (R263, R264, R300, R301, R380). A fetch that meets a response with a multi-bit ECC error, with
SYSDAT_ERR_EN = 0, fills no instruction cache; with SC_CTL[IS_FILL_CTL] = 1 its wrong line enters no level-2 cache either,
so that only the latched word is wrong (R170, R264, R356). -/
def Obligations.FetchedWord : Prop :=
  (∀ (s : State) (pa : PAddr) (ks : Bool) (vpn : BitVec 2) (upn : BitVec 8),
     s.icache[s.icSet].ways = Vector.replicate 4 none → (∀ e ∈ s.unsynced, e.cache = none) → s.armedFetch = none →
     translateI s s.pc = .page pa ks vpn upn → memAddr pa / 4 * 4 + 4 ≤ s.par.memSize →
     (memAddr pa) % 128 = s.pc.toNat % 128 →
     ∃ t, fetch s = .ok t ∧ t.word = BitVec.ofNat 32 (readMem s.mem (memAddr pa / 4 * 4) 4) ∧
       t = { s with fgroup := t.fgroup, icache := t.icache }) ∧
  (∀ (s : State) (pa : PAddr) (ks : Bool) (vpn : BitVec 2) (upn : BitVec 8),
     s.icache[s.icSet].ways = Vector.replicate 4 none → (∀ e ∈ s.unsynced, e.cache = none) →
     s.armedFetch = some .multiEcc → translateI s s.pc = .page pa ks vpn upn → memAddr pa / 4 * 4 + 4 ≤ s.par.memSize →
     s.csr.scCtl.getLsbD 16 = false → s.csr.scCtl.getLsbD 12 = true →
     ∃ t, fetch s = .ok t ∧ t = { s with armedFetch := none, fgroup := t.fgroup }) ∧
  (∀ (s : State) (l : IcLine), icLookup s = some l →
     (∀ w : Fin 4, ∀ x, (s.icache[s.icSet]).ways[w] = some x → x.badTag = false) → l.badTag = false → l.badData = false →
     ∃ t, fetch s = .ok t ∧ t = { s with fgroup := t.fgroup } ∧
       t.fgroup = l.data.extractLsb' (128 * ((s.pc.toNat / 16) % 8)) 128)

/-- A step whose fetch misses the instruction cache and is refused. With no ITB entry of the current process for the page
it enters ITB_MISS_0 or ITB_MISS_1 by bit 52 of the address; where every entry that hits forbids the mode it enters IACV
with EXC_SUM[BAD_IVA, IA_MATCH, IDA_MATCH] = 0. EXC_PC is the address that could not be fetched, DS_STAT, DVA, IVA and
IGL_INST keep what they held, EXC_SUM[REG] is some value, no instruction runs (R300 steps 2 to 5 and 7, R281, R533, R534,
R550 case 1). -/
def Obligations.FetchMisses : Prop :=
  ∀ s u : State, u = boundary s → u.power = .running → pendingEntry u = none →
    u.icache[u.icSet].ways = Vector.replicate 4 none → (∀ e ∈ u.unsynced, e.cache = none) →
    u.mode ≠ 0#2 → (u.mode = 1#2 → u.pc.getLsbD 52 = true) →
    let hits : ItbEntry → Prop := fun e =>
      e.va >>> (5 * e.gh.toNat) = u.pc.extractLsb' 13 40 >>> (5 * e.gh.toNat) ∧
      e.vpn = u.csr.vpcr.extractLsb' 44 2 ∧ (e.ks = true ∨ e.upn = u.csr.upcr.extractLsb' 39 8)
    let allows : ItbEntry → Prop := fun e =>
      (u.mode = 1#2 ∧ e.vee = true) ∨ (u.mode = 2#2 ∧ e.kee = true) ∨ (u.mode = 3#2 ∧ e.uee = true)
    let records : State → Prop := fun t =>
      (∃ r, excSumIs t r 0) ∧ keepsFetchRecords u t ∧ t.csr.dsStat = u.csr.dsStat ∧ t.csr.dva = u.csr.dva
    ((∀ (k : Fin 32) e, u.itb[k] = some e → ¬hits e) →
      ∃ t, step s = .next t ∧ faultsTo u t (if u.pc.getLsbD 52 then 0xA00 else 0x980) ∧ records t) ∧
    ((∃ (k : Fin 32) (e : ItbEntry), u.itb[k] = some e ∧ hits e) →
      (∀ (k : Fin 32) e, u.itb[k] = some e → hits e → ¬allows e) →
      ∃ t, step s = .next t ∧ faultsTo u t 0xD00 ∧ records t)

/-- Interrupts at a boundary (R606, R607). Which entry, where no write of the interrupt registers waits for a barrier
(R745): none in HM, else the highest of MCHK, SLEEP, INTERRUPT1 and INTERRUPT0 whose request is pending and enabled. What
the entry does: EXC_PC saves the pc and mode of the instruction not yet executed, lock_valid is cleared (D9), the pc goes
to the entry in HM, EXC_SUM[REG] becomes some value and nothing else changes. -/
def Obligations.InterruptEntries : Prop :=
  (∀ s : State, settledInterrupts s →
     let on : Nat → Prop := fun n => s.csr.raw.getLsbD n = true ∧ s.csr.ier.getLsbD n = true
     let mchk := on s.csr.mchkVec.toNat
     let sleep := on s.csr.sleepVec.toNat
     let int1 := ∃ n, n < 256 ∧ n ≠ s.csr.mchkVec.toNat ∧ n ≠ s.csr.sleepVec.toNat ∧ on n
     let int0 := (s.csr.iiEr.getLsbD 0 = true ∧ s.csr.ii0.extractLsb' 0 16 ≠ 0) ∨
       (s.csr.iiEr.getLsbD 1 = true ∧ s.csr.ii1.extractLsb' 0 16 ≠ 0) ∨
       (s.csr.iiEr.getLsbD 2 = true ∧ 0 < (s.csr.iiMail.extractLsb' 0 6).toInt)
     (s.mode = 0#2 → pendingEntry s = none) ∧
     (s.mode ≠ 0#2 → mchk → pendingEntry s = some 0xF80) ∧
     (s.mode ≠ 0#2 → ¬mchk → sleep → pendingEntry s = some 0xF00) ∧
     (s.mode ≠ 0#2 → ¬mchk → ¬sleep → int1 → pendingEntry s = some 0xE80) ∧
     (s.mode ≠ 0#2 → ¬mchk → ¬sleep → ¬int1 → int0 → pendingEntry s = some 0xE00) ∧
     (s.mode ≠ 0#2 → ¬mchk → ¬sleep → ¬int1 → ¬int0 → pendingEntry s = none)) ∧
  (∀ (s : State) (off : BitVec 16), s.power = .running → pendingEntry s = some off →
     ∃ (t : State) (r : BitVec 5), afterBoundary s = .next t ∧ t.mode = 0#2 ∧
       t = { s with
         pc := 0#17 ++ s.csr.priBase.extractLsb' 16 31 ++ off
         lock := { s.lock with valid := false }
         csr := { s.csr with excPc := sext53 s.pc, excSum := (s.csr.excSum &&& ~~~(0x1F00 : W64)) ||| (r.setWidth 64 <<< 8) } })

/-! ### Memory -/

/-- Memory: what is written is read back, little-endian, and every other byte reads as before (R224); two memories in
canonical form that read the same at every address are the same data (the model's own form, log 8). -/
def Obligations.MemoryLaws : Prop :=
  (∀ (m : List Host.Cell) (a n v : Nat), Memory.wf m = true →
     readMem (writeMem m a n v) a n = v % 2 ^ (8 * n) ∧
     (∀ j, j < n → memGet (writeMem m a n v) (a + j) = BitVec.ofNat 8 (v / 2 ^ (8 * j))) ∧
     ∀ x, x < a ∨ a + n ≤ x → memGet (writeMem m a n v) x = memGet m x) ∧
  (∀ m m' : List Host.Cell, Memory.wf m = true → Memory.wf m' = true → (∀ a, memGet m a = memGet m' a) → m = m')

/-! ### Whole-machine rules -/

/-- Every step that answers a next state keeps the invariant: canonical memory, no two conflicting ITB entries (R282),
a DTB no larger than its two levels (R285). -/
def Obligations.InvariantKept : Prop :=
  ∀ s t : State, StateInv s → step s = .next t → StateInv t

/-- The invariant holds right after reset. -/
def Obligations.InvariantAtReset : Prop :=
  StateInv State.reset

/-- The mode changes in three ways only: an instruction keeps it, enters HM at an exception entry or a SYS_CALL entry,
or is a PRI_RET or PRI_RET/b in HM, which alone leaves HM and loads the pc, mode bits included, from a register (R522;
R521 and R523 for the rest). -/
def Obligations.ModeChanges : Prop :=
  ∀ (s t : State) (i : Instr), exec i s = .next t →
    t.mode = s.mode ∨
    (t.mode = 0#2 ∧ ((∃ off ∈ exceptionOffsets, t.pc = s.entry off) ∨
      ∃ fn, (i = .sysCall fn ∨ i = .sysCallB fn) ∧ t.pc = sysCallEntry s fn)) ∨
    (s.mode = 0#2 ∧ ∃ ra, (i = .priRet ra ∨ i = .priRetB ra) ∧ t.pc = s.getX ra)

/-- Outside HM no instruction changes the translation buffers, a CSR that software configures, or a system register
but SR23, which a SYS_CALL writes (R33, R34, R417, R418, R526). -/
def Obligations.ControlStateProtected : Prop :=
  ∀ (s t : State) (i : Instr), s.mode ≠ 0#2 → exec i s = .next t →
    t.itb = s.itb ∧ t.itbPtr = s.itbPtr ∧ t.dtb = s.dtb ∧ sameControl s.csr t.csr ∧
    (∀ k : Fin 10, k ≠ 9 → t.sr[k] = s.sr[k]) ∧
    ((∀ fn, i ≠ .sysCall fn ∧ i ≠ .sysCallB fn) → t.sr = s.sr)

/-! ### Registers -/

/-- The register files. The integer register view of R33: in HM with IS_CTL[SRE] = 1 the ten names R1, R2, R4–R7, R20–R23
are the system registers, in this order those of the field `sr`, and their ordinary registers cannot be named and keep
their values; every other name, mode and setting reaches the ordinary registers, once an IMEMB has ordered the last write
of IS_CTL (R742). A write to one integer register name is read back under that name and no other name changes; R31 reads 0
and drops the write (R31; log 11 for the dropped write). A scalar floating write reaches the low 64 bits of one register
and no other register, a vector write all 256 bits, V31 reads 0 (R40, R41, log 11). -/
def Obligations.RegisterFiles : Prop :=
  (∀ (s : State) (w : W64), settledCsr s 0x11 →
     (s.mode = 0#2 → s.csr.isCtl.getLsbD 0 = true →
       ∀ p ∈ [(1#5, (0 : Fin 10)), (2#5, 1), (4#5, 2), (5#5, 3), (6#5, 4), (7#5, 5), (20#5, 6), (21#5, 7), (22#5, 8), (23#5, 9)],
         s.getX p.1 = s.sr[p.2] ∧ (s.setX p.1 w).sr = s.sr.set p.2 w ∧ (s.setX p.1 w).x = s.x) ∧
     (∀ i : BitVec 5,
       i ∉ [1#5, 2#5, 4#5, 5#5, 6#5, 7#5, 20#5, 21#5, 22#5, 23#5] ∨ s.mode ≠ 0#2 ∨ s.csr.isCtl.getLsbD 0 = false →
       (s.setX i w).sr = s.sr ∧ s.getX i = (s.x[i.toNat]?).getD 0 ∧
       (∀ h : i.toNat < 31, (s.setX i w).x = s.x.set i.toNat w) ∧ (i = 31#5 → (s.setX i w).x = s.x ∧ s.getX i = 0))) ∧
  (∀ (s : State) (w : W64) (i : BitVec 5), writesOnlyX s (s.setX i w) i w) ∧
  (∀ (s : State) (w : W64) (u : V256) (i : BitVec 5) (b : Bool) (ints : BitVec 4),
     writesOnlyF s (s.setF i w b) i w ∧
     (i ≠ 31#5 → (s.setV i u ints).getV i = u) ∧ (∀ j, j ≠ i → (s.setV i u ints).getV j = s.getV j) ∧ s.getV 31#5 = 0)

/-! ### Exceptions of the decode stage -/

/-- Every privileged instruction outside HM raises OPCDEC with its word in IGL_INST, whatever its operands (R418). -/
def Obligations.PrivilegedOutsideHm : Prop :=
  ∀ (s : State) (ra rb : BitVec 5) (d : BitVec 12) (idx : BitVec 8), s.mode ≠ 0#2 →
    ∀ i ∈ [Instr.priRcsr ra idx, .priWcsr ra idx, .priRet ra, .priRetB ra,
        .priLdwP ra rb d, .priLdlP ra rb d, .priLdwIncP ra rb d, .priLdlIncP ra rb d, .priLdwDecP ra rb d,
        .priLdlDecP ra rb d, .priLdwSetP ra rb d, .priLdlSetP ra rb d, .priLdwV ra rb d, .priLdlV ra rb d,
        .priLdwVpte ra rb d, .priLdlVpte ra rb d, .priStwP ra rb d, .priStlP ra rb d, .priStwV ra rb d,
        .priStlV ra rb d],
      ∃ t, exec i s = .next t ∧ faultsTo s t 0xD80 ∧ t.csr.iglInst = 0#32 ++ s.word ∧ (∃ r, excSumIs t r 0) ∧
        t.csr.dsStat = s.csr.dsStat ∧ t.csr.dva = s.csr.dva ∧ t.csr.iva = s.csr.iva

/-- A floating instruction with FPE or FCE off, and a SIMD instruction with FPE, FCE or SCE off, raises FEN with its
word in IGL_INST and LOCK_IGL = 0 (R541). Of the instructions whose destination is F31 or V31 only FLDS and FLDD are
exempt (D31); that the others, which discard their result, still raise FEN is the model's choice (log 47: a discarded
destination makes no no-operation of them). FIMOVx and IFMOVx raise it for FPE and FCE where the parameter of log 17 says
that they need them. -/
def Obligations.FloatingDisabled : Prop :=
  ∀ (s : State) (fa fb fc rb : BitVec 5) (d : BitVec 16) (e : BitVec 12) (l : BitVec 8) (w : MoveWidth),
    unimplemented s = false → iaHit s = false →
    (∀ i ∈ [Instr.faddd fa fb fc, .rfpcr fa, .wfpcr fa, .setfpec0, .setfpec1, .setfpec2, .setfpec3, .fsts fa rb d,
        .fstd fa rb d, .lddNc fa rb e, .stdNc fa rb e] ++ (if fa = 31#5 then [] else [.flds fa rb d, .fldd fa rb d]) ++
        (if s.par.fpMovesNeedFpe then [.fimov w fa rb, .ifmov w rb fa] else []),
      s.csr.upcr.getLsbD 1 = false ∨ s.csr.upcr.getLsbD 0 = false →
      ∃ t, exec i s = .next t ∧ faultsTo s t 0xA80 ∧ t.csr.iglInst = 0#32 ++ s.word ∧ (∃ r, excSumIs t r 0)) ∧
    (∀ i ∈ [Instr.vaddd fa fb fc, .vinsf fa fb l fc, .vinsw fa fb l fc, .vcpyf fa fc, .vextf fa l fc, .vextw fa l fc,
        .vlddNc fa rb d, .vstdNc fa rb d, .vlds fa rb d, .vldd fa rb d, .ldwe fa rb d, .ldse fa rb d, .ldde fa rb d,
        .vldwU fa rb d, .vldsU fa rb d, .vlddU fa rb d, .vsts fa rb d, .vstd fa rb d, .vstwUl fa rb d, .vstwUh fa rb d,
        .vstsUl fa rb d, .vstsUh fa rb d, .vstdUl fa rb d, .vstdUh fa rb d],
      s.csr.upcr.getLsbD 1 = false ∨ s.csr.upcr.getLsbD 0 = false ∨ s.csr.upcr.getLsbD 2 = false →
      ∃ t, exec i s = .next t ∧ faultsTo s t 0xA80 ∧ t.csr.iglInst = 0#32 ++ s.word ∧ (∃ r, excSumIs t r 0))

/-- An instruction whose address and mode, UPN and VPN match IA_MATCH under IA_MASK does not execute: IACV with
EXC_SUM[IA_MATCH] and its word, in every mode (R672), where no write of IA_MATCH or IA_MASK waits for a barrier (R744);
for every instruction that is legal where it stands, as an illegal one raises OPCDEC first (R529). -/
def Obligations.AddressMatchStops : Prop :=
  ∀ (s : State) (i : Instr), legalHere s i = true → unimplemented s = false → settledCsr s 0x1A → settledCsr s 0x1B →
    s.csr.iaMatch.getLsbD 63 = true →
    (∀ n, n < 53 → s.csr.iaMask.getLsbD n = true → s.csr.iaMatch.getLsbD n = s.pc.getLsbD n) →
    (∀ n, n < 8 → s.csr.iaMask.getLsbD (53 + n) = true →
      s.csr.iaMatch.getLsbD (53 + n) = s.csr.upcr.getLsbD (39 + n)) →
    (∀ n, n < 2 → s.csr.iaMask.getLsbD (61 + n) = true →
      s.csr.iaMatch.getLsbD (61 + n) = s.csr.vpcr.getLsbD (44 + n)) →
    ∃ t, exec i s = .next t ∧ faultsTo s t 0xD00 ∧ t.csr.iglInst = 0#32 ++ s.word ∧
      ∃ r, excSumIs t r (BitVec.twoPow 64 33)

/-- EVICTDG is illegal with CP_CTL[EGB] = 0, EVICTDL and FLUSHD with CP_CTL[ELB] = 0: OPCDEC in every mode, before any
address is formed. Software cannot write CP_CTL; the configuration CP_CTL_SCAN gives it its value, 0x1C by default
(R553). -/
def Obligations.EvictsDisabled : Prop :=
  ∀ (s : State) (rb : BitVec 5) (d : BitVec 16),
    (s.csr.cpCtl.getLsbD 4 = false → ∃ t, exec (.evictdg rb d) s = .next t ∧ faultsTo s t 0xD80 ∧
      t.csr.iglInst = 0#32 ++ s.word ∧ ∃ r, excSumIs t r 0) ∧
    (s.csr.cpCtl.getLsbD 3 = false → ∀ i ∈ [Instr.evictdl rb d, .flushd rb d],
      ∃ t, exec i s = .next t ∧ faultsTo s t 0xD80 ∧ t.csr.iglInst = 0#32 ++ s.word ∧ ∃ r, excSumIs t r 0) ∧
    (∀ w, writeCsr s 0x83 w = .ok s) ∧ State.reset.csr.cpCtl = 0x1C ∧
    ∀ m, (s.coldReset m).csr.cpCtl = s.par.cpCtlScan.setWidth 64 ∧ (s.powerOnReset m).csr.cpCtl = s.par.cpCtlScan.setWidth 64

/-! ### Integer and control instructions -/

/-- The integer operate instructions and LDI, in both forms: the result in Rc (or Ra), and nothing else changes (R863,
R866–R872; log 12: the operations are general knowledge). -/
def Obligations.IntegerOperate : Prop :=
  ∀ (s : State) (ra rb rc : BitVec 5) (lit : BitVec 8) (d : BitVec 16), ready s .none →
    let a := s.getX ra
    let b := s.getX rb
    let l : W64 := lit.setWidth 64
    (∃ t, exec (.addw ra rb rc) s = .next t ∧ resultX s t .plain rc (((a + b).setWidth 32).signExtend 64)) ∧
    (∃ t, exec (.addwLit ra lit rc) s = .next t ∧ resultX s t .plain rc (((a + l).setWidth 32).signExtend 64)) ∧
    (∃ t, exec (.mulw ra rb rc) s = .next t ∧ resultX s t .plain rc (((a * b).setWidth 32).signExtend 64)) ∧
    (∃ t, exec (.mulwLit ra lit rc) s = .next t ∧ resultX s t .plain rc (((a * l).setWidth 32).signExtend 64)) ∧
    (∃ t, exec (.mull ra rb rc) s = .next t ∧ resultX s t .plain rc (a * b)) ∧
    (∃ t, exec (.mullLit ra lit rc) s = .next t ∧ resultX s t .plain rc (a * l)) ∧
    (∃ t, exec (.umulh ra rb rc) s = .next t ∧
      resultX s t .plain rc ((a.setWidth 128 * b.setWidth 128).extractLsb' 64 64)) ∧
    (∃ t, exec (.umulhLit ra lit rc) s = .next t ∧
      resultX s t .plain rc ((a.setWidth 128 * l.setWidth 128).extractLsb' 64 64)) ∧
    (∃ t, exec (.cmpeq ra rb rc) s = .next t ∧ resultX s t .plain rc (if a = b then 1 else 0)) ∧
    (∃ t, exec (.cmpeqLit ra lit rc) s = .next t ∧ resultX s t .plain rc (if a = l then 1 else 0)) ∧
    (∃ t, exec (.bis ra rb rc) s = .next t ∧ resultX s t .plain rc (a ||| b)) ∧
    (∃ t, exec (.bisLit ra lit rc) s = .next t ∧ resultX s t .plain rc (a ||| l)) ∧
    (∃ t, exec (.xor ra rb rc) s = .next t ∧ resultX s t .plain rc (a ^^^ b)) ∧
    (∃ t, exec (.xorLit ra lit rc) s = .next t ∧ resultX s t .plain rc (a ^^^ l)) ∧
    (∃ t, exec (.ldi ra rb d) s = .next t ∧ resultX s t .plain ra (b + d.signExtend 64))

/-- BEQ and BNE: taken, the pc goes to pc + 4 + 4·disp in the same mode; not taken, to pc + 4; no register changes and
lock_valid is cleared either way (R805, R806, R807, R455). The condition and the target are PRESUMED (log 12), and that
a branch not taken clears lock_valid too is decision D9. -/
def Obligations.ConditionalBranches : Prop :=
  ∀ (s : State) (ra : BitVec 5) (d : BitVec 21) (i : Instr) (taken : Prop), ready s .none →
    (i = .beq ra d ∧ (taken ↔ s.getX ra = 0)) ∨ (i = .bne ra d ∧ (taken ↔ s.getX ra ≠ 0)) →
    (taken → idaHit s (s.pc + 4 + 4 * d.signExtend 64) = false) →
    ∃ t, exec i s = .next t ∧ t.mode = s.mode ∧ (taken → t.pc = s.pc + 4 + 4 * d.signExtend 64) ∧
      (¬taken → t.pc = s.pc + 4) ∧ sameMem s t ∧
      t = { s with pc := t.pc, csr := (s.count .conditional).csr, lock := { s.lock with valid := false } }

/-- BSR, CALL, RET, JMP and JSR: the link register takes pc + 4, the pc goes to the target in the same mode, and
nothing else changes but lock_valid (R805, R808–R812). The link write and the target are PRESUMED (log 12); lock_valid is
cleared by R455 item 2 with decision D9. -/
def Obligations.JumpsAndLinks : Prop :=
  ∀ (s : State) (ra rb : BitVec 5) (d : BitVec 21) (h : BitVec 16), ready s .none →
    let frame : State → EventClass → Prop := fun t e =>
      writesOnlyX s t ra (s.pc + 4) ∧ t.mode = s.mode ∧ sameMem s t ∧
      t = { s with
        pc := t.pc, x := t.x, sr := t.sr, csr := (s.count e).csr, lock := { s.lock with valid := false } }
    (idaHit s (s.pc + 4 + 4 * d.signExtend 64) = false →
      ∃ t, exec (.bsr ra d) s = .next t ∧ t.pc = s.pc + 4 + 4 * d.signExtend 64 ∧ frame t .unconditional) ∧
    (canonical (s.getX rb) = true → idaHit s (s.getX rb) = false →
      (∃ t, exec (.call ra rb h) s = .next t ∧ t.pc = (s.getX rb).extractLsb' 2 62 ++ s.mode ∧ frame t .call) ∧
      (∃ t, exec (.ret ra rb h) s = .next t ∧ t.pc = (s.getX rb).extractLsb' 2 62 ++ s.mode ∧ frame t .ret) ∧
      (∃ t, exec (.jmp ra rb h) s = .next t ∧ t.pc = (s.getX rb).extractLsb' 2 62 ++ s.mode ∧ frame t .jump) ∧
      (∃ t, exec (.jsr ra rb) s = .next t ∧ t.pc = (s.getX rb).extractLsb' 2 62 ++ s.mode ∧ frame t .call))

/-- The checks of a target. A jump whose target has bits [63:53] that are not copies of bit 52 raises IACV with
EXC_SUM[BAD_IVA], REG = Ra and IVA = the target, and its link register is not written (R550 case 3, R805 item 2). A
branch taken or a jump whose target matches IDA_MATCH under IDA_MASK raises IACV with EXC_SUM[IDA_MATCH], REG = Ra and
IVA = the target (R550 case 4, R673; that a branch not taken is not matched is D20). How a target is formed is PRESUMED
(log 12); that IVA keeps the target's two mode bits, for a jump those of Rb, is DEDUCED (log 48). -/
def Obligations.JumpTargetChecks : Prop :=
  (∀ (s : State) (ra rb : BitVec 5) (h : BitVec 16), ready s .none →
     s.getX rb ≠ ((s.getX rb).setWidth 53).signExtend 64 →
     ∀ i ∈ [Instr.call ra rb h, .ret ra rb h, .jmp ra rb h, .jsr ra rb],
       ∃ t, exec i s = .next t ∧ faultsTo s t 0xD00 ∧ t.csr.iva = s.getX rb ∧ excSumIs t ra (BitVec.twoPow 64 13) ∧
         t.csr.iglInst = s.csr.iglInst ∧ t.csr.dsStat = s.csr.dsStat ∧ t.csr.dva = s.csr.dva) ∧
  (∀ (s : State) (ra rb : BitVec 5) (d : BitVec 21) (h : BitVec 16), ready s .none →
     let tgt := s.pc + 4 + 4 * d.signExtend 64
     (idaHit s tgt = true →
       ∀ i, (i = Instr.bsr ra d ∨ (i = .beq ra d ∧ s.getX ra = 0) ∨ (i = .bne ra d ∧ s.getX ra ≠ 0)) →
         ∃ t, exec i s = .next t ∧ faultsTo s t 0xD00 ∧ excSumIs t ra (BitVec.twoPow 64 34) ∧ t.csr.iva = tgt) ∧
     (canonical (s.getX rb) = true → idaHit s (s.getX rb) = true →
       ∀ i ∈ [Instr.call ra rb h, .ret ra rb h, .jmp ra rb h, .jsr ra rb],
         ∃ t, exec i s = .next t ∧ faultsTo s t 0xD00 ∧ excSumIs t ra (BitVec.twoPow 64 34) ∧ t.csr.iva = s.getX rb))

/-- A legal SYS_CALL outside HM enters HM at the function's entry with the return address and the mode in SR23; no
other register, CSR or byte of memory changes; in HM it is a no-operation (R411, R412, R34). That the return address is
pc + 4 is the model's choice (log 56, D16), and so is the cleared lock_valid (D9). -/
def Obligations.SysCallEnters : Prop :=
  ∀ (s : State) (fn : BitVec 25) (i : Instr), ready s .none → i = .sysCall fn ∨ i = .sysCallB fn →
    (s.mode = 0#2 → fn.toNat < 256 → ∃ t, exec i s = .next t ∧ resultNone s t .nop) ∧
    (s.mode ≠ 0#2 →
      (0x80 ≤ fn.toNat ∧ fn.toNat < 0xC0) ∨ (fn.toNat < 0x40 ∧ (s.mode = 2#2 ∨ s.mode = 1#2)) ∨
        (0x40 ≤ fn.toNat ∧ fn.toNat < 0x80 ∧ s.mode = 1#2) →
      ∃ t, exec i s = .next t ∧ t.mode = 0#2 ∧ sameMem s t ∧ t.pc = sysCallEntry s fn ∧
        t.sr = s.sr.set 9 (sext53 (s.pc + 4)) ∧
        t = { s with
          pc := t.pc, sr := t.sr, csr := (s.count .plain).csr, lock := { s.lock with valid := false } })

/-- The entry of a SYS_CALL function: PRI_BASE[46:16], the level's block of 0x2000 bytes and 0x80 bytes a function
(R412, R525). -/
def Obligations.SysCallEntryAddress : Prop :=
  ∀ (s : State) (fn : BitVec 25),
    (fn.toNat < 0x40 → (sysCallEntry s fn).toNat = (s.csr.priBase.extractLsb' 16 31).toNat * 2 ^ 16 + 0x4000 + 0x80 * fn.toNat) ∧
    (0x40 ≤ fn.toNat → fn.toNat < 0x80 →
      (sysCallEntry s fn).toNat = (s.csr.priBase.extractLsb' 16 31).toNat * 2 ^ 16 + 0x2000 + 0x80 * (fn.toNat - 0x40)) ∧
    (0x80 ≤ fn.toNat → fn.toNat < 0xC0 →
      (sysCallEntry s fn).toNat = (s.csr.priBase.extractLsb' 16 31).toNat * 2 ^ 16 + 0x6000 + 0x80 * (fn.toNat - 0x80))

/-- An illegal SYS_CALL raises OPCDEC: function bits [24:8] not all 0 in every mode, functions 0xC0–0xFF outside HM,
kernel functions in UM, virtual-machine functions in UM and KM (R411). -/
def Obligations.IllegalSysCall : Prop :=
  ∀ (s : State) (fn : BitVec 25) (i : Instr), i = .sysCall fn ∨ i = .sysCallB fn →
    256 ≤ fn.toNat ∨ (s.mode ≠ 0#2 ∧ ((0xC0 ≤ fn.toNat) ∨ (fn.toNat < 0x40 ∧ s.mode = 3#2) ∨
      (0x40 ≤ fn.toNat ∧ fn.toNat < 0x80 ∧ s.mode ≠ 1#2))) →
    ∃ t, exec i s = .next t ∧ faultsTo s t 0xD80 ∧ t.csr.iglInst = 0#32 ++ s.word ∧ (∃ r, excSumIs t r 0)

/-- MEMB closes the I/O write window and tells the outside of the barrier only with CP_CTL[MB] = 1. It orders every
earlier access (R250): memory is then what `State.settleRaces` makes of it. A byte that no late non-cacheable store
covers keeps its value; any other keeps it or takes what one of the unordered stores since the last MEMB stored there
(R245, D10; that treatment, and that one seen early that never came is forgotten, is the model's choice, log 58; memory is in the model's canonical form). With
SC_CTL[IC_COH_EN] = 0 the instruction cache keeps its lines. That MEMB also separates a clear of a status register from
the flags hardware sets later is DEDUCED (log 70). IMEMB makes every CSR write synchronised, NOP does nothing (R440,
R441, R392, R173). RTC, RCID and RTID read TC, CID with the hard-wired core number and TID, in every mode (R446, R447,
R448; their operand forms are general knowledge, log 14). -/
def Obligations.BarriersAndReads : Prop :=
  (∀ s : State, ready s .none →
     (∃ t, exec .memb s = .next t ∧ retires s t .nop ∧
       t.mem = s.settleRaces.mem ∧ t.icache = s.settleRaces.icache ∧ t.unsynced = s.settleRaces.noteMemb.unsynced ∧
       (Memory.wf s.mem = true → ∀ a, (∀ e ∈ s.track.late, e.byte a = none) → memGet t.mem a = memGet s.mem a) ∧
       (Memory.wf s.mem = true → ∀ a, memGet t.mem a = memGet s.mem a ∨ (∃ e ∈ s.track.late, e.byte a = some (memGet t.mem a)) ∨
         ∃ e ∈ s.track.stream, e.kind ≠ .early ∧ e.byte a = some (memGet t.mem a)) ∧
       (s.csr.scCtl.getLsbD 20 = false → t.icache = s.icache) ∧
       t = { s with
         pc := t.pc, csr := t.csr, ioWin := none, mem := t.mem, icache := t.icache, unsynced := t.unsynced
         track := ⟨[], [], [], s.track.dirty⟩
         out := if s.csr.cpCtl.getLsbD 5 then .barrier (s.csr.scCtl.getLsbD 11) :: s.out else s.out }) ∧
     (∃ t, exec .imemb s = .next t ∧ retires s t .plain ∧ sameMem s t ∧
       t = { s with pc := t.pc, csr := t.csr, unsynced := [] }) ∧
     (∃ t, exec .nop s = .next t ∧ resultNone s t .nop)) ∧
  (∀ (s : State) (ra rb : BitVec 5), ready s .none →
     (∃ t, exec (.rtc ra rb) s = .next t ∧ resultX s t .plain ra s.csr.tc) ∧
     (∃ t, exec (.rcid ra) s = .next t ∧
       resultX s t .plain ra (s.csr.cid.extractLsb' 8 56 ++ 0#4 ++ s.par.coreId)) ∧
     (∃ t, exec (.rtid ra) s = .next t ∧ resultX s t .plain ra s.csr.tid))

/-- HALT outside HM retires and puts the core into shallow sleep, which keeps every register and lasts until an
interrupt request is pending and enabled; it is then taken with EXC_PC = the address after the HALT (R443, R632, D17).
The sleeping core does not prefetch. In HM HALT raises OPCDEC, or is a no-operation where the parameter haltInHM says so
(conflict C16). A core in deep sleep executes nothing (R629). -/
def Obligations.HaltAndSleep : Prop :=
  (∀ s : State, ready s .none →
     (s.mode ≠ 0#2 → ∃ t, exec .halt s = .next t ∧ retires s t .plain ∧ sameMem s t ∧
       t = { s with pc := t.pc, csr := t.csr, power := .shallowSleep }) ∧
     (s.mode = 0#2 → s.par.haltInHmIsOpcdec = true →
       ∃ t, exec .halt s = .next t ∧ faultsTo s t 0xD80 ∧ t.csr.iglInst = 0#32 ++ s.word) ∧
     (s.mode = 0#2 → s.par.haltInHmIsOpcdec = false → ∃ t, exec .halt s = .next t ∧ resultNone s t .nop)) ∧
  (∀ s : State,
     (s.power = .deepSleep → afterBoundary s = .next s) ∧
     (s.power = .shallowSleep → pendingEntry s = none → afterBoundary s = .next s) ∧
     (∀ n, s.power = .shallowSleep → applyInput s (.iPrefetch n) = s) ∧
     (∀ off, s.power = .shallowSleep → pendingEntry s = some off →
       ∃ t, afterBoundary s = .next t ∧ t.power = .running ∧ t.pc = s.entry off ∧ t.csr.excPc = sext53 s.pc ∧
         t.x = s.x ∧ t.sr = s.sr ∧ t.v = s.v ∧ sameMem s t))

/-! ### CSRs -/

/-- PRI_RCSR in HM reads one CSR into Ra and changes nothing else; it orders the write of that CSR before it, for the
readers outside HM (R416, R741, R744). IVA_FORM reads as bits [52:49] of VPT_BASE, sign-extended, over six copies of
EXC_PC[52], EXC_PC[52:13] and three zeroes (R96), DVA_FORM as the same of DS_CTL and DVA (R159). -/
def Obligations.CsrRead : Prop :=
  (∀ s : State, ∀ p ∈ [(0x07#8, 0x17#8, 0x0E#8), (0x4F, 0x49, 0x4E)],
    let w := readCsr s p.1
    let base := readCsr s p.2.1
    let va := readCsr s p.2.2
    w.extractLsb' 0 3 = 0 ∧ w.extractLsb' 3 40 = va.extractLsb' 13 40 ∧
    (∀ n, 43 ≤ n → n ≤ 48 → w.getLsbD n = va.getLsbD 52) ∧ w.extractLsb' 49 4 = base.extractLsb' 49 4 ∧
    ∀ n, 53 ≤ n → n < 64 → w.getLsbD n = base.getLsbD 52) ∧
  ∀ (s : State) (ra : BitVec 5) (idx : BitVec 8), ready s .none → s.mode = 0#2 →
    ∃ t, exec (.priRcsr ra idx) s = .next t ∧ writesOnlyX s t ra (readCsr s idx) ∧ retires s t .plain ∧ sameMem s t ∧
      t = { s with
        pc := t.pc, x := t.x, sr := t.sr, csr := t.csr, unsynced := (s.noteRead idx).unsynced }

/-- PRI_WCSR in HM completes for every index and every datum but an illegal SET_EN: the CSRs, the buffers, the
instruction cache and the timer become what the write of that index makes of the datum (`writeCsr`, whose effects the
statements CsrWriteReadsBack, InterruptRequests, TlbFills, TlbFlushes and CountersAndTimer give); no register, no FPCR, no
lock state and no byte of memory changes (R417, R49, R50, R52). That the instruction is counted before its write takes
effect is the model's choice (log 46). With a SET_EN of DC_CTL or SC_CTL that is neither every way nor one way it is refused
(U4; the refusal is log 35). -/
def Obligations.CsrWrites : Prop :=
  (∀ (s : State) (ra : BitVec 5) (idx : BitVec 8), ready s .none → s.mode = 0#2 →
     (idx = 0x4A#8 → (s.getX ra).extractLsb' 0 4 ∈ [15#4, 1#4, 2#4, 4#4, 8#4]) →
     (idx = 0x80#8 → (s.getX ra).extractLsb' 0 8 ∈ [255#8, 1#8, 2#8, 4#8, 8#8, 16#8, 32#8, 64#8, 128#8]) →
     ∃ t u, exec (.priWcsr ra idx) s = .next t ∧ t.pc = s.pc + 4 ∧ sameMem s t ∧
       writeCsr (s.count .plain) idx (s.getX ra) = .ok u ∧
       t = { s with
         pc := t.pc, csr := u.csr, itb := u.itb, itbPtr := u.itbPtr, dtb := u.dtb, icache := u.icache, timer := u.timer
         out := u.out, unsynced := ((s.count .plain).noteWrite u idx (s.getX ra)).unsynced }) ∧
  (∀ (s : State) (ra : BitVec 5), ready s .none → s.mode = 0#2 →
     ((s.getX ra).extractLsb' 0 4 ∉ [15#4, 1#4, 2#4, 4#4, 8#4] →
       exec (.priWcsr ra 0x4A) s = .refused .dcWayEnable) ∧
     ((s.getX ra).extractLsb' 0 8 ∉ [255#8, 1#8, 2#8, 4#8, 8#8, 16#8, 32#8, 64#8, 128#8] →
       exec (.priWcsr ra 0x80) s = .refused .scWayEnable))

/-- What a CSR reads as after it is written (R48, R50). The plain registers read back the datum in their writable bits:
PTBR, IER0–3, II_ER, INT_VEC, PRI_BASE, VPCR, IA_MATCH, IA_MASK, PC0_CR, PC1_CR, HSERR_TH, SOFT_ERR, HARD_ERR, TIMER_CTL
and TIMER_TH (R97–R99, R104, R110, R119–R123, R125, R127–R130), DTB_PCR, DS_CTL, DC_CTL, DA_MATCH, DA_MASK,
DA_MATCH_MODE, DV_MATCH and DV_MASK (R148, R151, R152, R155–R157, R160, R161), SC_CTL and MERGE_OVTIME (R170, R174), TC,
TC_CTL, ICR, IDA_MATCH, IDA_MASK, TID and SOFTCSR0–47 (R191–R193, R195–R197); VPT_BASE sign-extended (R117), IS_CTL with
the configured CHIP_ID and BIST_FAIL (R112), CID with the hard-wired core number (R194). A write to IS_STAT, DC_STAT or
SC_STAT clears exactly the bits written 1 (R115, R154, R171), to HSERR_CNT the count with bit 0 and SERR_OF with bit 32
written 1 (R124), any write clears DS_STAT (R149), and the two parts of UPCR are selected by the index, so that 0x20 writes
nothing and 0x23 both (R118). SOFT_ERR and HARD_ERR report a fault outside exactly where the bit rises (R127, R128).
ISSUE_CTL takes its fields with their fixed top bits and reads them in some rotation (R114, U13). INT_REQ takes the datum,
but where Valid is still 1 one of the two requests may be lost (R172, U15). IC_FLUSH leaves no line in the instruction cache
and changes nothing else (R116). A write to a read-only register (R50, D2) or to an index that names none (R49) changes
nothing at all. -/
def Obligations.CsrWriteReadsBack : Prop :=
  ∀ (s t : State) (d : W64),
    (∀ p ∈ [(0x10#8, 0x00007FFFFFFF0000#64), (0x08, 0x0000FFFFFFFFFFFF), (0x09, 0x7), (0x19, 0x00003FFFFFFFFFFF),
        (0x1A, 0xFFFFFFFFFFFFFFFF), (0x1B, 0x7FFFFFFFFFFFFFFF), (0x1F, 0x0000FFFFFFFFFFFF), (0x24, 0xF3FFFFFFFFFFFFFF),
        (0x25, 0xFFFFFFFFFFFFFFFF), (0x27, 0xFFF), (0x29, 0x1), (0x2A, 0x1), (0x2B, 0xFFFFFFFFFFFFFFFF), (0x3C, 0x1),
        (0x47, 0xFFC0000000000003), (0x49, 0x001E000000000000), (0x4A, 0xFFFE0000003FF7BF), (0x4C, 0x00FFFFFFFFFFFFFF),
        (0x4D, 0x001FFFFFFFFFFFFF), (0x50, 0x001FFFFFFFFFFFFF), (0x52, 0xFFFFFFFFFFFFFFFF), (0x53, 0xFFFFFFFFFFFFFFFF),
        (0x80, 0x1FFFFF), (0x84, 0xFFFFFFFFFFFFFFFF), (0xC1, 0xFFFFFFFFFFFFFFFF), (0xC2, 0x1), (0xC3, 0x1),
        (0xC5, 0x003FFFFFFFFFFFFF), (0xC6, 0x001FFFFFFFFFFFFF), (0xC7, 0xFFFFFFFFFFFFFFFF)],
      writeCsr s p.1 d = .ok t → readCsr t p.1 = d &&& p.2) ∧
    (∀ n : Nat, 0xD0 ≤ n → n < 256 → writeCsr s (BitVec.ofNat 8 n) d = .ok t → readCsr t (BitVec.ofNat 8 n) = d) ∧
    (∀ k j : Fin 4, writeCsr s (BitVec.ofNat 8 (0x38 + k.val)) d = .ok t →
      readCsr t (BitVec.ofNat 8 (0x38 + j.val)) = if j = k then d else readCsr s (BitVec.ofNat 8 (0x38 + j.val))) ∧
    (writeCsr s 0x17 d = .ok t → readCsr t 0x17 = ((d &&& 0x001E000000000000).setWidth 53).signExtend 64) ∧
    (writeCsr s 0x11 d = .ok t → (readCsr t 0x11).extractLsb' 0 3 = d.extractLsb' 0 3 ∧
      (readCsr t 0x11).extractLsb' 10 7 = d.extractLsb' 10 7 ∧ (readCsr t 0x11).extractLsb' 3 6 = s.par.chipId ∧
      (readCsr t 0x11).getLsbD 9 = s.par.bistFail) ∧
    (writeCsr s 0xC4 d = .ok t → readCsr t 0xC4 = d.extractLsb' 8 56 ++ 0#4 ++ s.par.coreId) ∧
    (writeCsr s 0x26 d = .ok t →
      (readCsr t 0x26).extractLsb' 0 32 = (if d.getLsbD 0 then 0 else (readCsr s 0x26).extractLsb' 0 32) ∧
      (readCsr t 0x26).getLsbD 32 = ((readCsr s 0x26).getLsbD 32 && !d.getLsbD 32)) ∧
    (writeCsr s 0x14 d = .ok t → readCsr t 0x14 = readCsr s 0x14 &&& ~~~d) ∧
    (writeCsr s 0x4B d = .ok t → readCsr t 0x4B = readCsr s 0x4B &&& ~~~d) ∧
    (writeCsr s 0x81 d = .ok t → readCsr t 0x81 = readCsr s 0x81 &&& ~~~d) ∧
    (writeCsr s 0x48 d = .ok t → readCsr t 0x48 = 0) ∧
    (∀ i ∈ [0x07#8, 0x0A, 0x0D, 0x0E, 0x1C, 0x1D, 0x20, 0x28, 0x30, 0x31, 0x32, 0x33, 0x4E, 0x4F, 0x83, 0xC0],
      writeCsr s i d = .ok s) ∧
    (∀ n : Nat, n ∈ [0x0B, 0x0C, 0x12, 0x16, 0x18, 0x1E, 0x51] ∨ (0x2C ≤ n ∧ n ≤ 0x2F) ∨ (0x3D ≤ n ∧ n ≤ 0x3F) ∨
        (0x54 ≤ n ∧ n ≤ 0x7F) ∨ (0x85 ≤ n ∧ n ≤ 0xBF) ∨ (0xC8 ≤ n ∧ n ≤ 0xCF) →
      writeCsr s (BitVec.ofNat 8 n) d = .ok s) ∧
    (∀ p ∈ [(0x29#8, s.csr.softErr, Output.softwareFault), (0x3C, s.csr.hardErr, .hardwareFault)],
      writeCsr s p.1 d = .ok t → t.out = if p.2.1.getLsbD 0 = false ∧ d.getLsbD 0 = true then p.2.2 :: s.out else s.out) ∧
    (writeCsr s 0x13 d = .ok t → t = { s with csr := { s.csr with issueCtl := t.csr.issueCtl } } ∧
      ∃ m n : Nat, readCsr t 0x13 = 0#44 ++ (1#1 ++ d.extractLsb' 10 9).rotateRight m ++ (1#1 ++ d.extractLsb' 0 9).rotateRight n) ∧
    (writeCsr s 0x82 d = .ok t → t = { s with csr := { s.csr with intReq := t.csr.intReq } } ∧
      (readCsr t 0x82 = d &&& 0x380FFFF ∨ (s.csr.intReq.getLsbD 25 = true ∧ t = s))) ∧
    (∃ u, writeCsr s 0x15 d = .ok u ∧ (∀ (k : Fin 64) (w : Fin 4), (u.icache[k]).ways[w] = none) ∧
      u = { s with icache := u.icache }) ∧
    (writeCsr s 0x20 d = .ok t → t.csr.upcr = s.csr.upcr) ∧
    (writeCsr s 0x21 d = .ok t → (readCsr t 0x20).extractLsb' 0 3 = d.extractLsb' 0 3 ∧ t.csr.upn = s.csr.upn) ∧
    (writeCsr s 0x22 d = .ok t → t.csr.upn = d.extractLsb' 39 8 ∧
      (readCsr t 0x20).extractLsb' 0 3 = (readCsr s 0x20).extractLsb' 0 3) ∧
    (writeCsr s 0x23 d = .ok t → t.csr.upn = d.extractLsb' 39 8 ∧ (readCsr t 0x20).extractLsb' 0 3 = d.extractLsb' 0 3)

/-- The interrupt request registers (R103, R592): a request is recorded whatever its enable is, INT_STAT reads a
request only while it is enabled, INT_CLR clears exactly the requests written 1, and II_CLR the bits of II0 and II1 that its
two halves name (R106). The corrected-error counter: each
counted error adds one, and where the count carries at its bit SERR_OF is set, CR_VEC requested and the maintenance
interface told; the time counter clears the count where it carries at its own bit, and stands still with TIME_THLD[6] = 1
(R334, R335; what a carry at a bit is, is the parameter of log 34). INT_REQ with Valid = 1 leaves the core once and clears
Valid (R172); to this core itself it sets its bit of II0 or II1 or requests SLEEP_VEC; with INTEN = 0 the system interface
holds II0 and II1 back until INTEN is 1 and loses the sleep interrupt; a disconnected core loses it, with a software fault
for II0 and II1 (R610, R611, R613). That a request held back is delivered at INTEN = 1 also to a core that has been
disconnected meanwhile is the model's choice (log 68). -/
def Obligations.InterruptRequests : Prop :=
  (∀ (s t : State) (k : Fin 4) (n : BitVec 8) (d : W64),
    ((s.request n).csr.raw.getLsbD n.toNat = true ∧
      ∀ j, j < 256 → j ≠ n.toNat → (s.request n).csr.raw.getLsbD j = s.csr.raw.getLsbD j) ∧
    (∀ j, j < 64 → (readCsr s (BitVec.ofNat 8 (0x30 + k.val))).getLsbD j =
      (s.csr.raw.getLsbD (64 * k.val + j) && s.csr.ier.getLsbD (64 * k.val + j))) ∧
    (writeCsr s (BitVec.ofNat 8 (0x34 + k.val)) d = .ok t → ∀ j, j < 256 →
      t.csr.raw.getLsbD j = (s.csr.raw.getLsbD j && !(decide (j / 64 = k.val) && d.getLsbD (j % 64)))) ∧
    (writeCsr s 0x0F d = .ok t → t = { s with csr := { s.csr with ii0 := t.csr.ii0, ii1 := t.csr.ii1 } } ∧
      ∀ j, j < 16 → t.csr.ii0.getLsbD j = (s.csr.ii0.getLsbD j && !d.getLsbD j) ∧
        t.csr.ii1.getLsbD j = (s.csr.ii1.getLsbD j && !d.getLsbD (16 + j)))) ∧
  (∀ s : State,
    let at' : Nat → Nat := fun k => 2 ^ (k + if s.par.carryOut then 1 else 0)
    let c := (s.csr.hserrCnt.extractLsb' 0 32).toNat + 1
    let t := s.countCorrected
    (t.csr.hserrCnt.extractLsb' 0 32).toNat = c % 2 ^ 32 ∧
    (c % at' (s.csr.hserrTh.extractLsb' 7 5).toNat = 0 → t.csr.hserrCnt.getLsbD 32 = true ∧
      t.csr.raw = s.csr.raw ||| BitVec.twoPow 256 s.csr.crVec.toNat ∧ t.out = .correctedThreshold :: s.out) ∧
    (c % at' (s.csr.hserrTh.extractLsb' 7 5).toNat ≠ 0 →
      t = { s with csr := { s.csr with hserrCnt := t.csr.hserrCnt } } ∧
      t.csr.hserrCnt.getLsbD 32 = s.csr.hserrCnt.getLsbD 32) ∧
    ∀ n : Nat,
      let limit := at' (s.csr.hserrTh.extractLsb' 0 6).toNat
      let u := s.passHserr n
      (s.csr.hserrTh.getLsbD 6 = true → u = s) ∧
      (s.csr.hserrTh.getLsbD 6 = false → s.hserrTime.toNat / limit < (s.hserrTime.toNat + n) / limit →
        u.csr.hserrCnt.extractLsb' 0 32 = 0 ∧ u.hserrTime = BitVec.ofNat 64 ((s.hserrTime.toNat + n) % limit)) ∧
      (s.csr.hserrTh.getLsbD 6 = false → ¬s.hserrTime.toNat / limit < (s.hserrTime.toNat + n) / limit →
        u.csr = s.csr ∧ u.hserrTime = s.hserrTime + BitVec.ofNat 64 n)) ∧
  (∀ s : State,
    let r := s.csr.intReq
    let kind := r.extractLsb' 23 2
    let me := s.par.coreId.toNat
    let t := s.sendIntReq
    let sent := Output.interrupt kind (r.extractLsb' 0 16)
    (r.getLsbD 25 = false → t = s) ∧
    (r.getLsbD 25 = true → t.csr.intReq = r &&& ~~~(BitVec.twoPow 64 25) ∧
      (r.getLsbD me = false ∨ s.online = false ∨ s.inten = false →
        t.csr = { s.csr with intReq := t.csr.intReq } ∧
        t.out = (if r.getLsbD me && !s.online && decide (kind.toNat < 2) then [.softwareFault, sent] else [sent]) ++ s.out) ∧
      (r.getLsbD me = false ∨ s.online = false → t.heldIntr = s.heldIntr) ∧
      (r.getLsbD me = true → s.online = true → s.inten = false →
        t.heldIntr = s.heldIntr ||| (if kind = 0 then 1 else if kind = 1 then 2 else 0)) ∧
      (r.getLsbD me = true → s.online = true → s.inten = true → s.heldIntr = 0 → t.out = sent :: s.out ∧
        t.csr.ii0 = (if kind = 0 then s.csr.ii0 ||| BitVec.twoPow 64 me else s.csr.ii0) ∧
        t.csr.ii1 = (if kind = 1 then s.csr.ii1 ||| BitVec.twoPow 64 me else s.csr.ii1) ∧
        t.csr.raw = (if kind = 2 then s.csr.raw ||| BitVec.twoPow 256 s.csr.sleepVec.toNat else s.csr.raw))) ∧
    (s.power ≠ .deepSleep →
      (applyInput s (.inten true)).csr.ii0.getLsbD me = (s.csr.ii0.getLsbD me || s.heldIntr.getLsbD 0) ∧
      (applyInput s (.inten true)).csr.ii1.getLsbD me = (s.csr.ii1.getLsbD me || s.heldIntr.getLsbD 1)))

/-- PRI_RET in HM loads the pc, mode bits included, from a register under the HM view and clears lock_valid; no
register and no memory changes (R415, R522). That the target is not checked is DEDUCED (log 51, N26; R415 leaves it
open); lock_valid is cleared by R455 item 3 with decision D9. -/
def Obligations.PriRetReturns : Prop :=
  ∀ (s : State) (ra : BitVec 5), ready s .none → s.mode = 0#2 →
    (∃ t, exec (.priRet ra) s = .next t ∧ t.pc = s.getX ra ∧ sameMem s t ∧
      t = { s with pc := t.pc, csr := (s.count .plain).csr, lock := { s.lock with valid := false } }) ∧
    (∃ t, exec (.priRetB ra) s = .next t ∧ t.pc = s.getX ra ∧ sameMem s t ∧
      t = { s with
        pc := t.pc, csr := (s.count .plain).csr, lock := { s.lock with valid := false }
        unsynced := s.noteReturn.unsynced })

/-! ### Loads and stores of one register -/

/-- The scalar loads of a memory location. Integer: the value extended as R816–R819 and R833, R834 say, in Ra (R801, R815,
R827; that a word is sign-extended is PRESUMED, log 13). Floating: FLDD and LDD_NC move the 8 bytes unchanged, FLDS widens
the single (R823, R824, R835; the conversion is general knowledge, log 12); the rest of the vector register is free
(R41). Nothing else changes but lock_valid: that a memory access clears it is the model's choice (log 67; R455 and U33 say
less). -/
def Obligations.ScalarLoads : Prop :=
  ∀ (s : State) (ra rb : BitVec 5) (d : BitVec 16) (e : BitVec 12) (pa : PAddr), ra ≠ 31#5 → isIo pa = false →
    let m := fun n => readMem s.mem (memAddr pa) n
    let sx : W64 := (BitVec.ofNat 32 (m 4)).signExtend 64
    let u := s.unlock
    (ready s .none →
      (accessOk s (loadAcc ra 1) (s.ea16 rb d) pa →
        ∃ t, exec (.ldbu ra rb d) s = .next t ∧ resultX u t .read ra (BitVec.ofNat 64 (m 1))) ∧
      (accessOk s (loadAcc ra 2) (s.ea16 rb d) pa →
        ∃ t, exec (.ldhu ra rb d) s = .next t ∧ resultX u t .read ra (BitVec.ofNat 64 (m 2))) ∧
      (accessOk s (loadAcc ra 4) (s.ea16 rb d) pa → ∃ t, exec (.ldw ra rb d) s = .next t ∧ resultX u t .read ra sx) ∧
      (accessOk s (loadAcc ra 8) (s.ea16 rb d) pa →
        ∃ t, exec (.ldl ra rb d) s = .next t ∧ resultX u t .read ra (BitVec.ofNat 64 (m 8))) ∧
      (accessOk s (loadAcc ra 8) (if s.par.ldlUChecksAlignment then s.ea16 rb d else s.ea16 rb d &&& ~~~7) pa →
        ∃ t, exec (.ldlU ra rb d) s = .next t ∧ resultX u t .read ra (BitVec.ofNat 64 (m 8))) ∧
      (accessOk s { loadAcc ra 4 with nc := true } (s.ea12 rb e) pa →
        ∃ t, exec (.ldwNc ra rb e) s = .next t ∧ resultX u t .read ra sx) ∧
      (accessOk s { loadAcc ra 8 with nc := true } (s.ea12 rb e) pa →
        ∃ t, exec (.ldlNc ra rb e) s = .next t ∧ resultX u t .read ra (BitVec.ofNat 64 (m 8)))) ∧
    (ready s .scalar →
      (accessOk s (loadAcc ra 4) (s.ea16 rb d) pa →
        ∃ t, exec (.flds ra rb d) s = .next t ∧ resultF u t .read ra (singleToReg (BitVec.ofNat 32 (m 4)))) ∧
      (accessOk s (loadAcc ra 8) (s.ea16 rb d) pa →
        ∃ t, exec (.fldd ra rb d) s = .next t ∧ resultF u t .read ra (BitVec.ofNat 64 (m 8))) ∧
      (accessOk s { loadAcc ra 8 with nc := true } (s.ea12 rb e) pa →
        ∃ t, exec (.lddNc ra rb e) s = .next t ∧ resultF u t .read ra (BitVec.ofNat 64 (m 8))))

/-- A load with destination R31 or F31 makes no access and changes nothing (R801; that these are prefetches or no-
operations is general knowledge, log 11). -/
def Obligations.LoadsTo31 : Prop :=
  ∀ (s : State) (rb : BitVec 5) (d : BitVec 16) (e : BitVec 12),
    (ready s .none → ∀ i ∈ [Instr.ldbu 31 rb d, .ldhu 31 rb d, .ldw 31 rb d, .ldl 31 rb d, .ldlU 31 rb d,
        .ldwNc 31 rb e, .ldlNc 31 rb e, .flds 31 rb d, .fldd 31 rb d],
      ∃ t, exec i s = .next t ∧ resultNone s t .read) ∧
    (ready s .scalar → ∃ t, exec (.lddNc 31 rb e) s = .next t ∧ resultNone s t .read) ∧
    (ready s .simd → ∀ i ∈ [Instr.vlddNc 31 rb d, .vlds 31 rb d, .vldd 31 rb d, .ldwe 31 rb d, .ldse 31 rb d,
        .ldde 31 rb d, .vldwU 31 rb d, .vldsU 31 rb d, .vlddU 31 rb d],
      ∃ t, exec i s = .next t ∧ resultNone s t .read)

/-- A load from I/O space asks the device: the value, whatever it is (log 29), has no more bits than the access, is
shown outside once and is written to Ra or Fa as a load from memory would write it (bytes and halfwords zero-extended,
R816, R827; a word sign-extended, PRESUMED, log 13), and the I/O write window closes. A store to I/O space is one write
shown outside, of the low bytes of the register, for FSTS of the single it stands for. The privileged forms do the same
in HM; at an address that is no multiple of the width they access the aligned unit around it with some value (U23, log
27). No byte of memory changes (R221, R223, R243, R256). That an I/O access clears lock_valid is the model's choice (log 67;
R455 and U33 say less). -/
def Obligations.IoAccesses : Prop :=
  ∀ (s : State) (ra rb : BitVec 5) (d : BitVec 16) (e : BitVec 12) (pa : PAddr), isIo pa = true →
    let u := s.unlock
    let reads : State → Nat → Nat → W64 → Prop := fun t a n w =>
      t.pc = s.pc + 4 ∧ t.csr = (s.count .read).csr ∧ sameMem s t ∧ t.out = .ioRead a n w :: s.out ∧
      w.toNat < 2 ^ (8 * n) ∧
      t = { u with pc := t.pc, x := t.x, sr := t.sr, v := t.v, csr := t.csr, ioWin := none, out := t.out }
    let writes : State → Nat → Nat → Nat → Prop := fun t a n v => ∃ joined,
      retires s t .write ∧ sameMem s t ∧ t.out = .ioWrite a n (BitVec.ofNat 64 (v % 2 ^ (8 * n))) joined :: s.out ∧
      (n < 4 → joined = false) ∧ t = { u with pc := t.pc, csr := t.csr, ioWin := t.ioWin, out := t.out }
    let sx : W64 → W64 := fun w => (w.setWidth 32).signExtend 64
    let below : Nat → Nat := fun n => ioAddr (pa - BitVec.ofNat 48 ((s.ea12 rb e).toNat % n))
    let x := (s.getX ra).toNat
    (ready s .none → ra ≠ 31#5 →
      (∀ p ∈ [(Instr.ldbu ra rb d, 1, s.ea16 rb d), (.ldhu ra rb d, 2, s.ea16 rb d), (.ldw ra rb d, 4, s.ea16 rb d),
          (.ldl ra rb d, 8, s.ea16 rb d),
          (.ldlU ra rb d, 8, if s.par.ldlUChecksAlignment then s.ea16 rb d else s.ea16 rb d &&& ~~~7)],
        accessOk s (loadAcc ra p.2.1) p.2.2 pa → ∃ t w, exec p.1 s = .next t ∧ reads t (ioAddr pa) p.2.1 w ∧
          writesOnlyX s t ra (if p.2.1 = 4 then sx w else w) ∧ t.v = s.v)) ∧
    (ready s .scalar → ra ≠ 31#5 →
      (accessOk s (loadAcc ra 4) (s.ea16 rb d) pa → ∃ t w, exec (.flds ra rb d) s = .next t ∧
        reads t (ioAddr pa) 4 w ∧ writesOnlyF s t ra (singleToReg (w.setWidth 32)) ∧ t.x = s.x ∧ t.sr = s.sr) ∧
      (accessOk s (loadAcc ra 8) (s.ea16 rb d) pa → ∃ t w, exec (.fldd ra rb d) s = .next t ∧
        reads t (ioAddr pa) 8 w ∧ writesOnlyF s t ra w ∧ t.x = s.x ∧ t.sr = s.sr)) ∧
    (ready s .none → ∀ p ∈ [(Instr.stb ra rb d, 1), (.sth ra rb d, 2), (.stw ra rb d, 4), (.stl ra rb d, 8)],
      accessOk s { storeAcc ra p.2 with data := some x } (s.ea16 rb d) pa →
      ∃ t, exec p.1 s = .next t ∧ writes t (ioAddr pa) p.2 x) ∧
    (ready s .scalar →
      ∀ p ∈ [(Instr.fsts ra rb d, 4, (regToSingle (s.getF ra)).toNat), (.fstd ra rb d, 8, (s.getF ra).toNat)],
        accessOk s { storeAcc ra p.2.1 with data := some p.2.2 } (s.ea16 rb d) pa →
        ∃ t, exec p.1 s = .next t ∧ writes t (ioAddr pa) p.2.1 p.2.2) ∧
    (ready s .none → s.mode = 0#2 → let ea := s.ea12 rb e
      (∀ p ∈ [(Instr.priLdwP ra rb e, AccForm.phys, 4), (.priLdwV ra rb e, .virt, 4), (.priLdwVpte ra rb e, .vpte, 4),
          (.priLdlP ra rb e, .phys, 8), (.priLdlV ra rb e, .virt, 8), (.priLdlVpte ra rb e, .vpte, 8)],
        (ea.toNat % p.2.2 = 0 → accessOk s (priLoadAcc ra p.2.1 p.2.2) ea pa →
          ∃ t w, exec p.1 s = .next t ∧ reads t (ioAddr pa) p.2.2 w ∧
            writesOnlyX s t ra (if p.2.2 = 4 then sx w else w) ∧ t.v = s.v) ∧
        (ea.toNat % p.2.2 ≠ 0 → accessOk s { priLoadAcc ra p.2.1 p.2.2 with back := ea.toNat % p.2.2 } ea pa →
          ∃ t w v, exec p.1 s = .next t ∧ reads t (below p.2.2) p.2.2 w ∧ writesOnlyX s t ra v ∧ t.v = s.v)) ∧
      (∀ p ∈ [(Instr.priStwP ra rb e, AccForm.phys, 4), (.priStwV ra rb e, .virt, 4), (.priStlP ra rb e, .phys, 8),
          (.priStlV ra rb e, .virt, 8)],
        (ea.toNat % p.2.2 = 0 → accessOk s { priStoreAcc ra p.2.1 p.2.2 with data := some x } ea pa →
          ∃ t, exec p.1 s = .next t ∧ writes t (ioAddr pa) p.2.2 x) ∧
        (ea.toNat % p.2.2 ≠ 0 →
          (∀ b, accessOk s { priStoreAcc ra p.2.1 p.2.2 with back := ea.toNat % p.2.2, data := some b } ea pa) →
          ∃ t b, exec p.1 s = .next t ∧ writes t (below p.2.2) p.2.2 b)))

/-- The scalar stores to a memory location: the low bytes of the register at the address, little-endian, and no other
byte, register, flag or CSR changes but lock_valid (R801, R820–R822, R825–R827, R836–R838): that a memory access clears it is
the model's choice (log 67; R455 and U33 say less). FSTS stores the four bytes of the single that the register image stands for, not the low bytes of the register
(R825; the conversion is general knowledge by R823, log 12). -/
def Obligations.ScalarStores : Prop :=
  ∀ (s : State) (ra rb : BitVec 5) (d : BitVec 16) (e : BitVec 12) (pa : PAddr), Memory.wf s.mem = true →
    isIo pa = false →
    let x := (s.getX ra).toNat
    let f := (s.getF ra).toNat
    let g := (regToSingle (s.getF ra)).toNat
    let u := s.unlock
    (ready s .none →
      (accessOk s { storeAcc ra 1 with data := some x } (s.ea16 rb d) pa →
        ∃ t, exec (.stb ra rb d) s = .next t ∧ resultStore u t (memAddr pa) 1 x) ∧
      (accessOk s { storeAcc ra 2 with data := some x } (s.ea16 rb d) pa →
        ∃ t, exec (.sth ra rb d) s = .next t ∧ resultStore u t (memAddr pa) 2 x) ∧
      (accessOk s { storeAcc ra 4 with data := some x } (s.ea16 rb d) pa →
        ∃ t, exec (.stw ra rb d) s = .next t ∧ resultStore u t (memAddr pa) 4 x) ∧
      (accessOk s { storeAcc ra 8 with data := some x } (s.ea16 rb d) pa →
        ∃ t, exec (.stl ra rb d) s = .next t ∧ resultStore u t (memAddr pa) 8 x) ∧
      (accessOk s { storeAcc ra 4 with data := some x, nc := true } (s.ea12 rb e) pa →
        ∃ t, exec (.stwNc ra rb e) s = .next t ∧ resultStore u t (memAddr pa) 4 x) ∧
      (accessOk s { storeAcc ra 8 with data := some x, nc := true } (s.ea12 rb e) pa →
        ∃ t, exec (.stlNc ra rb e) s = .next t ∧ resultStore u t (memAddr pa) 8 x)) ∧
    (ready s .scalar →
      (accessOk s { storeAcc ra 4 with data := some g } (s.ea16 rb d) pa →
        ∃ t, exec (.fsts ra rb d) s = .next t ∧ resultStore u t (memAddr pa) 4 g) ∧
      (accessOk s { storeAcc ra 8 with data := some f } (s.ea16 rb d) pa →
        ∃ t, exec (.fstd ra rb d) s = .next t ∧ resultStore u t (memAddr pa) 8 f) ∧
      (accessOk s { storeAcc ra 8 with data := some f, nc := true } (s.ea12 rb e) pa →
        ∃ t, exec (.stdNc ra rb e) s = .next t ∧ resultStore u t (memAddr pa) 8 f))

/-! ### Exceptions of a data access -/

/-- The address checks of a data access, first the sign extension, then the alignment (R529). An address whose bits
[63:53] are not copies of bit 52 raises DFAULT with BAD_DVA (R228, R546). A misaligned scalar access raises UNALIGN and
clears the other flags of DS_STAT (R226, R544; that the NC forms are checked too is D21). A misaligned SIMD access raises
UNALIGN, sets SIMD_MV only where the address is aligned for the element, and keeps every other flag, those of bits [3:1]
among them (R544; D23 where it is misaligned for the element too, and D21 for the NC forms). DVA takes the address,
EXC_SUM[REG] Ra, DS_STAT the opcode and the write flag, free for an atomic (U24); an erratum may set DA_MATCH and DV_MATCH
beside them (R680, U28). No clear of DS_STAT is in flight (R750). -/
def Obligations.AddressFaults : Prop :=
  (∀ (s : State) (ra rb : BitVec 5) (d : BitVec 16) (e : BitVec 12), ready s .none → settledCsr s 0x48 →
     ∀ p ∈ scalarAccesses s ra rb d e,
       let ea := p.2.1
       (ea ≠ (ea.setWidth 53).signExtend 64 →
         ∃ t, exec p.1 s = .next t ∧ faultsTo s t 0xC80 ∧ t.csr.dva = ea ∧ excSumIs t ra 0 ∧ keepsFetchRecords s t ∧
           recordsAccess s t p.2.2.2 ∧ dsFlagsAre t (s.csr.dsStat ||| 0x800)) ∧
       (ea = (ea.setWidth 53).signExtend 64 → ea.toNat % p.2.2.1 ≠ 0 →
         ∃ t, exec p.1 s = .next t ∧ faultsTo s t 0xB00 ∧ t.csr.dva = ea ∧ excSumIs t ra 0 ∧ keepsFetchRecords s t ∧
           recordsAccess s t p.2.2.2 ∧ dsFlagsAre t 0)) ∧
  (∀ (s : State) (fa rb : BitVec 5) (d : BitVec 16), ready s .simd → settledCsr s 0x48 →
     let ea := s.ea16 rb d
     ∀ p ∈ vectorAccesses fa rb d,
       (ea ≠ (ea.setWidth 53).signExtend 64 →
         ∃ t, exec p.1 s = .next t ∧ faultsTo s t 0xC80 ∧ t.csr.dva = ea ∧ excSumIs t fa 0 ∧ keepsFetchRecords s t ∧
           recordsAccess s t (some p.2.2.2) ∧ dsFlagsAre t (s.csr.dsStat ||| 0x800)) ∧
       (ea = (ea.setWidth 53).signExtend 64 → ea.toNat % p.2.1 ≠ 0 →
         ∃ t, exec p.1 s = .next t ∧ faultsTo s t 0xB00 ∧ t.csr.dva = ea ∧ excSumIs t fa 0 ∧ keepsFetchRecords s t ∧
           recordsAccess s t (some p.2.2.2) ∧
           dsFlagsAre t (if 0 < p.2.2.1 ∧ ea.toNat % p.2.2.1 = 0 then s.csr.dsStat ||| 0x8000 else s.csr.dsStat)))

/-- A data access whose effective address no DTB entry hits enters the single miss, 0x880 or 0x900 by bit 52 of the
address (R531, R532), with DVA = the address, EXC_SUM[REG] = Ra, DS_STAT's opcode and write flag (free for an atomic,
U24) and its other flags kept. An entry hits when its page, by the entry's own granularity, its VPN and, unless it is
shared, its UPN are those of the access (R281, R310 steps 2 to 4 and 7). PRI_LDx/vpte enters the double miss 0x800 and
keeps DVA and DS_STAT (R530). The second part of an unaligned vector load, translated on its own (the model's choice, log 71),
misses in the same way, and DVA is the effective address of the instruction (R801). -/
def Obligations.TlbMisses : Prop :=
  ∀ (s : State) (ra rb : BitVec 5) (d : BitVec 16) (e : BitVec 12), ready s .none → settledCsr s 0x48 →
    let misses : W64 → Prop := fun ea => ∀ x ∈ s.dtb,
      ¬(x.va >>> (5 * x.gh.toNat) = ea.extractLsb' 13 40 >>> (5 * x.gh.toNat) ∧ x.vpn = s.csr.dtbPcr.extractLsb' 62 2 ∧
        (x.ks = true ∨ x.upn = s.csr.dtbPcr.extractLsb' 54 8))
    let single : Instr → W64 → Option Bool → Prop := fun i ea wr =>
      ∃ t, exec i s = .next t ∧ faultsTo s t (if ea.getLsbD 52 then 0x900 else 0x880) ∧ t.csr.dva = ea ∧
        excSumIs t ra 0 ∧ keepsFetchRecords s t ∧ recordsAccess s t wr ∧ dsFlagsAre t s.csr.dsStat
    (∀ p ∈ scalarAccesses s ra rb d e, canonical p.2.1 = true → p.2.1.toNat % p.2.2.1 = 0 →
      (s.mode = 1#2 → p.2.1.getLsbD 52 = true) → misses p.2.1 → single p.1 p.2.1 p.2.2.2) ∧
    (ready s .simd → canonical (s.ea16 rb d) = true → (s.mode = 1#2 → (s.ea16 rb d).getLsbD 52 = true) →
      misses (s.ea16 rb d) →
      ∀ p ∈ vectorAccesses ra rb d, (s.ea16 rb d).toNat % p.2.1 = 0 → single p.1 (s.ea16 rb d) (some p.2.2.2)) ∧
    (s.mode = 0#2 → canonical (s.ea12 rb e) = true → misses (s.ea12 rb e) →
      (∀ p ∈ [(Instr.priLdwV ra rb e, false), (.priLdlV ra rb e, false), (.priStwV ra rb e, true),
          (.priStlV ra rb e, true)], single p.1 (s.ea12 rb e) (some p.2)) ∧
      ∀ i ∈ [Instr.priLdwVpte ra rb e, .priLdlVpte ra rb e],
        ∃ t, exec i s = .next t ∧ faultsTo s t 0x800 ∧ excSumIs t ra 0 ∧ t.csr.dva = s.csr.dva ∧
          t.csr.dsStat = s.csr.dsStat) ∧
    (ready s .simd → ra ≠ 31#5 → let ea := s.ea16 rb d
      ∀ p ∈ [(Instr.vldwU ra rb d, vecLoadAcc ra 32 4 0), (.vldsU ra rb d, vecLoadAcc ra 16 4 0),
          (.vlddU ra rb d, vecLoadAcc ra 32 8 0)],
        let k := 32 - ea.toNat % 32
        let high := ea + BitVec.ofNat 64 k
        ∀ pa, k < p.2.size → accessOk s { p.2 with size := k } ea pa → canonical high = true →
          (s.mode = 1#2 → high.getLsbD 52 = true) → misses high →
          ∃ t, exec p.1 s = .next t ∧ faultsTo s t (if high.getLsbD 52 then 0x900 else 0x880) ∧ t.csr.dva = ea ∧
            excSumIs t ra 0 ∧ keepsFetchRecords s t ∧ recordsAccess s t (some false) ∧ dsFlagsAre t s.csr.dsStat)

/-- The permission check of TranslateD (R310 step 5, R311, R313, R296): where one entry hits, an access goes on exactly
when the mode it is checked for may read or write and FOR or FOW does not stop it. That mode is the pc's, for the /v and
/vpte forms DTB_PCR[PM]; in VM an address with bit 52 = 0 is not translated. An instruction whose access is stopped
enters DFAULT, 0xC80, with DVA = the effective address and EXC_SUM[REG] = Ra, and DS_STAT takes its opcode and write
flag and ACV0, FOR and FOW, each exactly where its condition holds, which is decision D25, beside the flags it had
(R545; an atomic is both a read and a write, R316, and its write flag is free, U24; an erratum may set DA_MATCH and
DV_MATCH, U28). No clear of DS_STAT is in flight (R750). -/
def Obligations.PermissionCheck : Prop :=
  ∀ (s : State) (e : DtbEntry),
    let re : BitVec 2 → Prop := fun m =>
      (m = 0#2 ∧ e.hre = true) ∨ (m = 1#2 ∧ e.vre = true) ∨ (m = 2#2 ∧ e.kre = true) ∨ (m = 3#2 ∧ e.ure = true)
    let we : BitVec 2 → Prop := fun m =>
      (m = 0#2 ∧ e.hwe = true) ∨ (m = 1#2 ∧ e.vwe = true) ∨ (m = 2#2 ∧ e.kwe = true) ∨ (m = 3#2 ∧ e.uwe = true)
    let allowed : BitVec 2 → Bool → Bool → Prop := fun m r w =>
      (r = true → re m ∧ e.faultOnRead = false) ∧ (w = true → we m ∧ e.faultOnWrite = false)
    let flagged : W64 → BitVec 2 → Bool → Bool → Prop := fun flags m r w =>
      (flags.getLsbD 1 = true ↔ (r = true ∧ ¬re m) ∨ (w = true ∧ ¬we m)) ∧
      (flags.getLsbD 2 = true ↔ r = true ∧ e.faultOnRead = true) ∧
      (flags.getLsbD 3 = true ↔ w = true ∧ e.faultOnWrite = true) ∧ flags &&& ~~~14 = 0
    let one : W64 → Prop := fun va => s.dtb.filter (dtbHits s.csr va) = [e] ∧ (s.mode = 1#2 → va.getLsbD 52 = true)
    let pm := s.csr.dtbPcr.extractLsb' 0 2
    (∀ (f : AccForm) (r w : Bool) (va : W64), one va → f ≠ .phys →
      let m := if f = .normal then s.mode else pm
      ((∃ pa, translateD s f r w va = .page pa) ↔ allowed m r w) ∧
      ∀ flags pa, translateD s f r w va = .denied flags pa → flagged flags m r w) ∧
    ∀ (ra rb : BitVec 5) (d : BitVec 16) (a : BitVec 12), ready s .none → settledCsr s 0x48 →
      let stopped : Instr → W64 → Option Bool → BitVec 2 → Prop := fun i ea wr m =>
        ¬allowed m (decide (wr ≠ some true)) (decide (wr ≠ some false)) →
        ∃ t flags, exec i s = .next t ∧ faultsTo s t 0xC80 ∧ t.csr.dva = ea ∧ excSumIs t ra 0 ∧ keepsFetchRecords s t ∧
          recordsAccess s t wr ∧ flagged flags m (decide (wr ≠ some true)) (decide (wr ≠ some false)) ∧
          dsFlagsAre t (s.csr.dsStat ||| flags)
      (∀ p ∈ scalarAccesses s ra rb d a, canonical p.2.1 = true → p.2.1.toNat % p.2.2.1 = 0 → one p.2.1 →
        stopped p.1 p.2.1 p.2.2.2 s.mode) ∧
      (ready s .simd → canonical (s.ea16 rb d) = true → one (s.ea16 rb d) → ∀ p ∈ vectorAccesses ra rb d,
        (s.ea16 rb d).toNat % p.2.1 = 0 → stopped p.1 (s.ea16 rb d) (some p.2.2.2) s.mode) ∧
      (s.mode = 0#2 → canonical (s.ea12 rb a) = true → one (s.ea12 rb a) →
        ∀ p ∈ [(Instr.priLdwV ra rb a, false), (.priLdlV ra rb a, false), (.priLdwVpte ra rb a, false),
            (.priLdlVpte ra rb a, false), (.priStwV ra rb a, true), (.priStlV ra rb a, true)],
          stopped p.1 (s.ea12 rb a) (some p.2) pm)

/-- The debug matches of a data access that passed the address checks (R675–R679). A, the address match: DA_MATCH[EN]
enables the class of the access and every bit that DA_MASK lets take part is equal, or differs, as DA_MATCH_MODE says;
physical addresses are compared with DA_MATCH[PA] = 1 and for the /p forms. V, the value match: a store, DV_MATCH_EN = 1,
every byte DV_MASK names is stored, and the stored bytes agree with DV_MATCH under it. With DAV_MATCH_EN = 0 either
raises DFAULT, with 1 only both together; DVA is the virtual address when A alone decides or A and V with
DAV_MATCH_EN = 0, else its bits 47:0 are the physical one (R158). Without a match the access goes on. -/
def Obligations.DataMatches : Prop :=
  ∀ (s : State) (ra rb : BitVec 5) (d : BitVec 16) (e : BitVec 12) (pa : PAddr), ready s .none → settledCsr s 0x48 →
    let acc : Bool → AccForm → Nat → Acc := fun w f n =>
      { ra := ra, isR := !w, isW := w, form := f, size := n, align := if f = .normal then n else 1
        data := if w then some (s.getX ra).toNat else none }
    ∀ p ∈ [(Instr.stb ra rb d, true, AccForm.normal, 1), (.sth ra rb d, true, .normal, 2), (.stw ra rb d, true, .normal, 4),
        (.stl ra rb d, true, .normal, 8)] ++
        (if ra = 31#5 then [] else [(.ldbu ra rb d, false, .normal, 1), (.ldhu ra rb d, false, .normal, 2),
          (.ldw ra rb d, false, .normal, 4), (.ldl ra rb d, false, .normal, 8)]) ++
        (if s.mode = 0#2 then [(.priLdwP ra rb e, false, .phys, 4), (.priLdlP ra rb e, false, .phys, 8),
          (.priStwP ra rb e, true, .phys, 4), (.priStlP ra rb e, true, .phys, 8)] else []),
      let w := p.2.1
      let ea := if p.2.2.1 = .phys then s.ea12 rb e else s.ea16 rb d
      (p.2.2.1 = .phys ∨ canonical ea = true) → ea.toNat % p.2.2.2 = 0 →
      translateD s p.2.2.1 (!w) w ea = .page pa →
      let phys := s.csr.daMatch.getLsbD 55 = true ∨ p.2.2.1 = .phys
      let bit : Nat → Prop := fun n => (s.csr.daMatchMode.getLsbD n = true ↔
        s.csr.daMatch.getLsbD n = (if s.csr.daMatch.getLsbD 55 ∨ p.2.2.1 = .phys then pa.getLsbD n else ea.getLsbD n))
      let A := (s.csr.daMatch.getLsbD (if w then 54 else 53) = true ∨ s.csr.daMatch.extractLsb' 53 2 = 3#2) ∧
        ∀ n, n < 53 → (phys → n < 48) → s.csr.daMask.getLsbD n = true → bit n
      let o := ea.toNat % 8
      let V := w = true ∧ s.csr.dcCtl.getLsbD 19 = true ∧
        (∀ n, n < 64 → s.csr.dvMask.getLsbD n = true → o ≤ n / 8 ∧ n / 8 < o + p.2.2.2) ∧
        ((s.getX ra <<< (8 * o)) ^^^ s.csr.dvMatch) &&& s.csr.dvMask = 0
      let virtual : W64 → Prop := fun dva => dva = ea
      let physical : W64 → Prop := fun dva => dva.extractLsb' 0 48 = pa
      let fault : (W64 → Prop) → W64 → Prop := fun at' flags => ∃ t, exec p.1 s = .next t ∧ faultsTo s t 0xC80 ∧
        at' t.csr.dva ∧ excSumIs t ra 0 ∧ keepsFetchRecords s t ∧ recordsAccess s t (some w) ∧
        t.csr.dsStat &&& ~~~(0x3F1 : W64) = (s.csr.dsStat ||| flags) &&& ~~~(0x3F1 : W64)
      (s.csr.dcCtl.getLsbD 20 = false → A → ¬V → fault virtual 0x2000) ∧
      (s.csr.dcCtl.getLsbD 20 = false → ¬A → V → fault physical 0x80000) ∧
      (s.csr.dcCtl.getLsbD 20 = false → A → V → fault virtual 0x182000) ∧
      (s.csr.dcCtl.getLsbD 20 = true → A → V → fault physical 0x182000) ∧
      ((s.csr.dcCtl.getLsbD 20 = false ∧ ¬A ∧ ¬V) ∨ (s.csr.dcCtl.getLsbD 20 = true ∧ ¬(A ∧ V)) →
        matchPhase s (acc w p.2.2.1 p.2.2.2) ea pa = .ok ())

/-- DFAULT with ACV1. By instruction type, DVA virtual (R547, R229), where an erratum may set DA_MATCH and DV_MATCH too
(R680, U28): an atomic or non-cacheable access to I/O space, a lock
access to I/O or non-cacheable space, a SIMD access to I/O space. By the platform, DVA[47:0] physical (R158, R548): a read of memory
beyond MEM_SIZE or of an I/O register that does not exist, a store to cacheable memory beyond MEM_SIZE. A store to
non-cacheable memory or to I/O space at an illegal address does not fault: it retires, memory keeps every byte, the
machine check of INT_VEC[MCHK_VEC] is requested and a software fault is reported (R358). That every byte of an access must
exist is the model's choice (log 17). -/
def Obligations.AccessViolations : Prop :=
  (∀ (s : State) (ra rb : BitVec 5) (d : BitVec 16) (e : BitVec 12) (pa : PAddr), ready s .none → settledCsr s 0x48 →
     let fault : Instr → W64 → Option Bool → Prop := fun i dva wr =>
       ∃ t, exec i s = .next t ∧ faultsTo s t 0xC80 ∧ t.csr.dva = dva ∧ excSumIs t ra 0 ∧ keepsFetchRecords s t ∧
         recordsAccess s t wr ∧ dsFlagsAre t (s.csr.dsStat ||| 0x1000)
     let ea := s.ea12 rb e
     (∀ p ∈ [(Instr.ldwInc ra rb e, 4), (.ldwDec ra rb e, 4), (.ldwSet ra rb e, 4), (.ldlInc ra rb e, 8),
         (.ldlDec ra rb e, 8), (.ldlSet ra rb e, 8)],
       canonical ea = true → ea.toNat % p.2 = 0 → translateD s .normal true true ea = .page pa → pa.getLsbD 47 = true →
       fault p.1 ea none) ∧
     (∀ p ∈ [(Instr.stwNc ra rb e, 4, true), (.stlNc ra rb e, 8, true)] ++
         (if ra = 31#5 then [] else [(.ldwNc ra rb e, 4, false), (.ldlNc ra rb e, 8, false)]),
       canonical ea = true → ea.toNat % p.2.1 = 0 → translateD s .normal (!p.2.2) p.2.2 ea = .page pa →
       pa.getLsbD 47 = true → fault p.1 ea (some p.2.2)) ∧
     (∀ p ∈ [(Instr.lldw ra rb e, 4, false), (.lldl ra rb e, 8, false)] ++
         (if lstPaired s then [(.lstw ra rb e, 4, true), (.lstl ra rb e, 8, true)] else []),
       canonical ea = true → ea.toNat % p.2.1 = 0 → translateD s .normal (!p.2.2) p.2.2 ea = .page pa →
       pa.getLsbD 47 = true ∨ pa.getLsbD 46 = true → fault p.1 ea (some p.2.2)) ∧
     (ready s .simd → canonical (s.ea16 rb d) = true → pa.getLsbD 47 = true → ∀ p ∈ vectorAccesses ra rb d,
       (s.ea16 rb d).toNat % p.2.1 = 0 → translateD s .normal (!p.2.2.2) p.2.2.2 (s.ea16 rb d) = .page pa →
       fault p.1 (s.ea16 rb d) (some p.2.2.2))) ∧
  (∀ (s : State) (ra rb : BitVec 5) (d : BitVec 16) (pa : PAddr), ready s .none → settledCsr s 0x48 →
     s.armedData = none → s.par.fpga = false →
     let ea := s.ea16 rb d
     let fault : Instr → Bool → Prop := fun i wr =>
       ∃ t, exec i s = .next t ∧ t.pc = s.entry 0xC80 ∧ t.csr.excPc = sext53 s.pc ∧ t.csr.dva.extractLsb' 0 48 = pa ∧
         excSumIs t ra 0 ∧ recordsAccess s t (some wr) ∧ t.csr.dsStat.getLsbD 12 = true ∧ sameMem s t ∧
         t.x = s.x ∧ t.sr = s.sr ∧ t.v = s.v ∧ t.lock = { s.lock with valid := false }
     (∀ p ∈ [(Instr.ldbu ra rb d, 1), (.ldhu ra rb d, 2), (.ldw ra rb d, 4), (.ldl ra rb d, 8)], ra ≠ 31#5 →
       addressPhase s (loadAcc ra p.2) ea = .ok pa → matchPhase s (loadAcc ra p.2) ea pa = .ok () →
       (pa.getLsbD 47 = false → s.par.memSize < memAddr pa + p.2 → fault p.1 false) ∧
       (pa.getLsbD 47 = true → ioLegal s false (ioAddr pa) p.2 = false → fault p.1 false)) ∧
     (∀ p ∈ [(Instr.stb ra rb d, 1), (.sth ra rb d, 2), (.stw ra rb d, 4), (.stl ra rb d, 8)],
       let a : Acc := { storeAcc ra p.2 with data := some (s.getX ra).toNat }
       addressPhase s a ea = .ok pa → matchPhase s a ea pa = .ok () →
       (pa.getLsbD 47 = false → pa.getLsbD 46 = false → s.par.memSize < memAddr pa + p.2 → fault p.1 true) ∧
       ((pa.getLsbD 47 = false ∧ pa.getLsbD 46 = true ∧ s.par.memSize < memAddr pa + p.2) ∨
           (pa.getLsbD 47 = true ∧ ioLegal s true (ioAddr pa) p.2 = false) →
         ∃ t, exec p.1 s = .next t ∧ t.pc = s.pc + 4 ∧ sameMem s t ∧ t.out = .softwareFault :: s.out ∧
           t.csr.raw.getLsbD s.csr.mchkVec.toNat = true ∧ t.x = s.x ∧ t.sr = s.sr ∧ t.v = s.v)))

/-- A page fill is found again. After PRI_WCSR to DTB_PTE an access of the same process to the page named in DTB_TAG
hits the new entry, and with no other entry hit its physical address is the entry's frame and the address's offset;
after PRI_WCSR to ITB_PTE a fetch of the same process from the page named in ITB_TAG finds the new entry, whatever the
ITB held: its physical address is the frame of the datum and the address's offset where the mode may execute, and the
fetch is denied where it may not. In VM for addresses with bit 52 = 1 (R81, R141, R281, R282, R286, R300, R314). A write to
ITB_TAG or DTB_TAG only holds the page number for that fill: it changes no entry and nothing else (R80, R140). -/
def Obligations.TlbFills : Prop :=
  (∀ (s : State) (d va : W64), (s.mode = 1#2 → va.getLsbD 52 = true) → (∀ x ∈ s.dtb, dtbHits s.csr va x = false) →
     (va.extractLsb' 13 40) >>> (5 * (d.extractLsb' 5 2).toNat) =
       (s.csr.dtbTag.extractLsb' 13 40) >>> (5 * (d.extractLsb' 5 2).toNat) →
     ∃ t, writeCsr s 0x41 d = .ok t ∧
       let k := 13 + 5 * (d.extractLsb' 5 2).toNat
       let f := denyFlags (dtbEntryOf s.csr d) s.mode true false
       translateD t .normal true false va = if f = 0 then
         .page (BitVec.ofNat 48 ((d.extractLsb' 24 35).toNat * 8192 / 2 ^ k * 2 ^ k + va.toNat % 2 ^ k)) else
         .denied f (BitVec.ofNat 48 ((d.extractLsb' 24 35).toNat * 8192 / 2 ^ k * 2 ^ k + va.toNat % 2 ^ k))) ∧
  (∀ (s : State) (d va : W64), s.mode ≠ 0#2 → (s.mode = 1#2 → va.getLsbD 52 = true) →
     (va.extractLsb' 13 40) >>> (5 * (d.extractLsb' 5 2).toNat) =
       (s.csr.itbTag.extractLsb' 13 40) >>> (5 * (d.extractLsb' 5 2).toNat) →
     let may := (s.mode = 1#2 ∧ d.getLsbD 9 = true) ∨ (s.mode = 2#2 ∧ d.getLsbD 10 = true) ∨
       (s.mode = 3#2 ∧ d.getLsbD 11 = true)
     let k := 13 + 5 * (d.extractLsb' 5 2).toNat
     ∃ t, writeCsr s 0x01 d = .ok t ∧
       (may → translateI t va = .page
         (BitVec.ofNat 48 ((d.extractLsb' 13 34).toNat * 8192 / 2 ^ k * 2 ^ k + va.toNat % 2 ^ k))
         (d.getLsbD 4) s.csr.vpn s.csr.upn) ∧
       (¬may → translateI t va = .denied)) ∧
  (∀ (s t : State) (d : W64),
     (writeCsr s 0x00 d = .ok t → t.csr.itbTag.extractLsb' 13 40 = d.extractLsb' 13 40 ∧
       t = { s with csr := { s.csr with itbTag := t.csr.itbTag } }) ∧
     (writeCsr s 0x40 d = .ok t → t.csr.dtbTag.extractLsb' 13 40 = d.extractLsb' 13 40 ∧
       t = { s with csr := { s.csr with dtbTag := t.csr.dtbTag } }))

/-- The ten flushes of the translation buffers (R83–R87, R143–R147): IA leaves no entry; IV removes the entries of one
virtual machine, IVP those of them that are not shared, IU those of one process, IS those of the named page that the
current process would match. Exactly those entries go; for the first four of each buffer whatever the data is. -/
def Obligations.TlbFlushes : Prop :=
  ∀ (s : State) (d : W64),
    (∃ t, writeCsr s 0x02 d = .ok t ∧ ∀ k : Fin 32, t.itb[k] = none) ∧
    (∃ t, writeCsr s 0x03 d = .ok t ∧ ∀ (k : Fin 32) e, t.itb[k] = some e ↔ s.itb[k] = some e ∧ e.vpn ≠ s.csr.vpn) ∧
    (∃ t, writeCsr s 0x04 d = .ok t ∧ ∀ (k : Fin 32) e, t.itb[k] = some e ↔
      s.itb[k] = some e ∧ ¬(e.vpn = s.csr.vpn ∧ e.ks = false)) ∧
    (∃ t, writeCsr s 0x05 d = .ok t ∧ ∀ (k : Fin 32) e, t.itb[k] = some e ↔
      s.itb[k] = some e ∧ ¬(e.vpn = s.csr.vpn ∧ e.upn = s.csr.upn ∧ e.ks = false)) ∧
    (∃ t, writeCsr s 0x06 d = .ok t ∧ ∀ (k : Fin 32) e, t.itb[k] = some e ↔
      s.itb[k] = some e ∧ ¬(e.va >>> (5 * e.gh.toNat) = d.extractLsb' 13 40 >>> (5 * e.gh.toNat) ∧
        e.vpn = s.csr.vpn ∧ ((e.ks = false ∧ e.upn = s.csr.upn) ∨ e.ks = true))) ∧
    (∃ t, writeCsr s 0x42 d = .ok t ∧ t.dtb = []) ∧
    (∃ t, writeCsr s 0x43 d = .ok t ∧ ∀ e, e ∈ t.dtb ↔ e ∈ s.dtb ∧ e.vpn ≠ s.csr.dVpn) ∧
    (∃ t, writeCsr s 0x44 d = .ok t ∧ ∀ e, e ∈ t.dtb ↔ e ∈ s.dtb ∧ ¬(e.vpn = s.csr.dVpn ∧ e.ks = false)) ∧
    (∃ t, writeCsr s 0x45 d = .ok t ∧ ∀ e, e ∈ t.dtb ↔
      e ∈ s.dtb ∧ ¬(e.vpn = s.csr.dVpn ∧ e.upn = s.csr.dUpn ∧ e.ks = false)) ∧
    (∃ t, writeCsr s 0x46 d = .ok t ∧ ∀ e, e ∈ t.dtb ↔
      e ∈ s.dtb ∧ ¬(e.va >>> (5 * e.gh.toNat) = d.extractLsb' 13 40 >>> (5 * e.gh.toNat) ∧
        e.vpn = s.csr.dVpn ∧ ((e.ks = false ∧ e.upn = s.csr.dUpn) ∨ e.ks = true)))

/-! ### Privileged, atomic and lock accesses -/

/-- The privileged loads and stores in HM at a memory location. At an aligned address: the word, sign-extended, or the
longword in Ra, or the low bytes of Ra in memory, and nothing else changes but lock_valid; no alignment is checked and /p
does not translate (R420–R423, R425, R426; that the word is sign-extended is PRESUMED, log 13). At an address that is no
multiple of the width the access is made at the aligned unit around it and completes, with some value in Ra or some bytes
in that unit, which the spec leaves open; its checks take the address itself (R227, U23; the unit is log 27). That a
privileged access clears lock_valid is the model's choice (log 67). -/
def Obligations.PrivilegedAccesses : Prop :=
  ∀ (s : State) (ra rb : BitVec 5) (e : BitVec 12) (pa : PAddr), ready s .none → s.mode = 0#2 → isIo pa = false →
    let ea := s.ea12 rb e
    let w : W64 := (BitVec.ofNat 32 (readMem s.mem (memAddr pa) 4)).signExtend 64
    let l : W64 := BitVec.ofNat 64 (readMem s.mem (memAddr pa) 8)
    let x := (s.getX ra).toNat
    let below : Nat → Nat := fun n => memAddr (pa - BitVec.ofNat 48 (ea.toNat % n))
    (∀ p ∈ [(Instr.priLdwP ra rb e, AccForm.phys, 4, w), (.priLdwV ra rb e, .virt, 4, w), (.priLdwVpte ra rb e, .vpte, 4, w),
        (.priLdlP ra rb e, .phys, 8, l), (.priLdlV ra rb e, .virt, 8, l), (.priLdlVpte ra rb e, .vpte, 8, l)],
      (ea.toNat % p.2.2.1 = 0 → accessOk s (priLoadAcc ra p.2.1 p.2.2.1) ea pa →
        ∃ t, exec p.1 s = .next t ∧ resultX s.unlock t .read ra p.2.2.2) ∧
      (ea.toNat % p.2.2.1 ≠ 0 → accessOk s { priLoadAcc ra p.2.1 p.2.2.1 with back := ea.toNat % p.2.2.1 } ea pa →
        ∃ t v, exec p.1 s = .next t ∧ resultX s.unlock t .read ra v)) ∧
    (Memory.wf s.mem = true →
      ∀ p ∈ [(Instr.priStwP ra rb e, AccForm.phys, 4), (.priStwV ra rb e, .virt, 4), (.priStlP ra rb e, .phys, 8),
          (.priStlV ra rb e, .virt, 8)],
        (ea.toNat % p.2.2 = 0 → accessOk s { priStoreAcc ra p.2.1 p.2.2 with data := some x } ea pa →
          ∃ t, exec p.1 s = .next t ∧ resultStore s.unlock t (memAddr pa) p.2.2 x) ∧
        (ea.toNat % p.2.2 ≠ 0 →
          (∀ b, accessOk s { priStoreAcc ra p.2.1 p.2.2 with back := ea.toNat % p.2.2, data := some b } ea pa) →
          ∃ t, exec p.1 s = .next t ∧ storesOnly s.unlock t (below p.2.2) p.2.2))

/-- The atomics on a memory location, when INCO is not raised: Ra gets the old value (a word sign-extended: PRESUMED, log
13), memory old + 1, old - 1 or 1 cut to the width; no other byte or register changes but lock_valid (R463–R469; the
privileged forms R424, which never raise INCO). That the range is signed and that SET stores 1 is decision D18. A privileged
atomic at an address that is no multiple of the width is made at the aligned unit around it and completes, with some value
in Ra and some bytes in that unit (U23; the unit is log 27). That an atomic clears lock_valid (log 67; R455 and U33 say less)
and that it is counted as a read (log 46) is the model's choice. No write of ICR waits for a barrier (R746). -/
def Obligations.Atomics : Prop :=
  ∀ (s : State) (ra rb : BitVec 5) (e : BitVec 12) (pa : PAddr), ready s .none → settledCsr s 0xC3 →
    Memory.wf s.mem = true → isIo pa = false →
    let ea := s.ea12 rb e
    let ow := readMem s.mem (memAddr pa) 4
    let ol := readMem s.mem (memAddr pa) 8
    let quiet := s.csr.icr.getLsbD 0 = true ∨ s.csr.dcCtl.getLsbD 10 = false
    let frame : State → Nat → Nat → W64 → Prop := fun t lo n old =>
      sameMemOutside s t lo n ∧ writesOnlyX s t ra old ∧ retires s t .read ∧ t.icache = (s.store lo n 0).icache ∧
      t.unsynced = (s.store lo n 0).unsynced ∧
      t = { s.unlock with
        pc := t.pc, x := t.x, sr := t.sr, csr := t.csr, mem := t.mem, icache := t.icache, unsynced := t.unsynced
        track := t.track }
    let post : State → Nat → Nat → W64 → Prop := fun t n new old =>
      readMem t.mem (memAddr pa) n = new % 2 ^ (8 * n) ∧ frame t (memAddr pa) n old
    (accessOk s (atomicAcc ra 4) ea pa →
      ((quiet ∨ ow ≠ 2 ^ 31 - 1) →
        ∃ t, exec (.ldwInc ra rb e) s = .next t ∧ post t 4 (ow + 1) ((BitVec.ofNat 32 ow).signExtend 64)) ∧
      ((quiet ∨ ow ≠ 2 ^ 31) →
        ∃ t, exec (.ldwDec ra rb e) s = .next t ∧ post t 4 (ow + (2 ^ 32 - 1)) ((BitVec.ofNat 32 ow).signExtend 64)) ∧
      (∃ t, exec (.ldwSet ra rb e) s = .next t ∧ post t 4 1 ((BitVec.ofNat 32 ow).signExtend 64))) ∧
    (accessOk s (atomicAcc ra 8) ea pa →
      ((quiet ∨ ol ≠ 2 ^ 63 - 1) →
        ∃ t, exec (.ldlInc ra rb e) s = .next t ∧ post t 8 (ol + 1) (BitVec.ofNat 64 ol)) ∧
      ((quiet ∨ ol ≠ 2 ^ 63) →
        ∃ t, exec (.ldlDec ra rb e) s = .next t ∧ post t 8 (ol + (2 ^ 64 - 1)) (BitVec.ofNat 64 ol)) ∧
      (∃ t, exec (.ldlSet ra rb e) s = .next t ∧ post t 8 1 (BitVec.ofNat 64 ol))) ∧
    (s.mode = 0#2 → ea.toNat % 4 = 0 → accessOk s { atomicAcc ra 4 with form := .phys, align := 1 } ea pa →
      (∃ t, exec (.priLdwIncP ra rb e) s = .next t ∧ post t 4 (ow + 1) ((BitVec.ofNat 32 ow).signExtend 64)) ∧
      (∃ t, exec (.priLdwDecP ra rb e) s = .next t ∧ post t 4 (ow + (2 ^ 32 - 1)) ((BitVec.ofNat 32 ow).signExtend 64)) ∧
      (∃ t, exec (.priLdwSetP ra rb e) s = .next t ∧ post t 4 1 ((BitVec.ofNat 32 ow).signExtend 64))) ∧
    (s.mode = 0#2 → ea.toNat % 8 = 0 → accessOk s { atomicAcc ra 8 with form := .phys, align := 1 } ea pa →
      (∃ t, exec (.priLdlIncP ra rb e) s = .next t ∧ post t 8 (ol + 1) (BitVec.ofNat 64 ol)) ∧
      (∃ t, exec (.priLdlDecP ra rb e) s = .next t ∧ post t 8 (ol + (2 ^ 64 - 1)) (BitVec.ofNat 64 ol)) ∧
      (∃ t, exec (.priLdlSetP ra rb e) s = .next t ∧ post t 8 1 (BitVec.ofNat 64 ol))) ∧
    (s.mode = 0#2 →
      ∀ p ∈ [(Instr.priLdwIncP ra rb e, 4), (.priLdwDecP ra rb e, 4), (.priLdwSetP ra rb e, 4), (.priLdlIncP ra rb e, 8),
          (.priLdlDecP ra rb e, 8), (.priLdlSetP ra rb e, 8)],
        ea.toNat % p.2 ≠ 0 →
        accessOk s { atomicAcc ra p.2 with form := .phys, align := 1, back := ea.toNat % p.2 } ea pa →
        ∃ t v, exec p.1 s = .next t ∧ frame t (memAddr (pa - BitVec.ofNat 48 (ea.toNat % p.2))) p.2 v)

/-- INCO: with ICR[FD] = 0 and DC_CTL[ATOP_OVF_EN] = 1 an unprivileged increment of the largest, or decrement of the
smallest, signed value of the width completes and then enters ARITH with EXC_SUM[INCO], SWC from FPCR[1], REG = Ra
(R463, R561, R568). That the range is signed is decision D18; that the old word in Ra is sign-extended is PRESUMED (log
13). No write of ICR waits for a barrier (R746). -/
def Obligations.AtomicOverflow : Prop :=
  ∀ (s : State) (ra rb : BitVec 5) (e : BitVec 12) (pa : PAddr), ready s .none → settledCsr s 0xC3 →
    Memory.wf s.mem = true → isIo pa = false → s.csr.icr.getLsbD 0 = false → s.csr.dcCtl.getLsbD 10 = true →
    let ea := s.ea12 rb e
    ∀ p ∈ [(Instr.ldwInc ra rb e, 4, 2 ^ 31 - 1, 2 ^ 31), (.ldwDec ra rb e, 4, 2 ^ 31, 2 ^ 31 - 1),
        (.ldlInc ra rb e, 8, 2 ^ 63 - 1, 2 ^ 63), (.ldlDec ra rb e, 8, 2 ^ 63, 2 ^ 63 - 1)],
      accessOk s (atomicAcc ra p.2.1) ea pa → readMem s.mem (memAddr pa) p.2.1 = p.2.2.1 →
      ∃ t, exec p.1 s = .next t ∧ t.pc = s.entry 0xB80 ∧ t.csr.excPc = sext53 s.pc ∧
        excSumIs t ra (BitVec.twoPow 64 14 ||| (BitVec.ofBool (!s.fpcr.getLsbD 1)).setWidth 64) ∧
        readMem t.mem (memAddr pa) p.2.1 = p.2.2.2 ∧ sameMemOutside s t (memAddr pa) p.2.1 ∧
        t.x = (s.setX ra (loadValue p.2.1 p.2.2.1)).x ∧ t.sr = (s.setX ra (loadValue p.2.1 p.2.2.1)).sr ∧
        t.v = s.v ∧ t.fpcr = s.fpcr ∧ t.lock = { s.lock with valid := false }

/-- The lock loads LLDW and LLDL: the value in Ra (LLDW sign-extends the word: PRESUMED, log 13), and the lock register
takes the physical address and the granularity with lock_valid = 1; lock_flag and lock_success keep their values (R456,
R457). -/
def Obligations.LockLoads : Prop :=
  ∀ (s : State) (ra rb : BitVec 5) (e : BitVec 12) (pa : PAddr), ready s .none →
    let post : State → Bool → W64 → Prop := fun t long w =>
      t.lock.valid = true ∧ t.lock.addr = pa ∧ t.lock.long = long ∧ t.lock.flag = s.lock.flag ∧
      t.lock.success = s.lock.success ∧ t.lock.steps = 0 ∧ writesOnlyX s t ra w ∧ retires s t .read ∧ sameMem s t ∧
      t = { s with pc := t.pc, x := t.x, sr := t.sr, csr := t.csr, lock := t.lock }
    (accessOk s { loadAcc ra 4 with lock := true } (s.ea12 rb e) pa →
      ∃ t, exec (.lldw ra rb e) s = .next t ∧
        post t false ((BitVec.ofNat 32 (readMem s.mem (memAddr pa) 4)).signExtend 64)) ∧
    (accessOk s { loadAcc ra 8 with lock := true } (s.ea12 rb e) pa →
      ∃ t, exec (.lldl ra rb e) s = .next t ∧ post t true (BitVec.ofNat 64 (readMem s.mem (memAddr pa) 8)))

/-- The lock stores LSTW and LSTL in a legal slot: with lock_valid, lock_flag, the same address and granularity, the
line still held and at most 16 instructions since the lock load (R755; log 67) they store Ra and set lock_success;
otherwise they store nothing and clear it. Either way lock_valid and lock_flag are cleared and no register changes
(R458, R459; `line` is the oracle of D9, log 40). -/
def Obligations.LockStores : Prop :=
  ∀ (s : State) (ra rb : BitVec 5) (e : BitVec 12) (pa : PAddr), ready s .none → Memory.wf s.mem = true →
    lstPaired s = true →
    ∀ p ∈ [(Instr.lstw ra rb e, 4, false), (.lstl ra rb e, 8, true)],
      accessOk s { storeAcc ra p.2.1 with lock := true, data := some (s.getX ra).toNat } (s.ea12 rb e) pa →
      ((s.lock.valid = true ∧ s.lock.flag = true ∧ s.lock.addr = pa ∧ s.lock.long = p.2.2 ∧ s.lock.line = true ∧
          s.lock.steps ≤ 16) →
        ∃ t, exec p.1 s = .next t ∧
          readMem t.mem (memAddr pa) p.2.1 = (s.getX ra).toNat % 2 ^ (8 * p.2.1) ∧
          sameMemOutside s t (memAddr pa) p.2.1 ∧ retires s t .write ∧
          t.icache = (s.store (memAddr pa) p.2.1 0).icache ∧ t.unsynced = (s.store (memAddr pa) p.2.1 0).unsynced ∧
          t = { s with
            pc := t.pc, csr := t.csr, mem := t.mem, icache := t.icache, unsynced := t.unsynced, track := t.track
            lock := { s.lock with valid := false, flag := false, success := true } }) ∧
      (¬(s.lock.valid = true ∧ s.lock.flag = true ∧ s.lock.addr = pa ∧ s.lock.long = p.2.2 ∧ s.lock.line = true ∧
          s.lock.steps ≤ 16) →
        ∃ t, exec p.1 s = .next t ∧ sameMem s t ∧ retires s t .write ∧
          t = { s with
            pc := t.pc, csr := t.csr, lock := { s.lock with valid := false, flag := false, success := false } })

/-- WR_F writes bit 0 of Ra to lock_flag and nothing else; RD_F in a legal slot reads lock_success into Ra, and with
Ra = R31 it is a no-operation in every slot (R460, R461, R462). -/
def Obligations.LockFlagAccess : Prop :=
  ∀ (s : State) (ra : BitVec 5), ready s .none →
    (∃ t, exec (.wrF ra) s = .next t ∧ retires s t .plain ∧ sameMem s t ∧
      t = { s with pc := t.pc, csr := t.csr, lock := { s.lock with flag := (s.getX ra).getLsbD 0 } }) ∧
    (ra ≠ 31#5 → rdFPaired s = true →
      ∃ t, exec (.rdF ra) s = .next t ∧ resultX s t .plain ra (if s.lock.success then 1 else 0)) ∧
    (ra = 31#5 → ∃ t, exec (.rdF ra) s = .next t ∧ resultNone s t .nop)

/-- The pairing of lock stores and RD_F by their words in the aligned group of four (R460, R554): a lock store in slot
1 or 3, or followed by no RD_F with a destination other than R31, and such an RD_F in slot 0 or 2, or not preceded by
a lock store, raise OPCDEC with IGL_INST[LOCK_IGL] = 1. -/
def Obligations.LockPairing : Prop :=
  ∀ (s : State) (ra rb : BitVec 5) (e : BitVec 12), unimplemented s = false →
    let wordAt : Nat → Option Instr := fun k => (decodeFetched s.par (s.fgroup.extractLsb' (32 * k) 32)).toOption
    let k := (s.pc.toNat / 4) % 4
    ((k % 2 = 1 ∨ ∀ r, r ≠ 31#5 → wordAt (k + 1) ≠ some (.rdF r)) →
      ∀ i ∈ [Instr.lstw ra rb e, .lstl ra rb e],
        ∃ t, exec i s = .next t ∧ faultsTo s t 0xD80 ∧ t.csr.iglInst = 1#32 ++ s.word ∧ (∃ r, excSumIs t r 0)) ∧
    (ra ≠ 31#5 → (k % 2 = 0 ∨ ∀ r b d, wordAt (k - 1) ≠ some (.lstw r b d) ∧ wordAt (k - 1) ≠ some (.lstl r b d)) →
      ∃ t, exec (.rdF ra) s = .next t ∧ faultsTo s t 0xD80 ∧ t.csr.iglInst = 1#32 ++ s.word ∧ (∃ r, excSumIs t r 0))

/-! ### Cache control -/

/-- The fill, flush and evict instructions on a readable and writable line of cacheable memory (no debug match on the
line; for a flush or an evict no error response waiting for it): they retire, ask the outside for the line of 128 bytes,
and change no register and no byte of memory (R470–R475; what the outside does with the request is out of the model).
That one which is sent clears lock_valid, being a memory access, is the model's choice (log 67). In non-cacheable or I/O
space they are no-operations (R235, R236, R392), which counter 0 still counts as memory accesses (R470). A fill whose line misses the DTB is dropped with DC_CTL[F_DTB_MISS] = 0, the reset value, and enters the miss
handler with 1; a fill at a bad address is dropped (R316, R470, R532; D19 for the dropped faults). A flush or an evict
whose line misses the DTB retires with DC_CTL[EVICTD_ERR_EN] = 0 and enters the miss handler with 1 (R470). That at a
bad address it enters DFAULT with BAD_DVA whatever that bit is, that FLUSHD is physical in HM, that the others are
translated in every mode, and whether they are tested for reading or for writing, is the model's choice (log 37). -/
def Obligations.CacheOperations : Prop :=
  (∀ (s : State) (rb : BitVec 5) (d : BitVec 16) (pa : PAddr), ready s .none →
     let va := s.ea16 rb d &&& ~~~0x7F
     let memory := isIo pa = false ∧ pa.getLsbD 46 = false ∧ memAddr pa + 128 ≤ s.par.memSize
     let maps := canonical va = true ∧ ∀ r w, translateD s .normal r w va = .page pa
     let quiet := ∀ r w, matchPhase s { ra := s.word.extractLsb' 21 5, isR := r, isW := w, size := 1, align := 1 } va pa = .ok ()
     let sent : State → BitVec 3 → EventClass → Prop := fun t op e =>
       retires s t e ∧ sameMem s t ∧ (e = .read → t.track = s.track) ∧ t = { s.unlock with
         pc := t.pc, csr := t.csr, track := t.track, out := .cacheOp op (memAddr pa / 128) :: s.out }
     (memory → maps → quiet →
       (∃ t, exec (.fetchd rb d) s = .next t ∧ sent t 0 .read) ∧
       (∃ t, exec (.fetchdE rb d) s = .next t ∧ sent t 1 .read) ∧
       (s.armedData = none →
         (s.csr.cpCtl.getLsbD 3 = true → ∃ t, exec (.evictdl rb d) s = .next t ∧ sent t 3 .write) ∧
         (s.csr.cpCtl.getLsbD 4 = true → ∃ t, exec (.evictdg rb d) s = .next t ∧ sent t 4 .write) ∧
         (s.csr.cpCtl.getLsbD 3 = true → s.mode ≠ 0#2 → ∃ t, exec (.flushd rb d) s = .next t ∧ sent t 2 .write))) ∧
     (memory → s.armedData = none → s.csr.cpCtl.getLsbD 3 = true → s.mode = 0#2 → s.csr.daMatch.extractLsb' 53 2 = 0 →
       pa = va.setWidth 48 → ∃ t, exec (.flushd rb d) s = .next t ∧ sent t 2 .write) ∧
     (isIo pa = true ∨ pa.getLsbD 46 = true → maps →
       ∀ i ∈ [Instr.fetchd rb d, .fetchdE rb d] ++ (if s.csr.cpCtl.getLsbD 4 then [.evictdg rb d] else []) ++
           (if s.csr.cpCtl.getLsbD 3 then [.evictdl rb d] ++ (if s.mode = 0#2 then [] else [.flushd rb d]) else []),
         ∃ t, exec i s = .next t ∧
           resultNone s t (if i = .fetchd rb d ∨ i = .fetchdE rb d then .nopRead else .nopWrite)) ∧
     (isIo pa = true ∨ pa.getLsbD 46 = true → s.csr.cpCtl.getLsbD 3 = true → s.mode = 0#2 → pa = va.setWidth 48 →
       ∃ t, exec (.flushd rb d) s = .next t ∧ resultNone s t .nopWrite)) ∧
  (∀ (s : State) (rb : BitVec 5) (d : BitVec 16), ready s .none →
     let va := s.ea16 rb d &&& ~~~0x7F
     let misses := canonical va = true ∧ ∀ r w, translateD s .normal r w va = .miss
     let handler : State → Prop := fun t => t.csr.dva = va ∧ faultsTo s t (if va.getLsbD 52 then 0x900 else 0x880)
     (∀ i ∈ [Instr.fetchd rb d, .fetchdE rb d],
       (canonical va = false → ∃ t, exec i s = .next t ∧ resultNone s t .nopRead) ∧
       (misses → s.csr.dcCtl.getLsbD 16 = false → ∃ t, exec i s = .next t ∧ resultNone s t .nopRead) ∧
       (misses → s.csr.dcCtl.getLsbD 16 = true → ∃ t, exec i s = .next t ∧ handler t)) ∧
     (∀ i ∈ (if s.csr.cpCtl.getLsbD 4 then [Instr.evictdg rb d] else []) ++
         (if s.csr.cpCtl.getLsbD 3 then [.evictdl rb d] ++ (if s.mode = 0#2 then [] else [.flushd rb d]) else []),
       (misses → s.csr.dcCtl.getLsbD 5 = false → ∃ t, exec i s = .next t ∧ resultNone s t .write) ∧
       (misses → s.csr.dcCtl.getLsbD 5 = true → ∃ t, exec i s = .next t ∧ handler t) ∧
       (canonical va = false → settledCsr s 0x48 → ∃ t, exec i s = .next t ∧ faultsTo s t 0xC80 ∧ t.csr.dva = va ∧
         t.csr.dsStat.getLsbD 11 = true)))

/-! ### Vector loads and stores -/

/-- The vector loads. Aligned: VLDD and VLDD_NC put eight bytes into each lane, VLDS a widened single, LDDE, LDSE and LDWE
one element into every lane (R839, R842–R847). Unaligned: the bytes below the next 32-byte boundary come from one access,
the rest from a second with its own translation, and both go into the register as one vector (R848–R850; the split is the
model's choice, log 71). The layouts are general knowledge (log 15). Nothing else changes but lock_valid: that a memory access
clears it is the model's choice (log 67; R455 and U33 say less). -/
def Obligations.VectorLoads : Prop :=
  (∀ (s : State) (fa rb : BitVec 5) (d : BitVec 16) (pa : PAddr), ready s .simd → fa ≠ 31#5 →
     let ea := s.ea16 rb d
     let u := s.unlock
     let m4 : Nat → BitVec 32 := fun i => BitVec.ofNat 32 (readMem s.mem (memAddr pa + 4 * i) 4)
     let m8 : Nat → W64 := fun i => BitVec.ofNat 64 (readMem s.mem (memAddr pa + 8 * i) 8)
     (accessOk s (vecLoadAcc fa 32 32 8) ea pa →
       ∃ t, exec (.vldd fa rb d) s = .next t ∧ resultV u t .read fa (fun i => m8 i.val)) ∧
     (accessOk s { vecLoadAcc fa 32 32 8 with nc := true } ea pa →
       ∃ t, exec (.vlddNc fa rb d) s = .next t ∧ resultV u t .read fa (fun i => m8 i.val)) ∧
     (accessOk s (vecLoadAcc fa 16 16 4) ea pa →
       ∃ t, exec (.vlds fa rb d) s = .next t ∧ resultV u t .read fa (fun i => singleToReg (m4 i.val))) ∧
     (accessOk s (vecLoadAcc fa 8 8 0) ea pa →
       ∃ t, exec (.ldde fa rb d) s = .next t ∧ resultV u t .read fa (fun _ => m8 0)) ∧
     (accessOk s (vecLoadAcc fa 4 4 0) ea pa →
       (∃ t, exec (.ldse fa rb d) s = .next t ∧ resultV u t .read fa (fun _ => singleToReg (m4 0))) ∧
       (∃ t, exec (.ldwe fa rb d) s = .next t ∧ resultV u t .read fa (fun _ => m4 0 ++ m4 0)))) ∧
  (∀ (s : State) (fa rb : BitVec 5) (d : BitVec 16) (pa pb : PAddr), ready s .simd → fa ≠ 31#5 →
     let ea := s.ea16 rb d
     let u := s.unlock
     let two : Acc → Nat → Nat := fun a k =>
       readMem s.mem (memAddr pa) k + readMem s.mem (memAddr pb) (a.size - k) * 2 ^ (8 * k)
     let oks : Acc → Nat → Prop := fun a k => accessOk s { a with size := k } ea pa ∧
       (k < a.size → partOk s { a with size := a.size - k, align := 1 } (ea + BitVec.ofNat 64 k) pb)
     let k32 := min 32 (32 - ea.toNat % 32)
     let k16 := min 16 (32 - ea.toNat % 32)
     (oks (vecLoadAcc fa 32 4 0) k32 → ∃ t, exec (.vldwU fa rb d) s = .next t ∧
       resultV u t .read fa (fun i => BitVec.ofNat 64 (two (vecLoadAcc fa 32 4 0) k32 / 2 ^ (64 * i.val)))) ∧
     (oks (vecLoadAcc fa 32 8 0) k32 → ∃ t, exec (.vlddU fa rb d) s = .next t ∧
       resultV u t .read fa (fun i => BitVec.ofNat 64 (two (vecLoadAcc fa 32 8 0) k32 / 2 ^ (64 * i.val)))) ∧
     (oks (vecLoadAcc fa 16 4 0) k16 → ∃ t, exec (.vldsU fa rb d) s = .next t ∧
       resultV u t .read fa
         (fun i => singleToReg (BitVec.ofNat 32 (two (vecLoadAcc fa 16 4 0) k16 / 2 ^ (32 * i.val))))))

/-- The vector stores. VSTD and VSTD_NC store the four lanes at rising addresses, VSTS the four lanes as singles
(R840, R852–R854). The UL forms store the part of the vector below the next 32-byte boundary, the UH forms, addressed
by the vector's end, the part above it: its bytes end where the effective address stands (R852, R855–R860; which bytes is
general knowledge, log 15). That a UH form takes its checks and its matches at that address, and that with nothing above the
boundary it is checked in the same way and stores nothing, is the model's choice (log 71). No byte outside the stored ones and
no register changes. That a memory access clears lock_valid is the model's choice (log 67; R455 and U33 say less). -/
def Obligations.VectorStores : Prop :=
  (∀ (s : State) (fa rb : BitVec 5) (d : BitVec 16) (pa : PAddr), ready s .simd → Memory.wf s.mem = true →
     let ea := s.ea16 rb d
     let v := s.getV fa
     (∀ p ∈ [(Instr.vstd fa rb d, false), (.vstdNc fa rb d, true)],
       accessOk s { vecStoreAcc fa 32 32 8 with data := some v.toNat, nc := p.2 } ea pa →
       ∃ t, exec p.1 s = .next t ∧ storesOnly s.unlock t (memAddr pa) 32 ∧
         ∀ i, i < 4 → BitVec.ofNat 64 (readMem t.mem (memAddr pa + 8 * i) 8) = lane v i) ∧
     (accessOk s { vecStoreAcc fa 16 16 4 with data := some (vecToSingles v) } ea pa →
       ∃ t, exec (.vsts fa rb d) s = .next t ∧ storesOnly s.unlock t (memAddr pa) 16 ∧
         ∀ i, i < 4 → BitVec.ofNat 32 (readMem t.mem (memAddr pa + 4 * i) 4) = regToSingle (lane v i))) ∧
  (∀ (s : State) (fa rb : BitVec 5) (d : BitVec 16) (pa : PAddr), ready s .simd → Memory.wf s.mem = true →
     let ea := s.ea16 rb d
     let v := (s.getV fa).toNat
     let g := vecToSingles (s.getV fa)
     (∀ p ∈ [(Instr.vstwUl fa rb d, vecStoreAcc fa 32 4 0, v), (.vstdUl fa rb d, vecStoreAcc fa 32 8 0, v),
         (.vstsUl fa rb d, vecStoreAcc fa 16 4 0, g)],
       let k := min p.2.1.size (32 - ea.toNat % 32)
       accessOk s { p.2.1 with size := k, data := some p.2.2 } ea pa →
       ∃ t, exec p.1 s = .next t ∧ resultStore s.unlock t (memAddr pa) k p.2.2) ∧
     (∀ p ∈ [(Instr.vstwUh fa rb d, vecStoreAcc fa 32 4 0, v), (.vstdUh fa rb d, vecStoreAcc fa 32 8 0, v),
         (.vstsUh fa rb d, vecStoreAcc fa 16 4 0, g)],
       let k := ea.toNat % 32
       ((k = 0 ∨ p.2.1.size ≤ k) → addressPhase s p.2.1 ea = .ok pa → matchPhase s p.2.1 ea pa = .ok () →
         ∃ t, exec p.1 s = .next t ∧ resultNone s.unlock t .write) ∧
       (0 < k → k < p.2.1.size →
         let high := p.2.2 / 2 ^ (8 * (p.2.1.size - k))
         accessOk s { p.2.1 with size := k, data := some high, back := k } ea pa →
         ∃ t, exec p.1 s = .next t ∧ resultStore s.unlock t (memAddr (pa - BitVec.ofNat 48 k)) k high)))

/-! ### Moves between and inside the register files -/

/-- VINSF and VINSW replace one 64-bit lane or one 32-bit element of Vb by the low bits of Fa, VCPYF copies Fa into
every lane, VEXTF and VEXTW bring one lane or element down; a literal that names no lane leaves the result free
(R877–R881; the operations are general knowledge, logs 12 and 53). FIMOVD and IFMOVD move all 64 bits between the files,
the S forms a value the spec leaves open (R882, R883); whether they need the floating enables is the parameter of log
17. -/
def Obligations.RegisterMoves : Prop :=
  (∀ (s : State) (fa fb fc : BitVec 5) (l : BitVec 8), ready s .simd →
     (l.toNat < 4 → ∃ t, exec (.vinsf fa fb l fc) s = .next t ∧
       resultV s t .plain fc (fun i => if i.val = l.toNat then s.getF fa else lane (s.getV fb) i.val)) ∧
     (l.toNat < 8 → ∃ t, exec (.vinsw fa fb l fc) s = .next t ∧
       resultV s t .plain fc (fun i =>
         (if 2 * i.val + 1 = l.toNat then (s.getF fa).setWidth 32 else (lane (s.getV fb) i.val).extractLsb' 32 32) ++
         (if 2 * i.val = l.toNat then (s.getF fa).setWidth 32 else (lane (s.getV fb) i.val).setWidth 32))) ∧
     (∃ t, exec (.vcpyf fa fc) s = .next t ∧ resultV s t .plain fc (fun _ => s.getF fa)) ∧
     (l.toNat < 4 → ∃ t, exec (.vextf fa l fc) s = .next t ∧ resultF s t .plain fc (lane (s.getV fa) l.toNat)) ∧
     (l.toNat < 8 → ∃ t w, exec (.vextw fa l fc) s = .next t ∧ resultF s t .plain fc w ∧
       w.setWidth 32 = (s.getV fa).extractLsb' (32 * l.toNat) 32) ∧
     (∃ t w, exec (.vinsf fa fb l fc) s = .next t ∧ resultV s t .plain fc w) ∧
     (∃ t w, exec (.vinsw fa fb l fc) s = .next t ∧ resultV s t .plain fc w) ∧
     (∃ t w, exec (.vextf fa l fc) s = .next t ∧ resultF s t .plain fc w) ∧
     (∃ t w, exec (.vextw fa l fc) s = .next t ∧ resultF s t .plain fc w)) ∧
  (∀ (s : State) (fa ra : BitVec 5), ready s (moveClass s.par) →
     (∃ t, exec (.fimov .d fa ra) s = .next t ∧ resultX s t .plain ra (s.getF fa)) ∧
     (∃ t, exec (.ifmov .d ra fa) s = .next t ∧ resultF s t .plain fa (s.getX ra)) ∧
     (∃ t w, exec (.fimov .s fa ra) s = .next t ∧ resultX s t .plain ra w) ∧
     (∃ t w, exec (.ifmov .s ra fa) s = .next t ∧ resultF s t .plain fa w))

/-! ### Floating point -/

/-- FPCR: RFPCR reads the stored bits with SUM computed, WFPCR writes every stored bit but EXC_CTL, SETFPECn writes
EXC_CTL only (R205, R449–R454). SUM reads 1 exactly when one of the 23 status bits is 1, and the reserved bits read 0
(R200, R202). -/
def Obligations.FpcrAccess : Prop :=
  (∀ (s : State) (fa : BitVec 5), ready s .scalar →
     (∃ t, exec (.rfpcr fa) s = .next t ∧ resultF s t .plain fa (readFpcr s.fpcr)) ∧
     (∃ t, exec (.wfpcr fa) s = .next t ∧ retires s t .plain ∧ sameMem s t ∧
       t = { s with pc := t.pc, csr := t.csr, fpcr := t.fpcr } ∧
       t.fpcr.extractLsb' 0 2 = s.fpcr.extractLsb' 0 2 ∧
       ∀ n, 2 ≤ n → t.fpcr.getLsbD n = ((s.getF fa).getLsbD n && fpcrStored.getLsbD n)) ∧
     (∀ p ∈ [(Instr.setfpec0, 0#2), (.setfpec1, 1#2), (.setfpec2, 2#2), (.setfpec3, 3#2)],
       ∃ t, exec p.1 s = .next t ∧ retires s t .plain ∧ sameMem s t ∧
         t = { s with pc := t.pc, csr := t.csr, fpcr := s.fpcr.extractLsb' 2 62 ++ p.2 })) ∧
  (∀ w : W64,
     ((readFpcr w).getLsbD 63 = true ↔ ∃ n, ((52 ≤ n ∧ n ≤ 57) ∨ (36 ≤ n ∧ n ≤ 40) ∨ (20 ≤ n ∧ n ≤ 24) ∨ (4 ≤ n ∧ n ≤ 8)) ∧
       w.getLsbD n = true) ∧
     (∀ n, n < 63 → (readFpcr w).getLsbD n = (w.getLsbD n && fpcrStored.getLsbD n)))

/-- The sum of two finite doubles, none denormal, rounded by FPCR[DYN] (0 toward zero, 1 down, 2 to nearest even, 3 up) to
53 bits, in units of 2^-1074: OVF and INE where the rounded magnitude is 2^1024 or more, UNF and INE with result true zero
where it underflows, else the rounded value, INE where it is not exact (R563, R565, R566); an operand that is not finite
raises INV (R200, R564). That a sum underflows exactly where, before it is rounded, it is not 0 and its magnitude is below
2^-1022, and that its true zero is then +0 whatever its sign, is the model's choice (log 23; R565 says only 'the smallest
finite value' and 'true zero'). With EXC_CTL[1] = 0 and DNZ = 1 a denormal operand acts as the zero of its sign; with
EXC_CTL[1] = 1 or DNZ = 0 it takes the Denormal trap, which raises no status bit (R204, R564). So FADDD and VADDD are exact where the sum is a double: with finite operands, none denormal and
none holding integer data, the result is that double, FPCR does not change and no trap is taken, in every rounding mode
(R875, R876; that the operation is the IEEE sum is general knowledge, log 23). FADDD with a denormal operand and
FPCR[DNZ] = 0 or EXC_CTL[1] = 1 completes with a free value in Fc, leaves FPCR alone and enters ARITH with EXC_SUM[INV0], SWC
from FPCR[1] and REG = Fc (R561, R564, R570, R572). -/
def Obligations.FloatingAdds : Prop :=
  (∀ (ctr i : Nat) (fpcr a b : W64), isDenormal a = false → isDenormal b = false →
     let r := addElement ctr fpcr i false a b
     (expField a = 0x7FF ∨ expField b = 0x7FF →
       r.inv = true ∧ r.den = false ∧ r.ovf = false ∧ r.unf = false ∧ r.ine = false) ∧
     (expField a ≠ 0x7FF → expField b ≠ 0x7FF →
       let e := exactValue a + exactValue b
       let m := e.natAbs
       let u := 2 ^ (m.log2 - 52)
       let up := match fpcr.extractLsb' 58 2 with
         | 0#2 => false
         | 1#2 => decide (e < 0) && decide (m % u ≠ 0)
         | 2#2 => decide (u < 2 * (m % u)) || (decide (2 * (m % u) = u) && decide (m / u % 2 = 1))
         | _ => decide (0 < e) && decide (m % u ≠ 0)
       let rounded : Nat := (m / u + if up then 1 else 0) * u
       r.inv = false ∧ r.den = false ∧ r.dze = false ∧ r.ovi = false ∧
       (m = 0 → exactValue r.value = 0 ∧ r.ovf = false ∧ r.unf = false ∧ r.ine = false) ∧
       (0 < m → m < 2 ^ 52 → r.value = 0 ∧ r.unf = true ∧ r.ine = true ∧ r.ovf = false) ∧
       (2 ^ 52 ≤ m → r.unf = false ∧ (r.ovf = true ↔ 2 ^ 2098 ≤ rounded) ∧
         (rounded < 2 ^ 2098 → expField r.value ≠ 0 ∧ expField r.value ≠ 0x7FF ∧
           exactValue r.value = (if e < 0 then -(rounded : Int) else (rounded : Int)) ∧ r.ine = decide (m % u ≠ 0)) ∧
         (2 ^ 2098 ≤ rounded → r.ine = true)))) ∧
  (∀ (ctr i : Nat) (fpcr a b : W64), fpcr.getLsbD 1 = false → fpcr.getLsbD 48 = true →
     (isDenormal a = true → addElement ctr fpcr i false a b = addElement ctr fpcr i false (a &&& 0x8000000000000000) b) ∧
     (isDenormal b = true → addElement ctr fpcr i false a b = addElement ctr fpcr i false a (b &&& 0x8000000000000000))) ∧
  (∀ (ctr i : Nat) (fpcr a b : W64), fpcr.getLsbD 1 = true ∨ fpcr.getLsbD 48 = false →
     isDenormal a = true ∨ isDenormal b = true →
     let r := addElement ctr fpcr i false a b
     r.den = true ∧ r.inv = false ∧ r.dze = false ∧ r.ovf = false ∧ r.unf = false ∧ r.ine = false ∧ r.ovi = false) ∧
  (∀ (s : State) (fa fb fc : BitVec 5),
     let good : W64 → W64 → W64 → Prop := fun a b w =>
       expField a ≠ 0x7FF ∧ expField b ≠ 0x7FF ∧ isDenormal a = false ∧ isDenormal b = false ∧
       expField w ≠ 0 ∧ expField w ≠ 0x7FF ∧ exactValue a + exactValue b = exactValue w
     (∀ w, ready s .scalar → (s.getInts fa).getLsbD 0 = false → (s.getInts fb).getLsbD 0 = false →
       good (s.getF fa) (s.getF fb) w →
       ∃ t, exec (.faddd fa fb fc) s = .next t ∧ resultF s t .plain fc w) ∧
     (∀ l : Fin 4 → W64, ready s .simd → s.getInts fa = 0 → s.getInts fb = 0 →
       (∀ i : Fin 4, good (lane (s.getV fa) i.val) (lane (s.getV fb) i.val) (l i)) →
       ∃ t, exec (.vaddd fa fb fc) s = .next t ∧ resultV s t .plain fc l)) ∧
  (∀ (s : State) (fa fb fc : BitVec 5), ready s .scalar →
     (s.getInts fa).getLsbD 0 = false → (s.getInts fb).getLsbD 0 = false →
     (isDenormal (s.getF fa) = true ∨ isDenormal (s.getF fb) = true) → s.fpcr.getLsbD 48 = false ∨ s.fpcr.getLsbD 1 = true →
     ∃ t w, exec (.faddd fa fb fc) s = .next t ∧ t.pc = s.entry 0xB80 ∧ t.csr.excPc = sext53 s.pc ∧
       excSumIs t fc (BitVec.twoPow 64 1 ||| (BitVec.ofBool (!s.fpcr.getLsbD 1)).setWidth 64) ∧
       writesOnlyF s t fc w ∧ t.fpcr = s.fpcr ∧ t.x = s.x ∧ t.sr = s.sr ∧ sameMem s t ∧
       t.lock = { s.lock with valid := false })

/-- What FADDD and VADDD do with what their elements raise (R561, R569, R570, R572, R206). FPCR ORs in the status bits
of every element, trap or not. A raised INV or OVF traps with EXC_CTL[1] = 1 or its disable bit 0, UNF with EXC_CTL = 2
or, with EXC_CTL[1] = 0, UNFD = 0 or UNDZ = 0, INE with EXC_CTL = 0 and INED = 0. With no trap the next instruction
follows; with one the instruction enters ARITH with the bits of all of them, SWC from FPCR[1] and REG = Fc. The
destination takes the element's value, some value where an INV or OVF trap leaves it open (U25). Operands that hold
integer data, in any lane that the instruction reads, leave the whole destination and every status bit open (U6, log 22):
the instruction completes with these too. -/
def Obligations.FloatingTraps : Prop :=
  ∀ (s : State) (fa fb fc : BitVec 5),
    let ctl := s.fpcr.extractLsb' 0 2
    let on : Nat → Bool := fun n => s.fpcr.getLsbD n
    let tInv : FpResult → Bool := fun r => r.den || (r.inv && (ctl.getLsbD 1 || !on 49))
    let tOvf : FpResult → Bool := fun r => r.ovf && (ctl.getLsbD 1 || !on 51)
    let tUnf : FpResult → Bool := fun r =>
      r.unf && (decide (ctl = 2#2) || (!ctl.getLsbD 1 && (!on 61 || !on 60)))
    let tIne : FpResult → Bool := fun r => r.ine && decide (ctl = 0#2) && !on 62
    let one : Nat → Bool → W64 := fun n b => if b then BitVec.twoPow 64 n else 0
    let traps : Nat → FpResult → W64 := fun lo r =>
      one lo (tInv r) ||| one (lo + 2) (tOvf r) ||| one (lo + 3) (tUnf r) ||| one (lo + 4) (tIne r)
    let status : Nat → FpResult → W64 := fun lo r => if r.den then 0 else
      one lo r.inv ||| one (lo + 2) r.ovf ||| one (lo + 3) r.unf ||| one (lo + 4) r.ine
    let ends : State → W64 → W64 → Prop := fun t st bits =>
      t.fpcr = s.fpcr ||| st ∧ t.x = s.x ∧ t.sr = s.sr ∧ sameMem s t ∧
      (bits = 0 → t.pc = s.pc + 4 ∧ t.csr = (s.count .plain).csr ∧ t.lock = s.lock) ∧
      (bits ≠ 0 → t.pc = s.entry 0xB80 ∧ t.csr.excPc = sext53 s.pc ∧ t.lock = { s.lock with valid := false } ∧
        excSumIs t fc (bits ||| one 0 (!ctl.getLsbD 1)))
    let value : FpResult → W64 → Prop := fun r w => tInv r = false → tOvf r = false → w = r.value
    (ready s .scalar →
      let r := addElement s.freeCtr s.fpcr 0 ((s.getInts fa).getLsbD 0 || (s.getInts fb).getLsbD 0) (s.getF fa) (s.getF fb)
      ∃ t w, exec (.faddd fa fb fc) s = .next t ∧ ends t (status 52 r) (traps 1 r) ∧ writesOnlyF s t fc w ∧ value r w) ∧
    (ready s .simd →
      let int := decide (s.getInts fa ||| s.getInts fb ≠ 0#4)
      let r : Fin 4 → FpResult := fun i =>
        addElement s.freeCtr s.fpcr i.val int (lane (s.getV fa) i.val) (lane (s.getV fb) i.val)
      ∃ t l, exec (.vaddd fa fb fc) s = .next t ∧
        ends t (status 52 (r 0) ||| status 36 (r 1) ||| status 20 (r 2) ||| status 4 (r 3))
          (traps 1 (r 0) ||| traps 15 (r 1) ||| traps 21 (r 2) ||| traps 27 (r 3)) ∧
        writesOnlyV s t fc l ∧ ∀ i, value (r i) (l i))

/-! ### Counters, the timer, coherence, reset -/

/-- A retiring instruction that the selector of counter 0 counts adds one to it modulo 2^58 while counting is enabled,
and requests PC0_VEC when it overflows; otherwise nothing changes (R651, R652). Selector 0 counts everything but
no-operations and MEMB, 1 the memory accesses, 2 the reads, both with the cache-control instructions that are
no-operations (R470); 3 to 7 count here the branches, the conditional ones, the unconditional ones, the calls and the
returns that retire, a lower bound (D27). Counter 1 adds the events it is given in the same way and requests PC1_VEC
(R651, R653; which events these are is the environment's, D27). No write of IS_CTL waits for a barrier (R744). With
TIMER_EN = 1 the timer counts the cycles that pass; when TIMER_TH is reached or exceeded TIMER_VEC is requested and
TIMER_EN cleared; with TIMER_EN = 0 it stands still; a write that changes TIMER_EN from 0 to 1 restarts it (R620). -/
def Obligations.CountersAndTimer : Prop :=
  (∀ e : EventClass,
     (e.counts 0 = true ↔ e ∉ [EventClass.nop, .nopRead, .nopWrite]) ∧
     (e.counts 1 = true ↔ e ∈ [EventClass.read, .write, .nopRead, .nopWrite]) ∧
     (e.counts 2 = true ↔ e = .read ∨ e = .nopRead) ∧
     (e.counts 3 = true ↔ e ∈ [EventClass.conditional, .unconditional, .call, .ret, .jump]) ∧
     (e.counts 4 = true ↔ e = .conditional) ∧ (e.counts 5 = true ↔ e = .unconditional) ∧
     (e.counts 6 = true ↔ e = .call) ∧ (e.counts 7 = true ↔ e = .ret) ∧ (∀ n, 8 ≤ n → e.counts n = false)) ∧
  (∀ (s : State) (e : EventClass), settledCsr s 0x11 →
     let on := s.csr.isCtl.getLsbD 14 = true ∧
       (s.csr.isCtl.getLsbD 10 = true ∨ (s.csr.isCtl.getLsbD 11 = true ∧ s.mode = s.csr.isCtl.extractLsb' 12 2))
     let c := (s.csr.pc0Cr.extractLsb' 0 58).toNat
     (e.counts (s.csr.pc0Cr.extractLsb' 60 4).toNat = true ∧ on →
       ((s.count e).csr.pc0Cr.extractLsb' 0 58).toNat = (c + 1) % 2 ^ 58 ∧
       (s.count e).csr.pc0Cr.extractLsb' 58 6 = s.csr.pc0Cr.extractLsb' 58 6 ∧
       (s.count e).csr.raw = (if c = 2 ^ 58 - 1 then s.csr.raw ||| BitVec.twoPow 256 s.csr.pc0Vec.toNat else s.csr.raw) ∧
       s.count e = { s with csr := { s.csr with pc0Cr := (s.count e).csr.pc0Cr, raw := (s.count e).csr.raw } }) ∧
     (¬(e.counts (s.csr.pc0Cr.extractLsb' 60 4).toNat = true ∧ on) → s.count e = s)) ∧
  (∀ (s : State) (n : Nat), settledCsr s 0x11 →
     let on := s.csr.isCtl.getLsbD 15 = true ∧
       (s.csr.isCtl.getLsbD 10 = true ∨ (s.csr.isCtl.getLsbD 11 = true ∧ s.mode = s.csr.isCtl.extractLsb' 12 2))
     let c := (s.csr.pc1Cr.extractLsb' 0 58).toNat
     let t := s.addPc1 n
     (on → (t.csr.pc1Cr.extractLsb' 0 58).toNat = (c + n) % 2 ^ 58 ∧
       t.csr.pc1Cr.extractLsb' 58 6 = s.csr.pc1Cr.extractLsb' 58 6 ∧
       t.csr.raw = (if 2 ^ 58 ≤ c + n then s.csr.raw ||| BitVec.twoPow 256 s.csr.pc1Vec.toNat else s.csr.raw) ∧
       t = { s with csr := { s.csr with pc1Cr := t.csr.pc1Cr, raw := t.csr.raw } }) ∧
     (¬on → t = s)) ∧
  (∀ (s : State) (n : Nat) (d : W64), s.csr.pc0Sel ≠ 8 →
     (s.csr.timerCtl.getLsbD 0 = false → (s.passCycles n).timer = s.timer ∧ (s.passCycles n).csr.raw = s.csr.raw) ∧
     (s.csr.timerCtl.getLsbD 0 = true → (s.passCycles n).timer = s.timer + BitVec.ofNat 64 n ∧
       (0 < n → s.csr.timerTh.toNat ≤ s.timer.toNat + n →
         (s.passCycles n).csr.raw.getLsbD s.csr.timerVec.toNat = true ∧
         (s.passCycles n).csr.timerCtl.getLsbD 0 = false) ∧
       (s.timer.toNat + n < s.csr.timerTh.toNat →
         (s.passCycles n).csr.raw = s.csr.raw ∧ (s.passCycles n).csr.timerCtl = s.csr.timerCtl)) ∧
     (∀ t, writeCsr s 0x2A d = .ok t → s.csr.timerCtl.getLsbD 0 = false → d.getLsbD 0 = true →
       t.timer = 0 ∧ t.csr.timerCtl = 1))

/-- With SC_CTL[IC_COH_EN] = 1 a store leaves no instruction-cache line of the stored line, and no other line is lost;
with 0 the instruction cache keeps every line (R234, R252, R266). That the line goes at the store itself, and not some
time later, is the model's choice (log 41). -/
def Obligations.StoreCoherence : Prop :=
  ∀ (s : State) (a n v : Nat) (k : Fin 64) (w : Fin 4), 0 < n → a % 128 + n ≤ 128 →
    (s.csr.scCtl.getLsbD 20 = false → (s.store a n v).icache = s.icache) ∧
    (s.csr.scCtl.getLsbD 20 = true →
      ∀ l, ((s.store a n v).icache[k]).ways[w] = some l ↔ (s.icache[k]).ways[w] = some l ∧ l.pline.toNat ≠ a / 128)

/-- The CSRs that hardware initialises the same way at all three resets hold the values of R717, whatever the machine
held before; IS_CTL reads 0x101F8 with CHIP_ID fixed at 0x3F (R112, C2), CP_CTL is 0x1C right after the reset of the
model's default configuration (R718 for the other resets). -/
def Obligations.InitialisedCsrs : Prop :=
  ∀ (s t : State) (m : List Host.Cell), t ∈ [State.reset, s.powerOnReset m, s.coldReset m, s.wakeReset] →
    (s.par.chipId = 0x3F → s.par.bistFail = false → readCsr t 0x11 = 0x101F8) ∧
    readCsr t 0x19 = 0 ∧ (∀ i ∈ [0x20#8, 0x21#8, 0x22#8, 0x23#8], readCsr t i = 0x07) ∧
    readCsr t 0x1A = 0 ∧ readCsr t 0x1B = 0x7FFFFFFFFFFFFFFF ∧ readCsr t 0x26 = 0 ∧ readCsr t 0x27 = 0x1F ∧
    readCsr t 0x28 = 0 ∧ readCsr t 0x29 = 0 ∧ readCsr t 0x2A = 0 ∧ readCsr t 0x2B = 0 ∧ readCsr t 0x49 = 0 ∧
    readCsr t 0x4A = 0x945600000000000F ∧ readCsr t 0x4C = 0 ∧ readCsr t 0x4D = 0x001FFFFFFFFFFFFF ∧
    readCsr t 0x50 = 0x001FFFFFFFFFFFFF ∧ readCsr t 0x53 = 0 ∧ readCsr t 0x52 = 0xFFFFFFFFFFFFFFFF ∧
    readCsr t 0x80 = 0x1000FF ∧ readCsr t 0x82 = 0 ∧ readCsr State.reset 0x83 = 0x1C ∧ readCsr t 0x84 = 0x100 ∧
    readCsr t 0xC1 = 0 ∧ readCsr t 0xC2 = 0 ∧ readCsr t 0xC3 = 0 ∧ readCsr t 0xC5 = 0 ∧
    readCsr t 0xC6 = 0x001FFFFFFFFFFFFF

/-- Right after reset the pc is 0x1000 in HM and memory reads 0 everywhere (R715), the CSRs of Table 7-1, TID and
SOFTCSR hold the values of R716 and R721, the lock bits are 0 (D9). A wake-up from deep sleep reaches a connected core
only (R612) and (R630) keeps PRI_BASE, EXC_PC, the pending requests, INT_VEC, II_MAIL, ISSUE_CTL, TID, SOFTCSR and
memory, and II0 and II1 unless an interrupt of the core to itself that the system interface held back arrives (R610);
the buffers and the instruction cache are empty (that they are is the model's choice, logs 6 and 7) and the pc is the
RESET/WAKEUP entry in HM. -/
def Obligations.ResetAndWakeUp : Prop :=
  (let s := State.reset
   s.pc = 0x1000 ∧ s.mode = 0#2 ∧ (∀ a, memGet s.mem a = 0) ∧ readCsr s 0x10 = 0 ∧ s.csr.issueCtl = 0xFFFFF ∧
   readCsr s 0x1F = 0x0000FAFBFCFDFEFF ∧ s.csr.raw = 0 ∧ s.csr.ii0 = 0 ∧ s.csr.ii1 = 0 ∧ s.csr.iiMail = 0 ∧
   s.csr.tid = 0 ∧ (∀ k : Fin 48, s.csr.soft[k] = 0) ∧ s.lock.valid = false ∧ s.lock.flag = false ∧
   s.lock.success = false ∧ s.power = .running ∧ ∀ (u : State) (m : List Host.Cell),
     (u.coldReset m).pc = 0x1000 ∧ (u.coldReset m).mem = imageOf m) ∧
  (∀ s : State, s.power = .deepSleep → s.online = false → applyInput s .wakeUp = s) ∧
  (∀ s : State, s.power = .deepSleep → s.online = true →
     let t := applyInput s .wakeUp
     t.power = .running ∧ t.pc = 0#17 ++ s.csr.priBase.extractLsb' 16 31 ++ 0x1000#16 ∧ t.mode = 0#2 ∧
     t.csr.priBase = s.csr.priBase ∧ t.csr.excPc = s.csr.excPc ∧ t.csr.raw = s.csr.raw ∧ t.csr.intVec = s.csr.intVec ∧
     (s.inten = false ∨ s.heldIntr = 0 → t.csr.ii0 = s.csr.ii0 ∧ t.csr.ii1 = s.csr.ii1) ∧
     t.csr.iiMail = s.csr.iiMail ∧ t.csr.issueCtl = s.csr.issueCtl ∧
     t.csr.tid = s.csr.tid ∧ t.csr.soft = s.csr.soft ∧ sameMem s t ∧ t.dtb = [] ∧ (∀ k : Fin 32, t.itb[k] = none) ∧
     (∀ (k : Fin 64) (w : Fin 4), (t.icache[k]).ways[w] = none) ∧ t.csr.timerCtl = 0 ∧ t.csr.timerTh = 0 ∧ t.timer = 0)
end

