-- ==== Sys2Proof/Laws/State.lean ====
section
/-! SUPPORT. What each update of the state leaves in each field: one lemma per field per update. -/

namespace Sys2Proof.Machine

/-! ### Stores -/

/-- Changing caches changes no old value. -/
theorem State.mapCaches_oldValues (s : State) (f : Vector IcSet 64 → Vector IcSet 64) (i : BitVec 8) :
    (s.mapCaches f).oldValues i = s.oldValues i := by
  funext b
  simp [State.mapCaches, State.oldValues, List.filter_map, Function.comp_def]

/-- What stores of this core can change. -/
structure Stored (s t : State) : Prop where
  same : t = { s with mem := t.mem, icache := t.icache, unsynced := t.unsynced, track := t.track }
  oldValues : t.oldValues = s.oldValues

/-- A field that stores do not change. -/
theorem Stored.field {s t : State} {α : Type} (h : Stored s t) (f : State → α)
    (hf : ∀ m c u k, f { s with mem := m, icache := c, unsynced := u, track := k } = f s) : f t = f s := by
  rw [h.same]
  exact hf ..

theorem Stored.refl (s : State) : Stored s s := ⟨rfl, rfl⟩

theorem Stored.trans {s t u : State} (h : Stored s t) (h' : Stored t u) : Stored s u where
  same := by
    have e := h'.same
    rw [h.same] at e
    exact e
  oldValues := h'.oldValues.trans h.oldValues

theorem State.store_stored (s : State) (a n v : Nat) : Stored s (s.store a n v) :=
  ⟨rfl, funext (State.mapCaches_oldValues s _)⟩

/-- Changing the record of the order of accesses changes nothing else. -/
theorem State.track_stored (s : State) (t : MemTrack) : Stored s { s with track := t } := ⟨rfl, rfl⟩

/-- Many changes, each such as a store makes. -/
theorem foldl_stored {α : Type} (f : State → α → State) (hf : ∀ s x, Stored s (f s x)) (l : List α) (s : State) :
    Stored s (l.foldl f s) := by
  induction l generalizing s with
  | nil => exact Stored.refl s
  | cons x r ih => exact (hf s x).trans (ih _)

theorem State.settle_stored (s : State) (l : List MemStore) : Stored s (s.settle l) := by
  unfold State.settle
  exact foldl_stored _ (fun _ _ => State.store_stored ..) l s

theorem State.place_stored (s : State) (w : Nat → MemStore → Bool) : Stored s (s.place w) :=
  (s.track_stored _).trans (State.settle_stored _ _)

theorem State.pushEarly_stored (s : State) (a n v : Nat) : Stored s (s.pushEarly a n v) :=
  (s.place_stored _).trans (State.track_stored _ _)

theorem State.settleRaces_stored (s : State) : Stored s s.settleRaces :=
  ((s.track_stored _).trans (State.place_stored _ _)).trans (State.track_stored _ _)

theorem State.writeReached_stored (s : State) (a n v : Nat) : Stored s (s.writeReached a n v) := by
  unfold State.writeReached
  split
  · exact (s.track_stored _).trans (State.store_stored ..)
  · exact (s.track_stored _).trans (State.store_stored ..)

theorem State.write_stored (s : State) (c : Bool) (a n v : Nat) : Stored s (s.write c a n v) := by
  unfold State.write
  dsimp only
  split
  · exact (s.track_stored _).trans (State.store_stored ..)
  · exact (s.track_stored _).trans (foldl_stored _ (fun _ _ => State.writeReached_stored ..) _ _)

/-! ### setX -/

@[simp] theorem State.setX_pc (s : State) (i : BitVec 5) (w : W64) : (s.setX i w).pc = s.pc := by unfold State.setX; split <;> rfl
@[simp] theorem State.setX_v (s : State) (i : BitVec 5) (w : W64) : (s.setX i w).v = s.v := by unfold State.setX; split <;> rfl
@[simp] theorem State.setX_fpcr (s : State) (i : BitVec 5) (w : W64) : (s.setX i w).fpcr = s.fpcr := by unfold State.setX; split <;> rfl
@[simp] theorem State.setX_lock (s : State) (i : BitVec 5) (w : W64) : (s.setX i w).lock = s.lock := by unfold State.setX; split <;> rfl
@[simp] theorem State.setX_csr (s : State) (i : BitVec 5) (w : W64) : (s.setX i w).csr = s.csr := by unfold State.setX; split <;> rfl
@[simp] theorem State.setX_itb (s : State) (i : BitVec 5) (w : W64) : (s.setX i w).itb = s.itb := by unfold State.setX; split <;> rfl
@[simp] theorem State.setX_itbPtr (s : State) (i : BitVec 5) (w : W64) : (s.setX i w).itbPtr = s.itbPtr := by unfold State.setX; split <;> rfl
@[simp] theorem State.setX_dtb (s : State) (i : BitVec 5) (w : W64) : (s.setX i w).dtb = s.dtb := by unfold State.setX; split <;> rfl
@[simp] theorem State.setX_icache (s : State) (i : BitVec 5) (w : W64) : (s.setX i w).icache = s.icache := by unfold State.setX; split <;> rfl
@[simp] theorem State.setX_mem (s : State) (i : BitVec 5) (w : W64) : (s.setX i w).mem = s.mem := by unfold State.setX; split <;> rfl
@[simp] theorem State.setX_timer (s : State) (i : BitVec 5) (w : W64) : (s.setX i w).timer = s.timer := by unfold State.setX; split <;> rfl
@[simp] theorem State.setX_hserrTime (s : State) (i : BitVec 5) (w : W64) : (s.setX i w).hserrTime = s.hserrTime := by unfold State.setX; split <;> rfl
@[simp] theorem State.setX_power (s : State) (i : BitVec 5) (w : W64) : (s.setX i w).power = s.power := by unfold State.setX; split <;> rfl
@[simp] theorem State.setX_ioWin (s : State) (i : BitVec 5) (w : W64) : (s.setX i w).ioWin = s.ioWin := by unfold State.setX; split <;> rfl
@[simp] theorem State.setX_armedFetch (s : State) (i : BitVec 5) (w : W64) : (s.setX i w).armedFetch = s.armedFetch := by unfold State.setX; split <;> rfl
@[simp] theorem State.setX_armedData (s : State) (i : BitVec 5) (w : W64) : (s.setX i w).armedData = s.armedData := by unfold State.setX; split <;> rfl
@[simp] theorem State.setX_fgroup (s : State) (i : BitVec 5) (w : W64) : (s.setX i w).fgroup = s.fgroup := by unfold State.setX; split <;> rfl
@[simp] theorem State.setX_env (s : State) (i : BitVec 5) (w : W64) : (s.setX i w).env = s.env := by unfold State.setX; split <;> rfl
@[simp] theorem State.setX_out (s : State) (i : BitVec 5) (w : W64) : (s.setX i w).out = s.out := by unfold State.setX; split <;> rfl
@[simp] theorem State.setX_freeCtr (s : State) (i : BitVec 5) (w : W64) : (s.setX i w).freeCtr = s.freeCtr := by unfold State.setX; split <;> rfl
@[simp] theorem State.setX_unsynced (s : State) (i : BitVec 5) (w : W64) : (s.setX i w).unsynced = s.unsynced := by unfold State.setX; split <;> rfl
@[simp] theorem State.setX_track (s : State) (i : BitVec 5) (w : W64) : (s.setX i w).track = s.track := by unfold State.setX; split <;> rfl
@[simp] theorem State.setX_midWrites (s : State) (i : BitVec 5) (w : W64) : (s.setX i w).midWrites = s.midWrites := by unfold State.setX; split <;> rfl
@[simp] theorem State.setX_inten (s : State) (i : BitVec 5) (w : W64) : (s.setX i w).inten = s.inten := by unfold State.setX; split <;> rfl
@[simp] theorem State.setX_heldIntr (s : State) (i : BitVec 5) (w : W64) : (s.setX i w).heldIntr = s.heldIntr := by unfold State.setX; split <;> rfl
@[simp] theorem State.setX_online (s : State) (i : BitVec 5) (w : W64) : (s.setX i w).online = s.online := by unfold State.setX; split <;> rfl
@[simp] theorem State.setX_intData (s : State) (i : BitVec 5) (w : W64) : (s.setX i w).intData = s.intData := by unfold State.setX; split <;> rfl
@[simp] theorem State.setX_par (s : State) (i : BitVec 5) (w : W64) : (s.setX i w).par = s.par := by unfold State.setX; split <;> rfl

/-! ### setV -/

@[simp] theorem State.setV_pc (s : State) (i : BitVec 5) (w : V256) (k : BitVec 4) : (s.setV i w k).pc = s.pc := rfl
@[simp] theorem State.setV_x (s : State) (i : BitVec 5) (w : V256) (k : BitVec 4) : (s.setV i w k).x = s.x := rfl
@[simp] theorem State.setV_sr (s : State) (i : BitVec 5) (w : V256) (k : BitVec 4) : (s.setV i w k).sr = s.sr := rfl
@[simp] theorem State.setV_fpcr (s : State) (i : BitVec 5) (w : V256) (k : BitVec 4) : (s.setV i w k).fpcr = s.fpcr := rfl
@[simp] theorem State.setV_lock (s : State) (i : BitVec 5) (w : V256) (k : BitVec 4) : (s.setV i w k).lock = s.lock := rfl
@[simp] theorem State.setV_csr (s : State) (i : BitVec 5) (w : V256) (k : BitVec 4) : (s.setV i w k).csr = s.csr := rfl
@[simp] theorem State.setV_itb (s : State) (i : BitVec 5) (w : V256) (k : BitVec 4) : (s.setV i w k).itb = s.itb := rfl
@[simp] theorem State.setV_itbPtr (s : State) (i : BitVec 5) (w : V256) (k : BitVec 4) : (s.setV i w k).itbPtr = s.itbPtr := rfl
@[simp] theorem State.setV_dtb (s : State) (i : BitVec 5) (w : V256) (k : BitVec 4) : (s.setV i w k).dtb = s.dtb := rfl
@[simp] theorem State.setV_icache (s : State) (i : BitVec 5) (w : V256) (k : BitVec 4) : (s.setV i w k).icache = s.icache := rfl
@[simp] theorem State.setV_mem (s : State) (i : BitVec 5) (w : V256) (k : BitVec 4) : (s.setV i w k).mem = s.mem := rfl
@[simp] theorem State.setV_timer (s : State) (i : BitVec 5) (w : V256) (k : BitVec 4) : (s.setV i w k).timer = s.timer := rfl
@[simp] theorem State.setV_hserrTime (s : State) (i : BitVec 5) (w : V256) (k : BitVec 4) : (s.setV i w k).hserrTime = s.hserrTime := rfl
@[simp] theorem State.setV_power (s : State) (i : BitVec 5) (w : V256) (k : BitVec 4) : (s.setV i w k).power = s.power := rfl
@[simp] theorem State.setV_ioWin (s : State) (i : BitVec 5) (w : V256) (k : BitVec 4) : (s.setV i w k).ioWin = s.ioWin := rfl
@[simp] theorem State.setV_armedFetch (s : State) (i : BitVec 5) (w : V256) (k : BitVec 4) : (s.setV i w k).armedFetch = s.armedFetch := rfl
@[simp] theorem State.setV_armedData (s : State) (i : BitVec 5) (w : V256) (k : BitVec 4) : (s.setV i w k).armedData = s.armedData := rfl
@[simp] theorem State.setV_fgroup (s : State) (i : BitVec 5) (w : V256) (k : BitVec 4) : (s.setV i w k).fgroup = s.fgroup := rfl
@[simp] theorem State.setV_env (s : State) (i : BitVec 5) (w : V256) (k : BitVec 4) : (s.setV i w k).env = s.env := rfl
@[simp] theorem State.setV_out (s : State) (i : BitVec 5) (w : V256) (k : BitVec 4) : (s.setV i w k).out = s.out := rfl
@[simp] theorem State.setV_freeCtr (s : State) (i : BitVec 5) (w : V256) (k : BitVec 4) : (s.setV i w k).freeCtr = s.freeCtr := rfl
@[simp] theorem State.setV_unsynced (s : State) (i : BitVec 5) (w : V256) (k : BitVec 4) : (s.setV i w k).unsynced = s.unsynced := rfl
@[simp] theorem State.setV_track (s : State) (i : BitVec 5) (w : V256) (k : BitVec 4) : (s.setV i w k).track = s.track := rfl
@[simp] theorem State.setV_midWrites (s : State) (i : BitVec 5) (w : V256) (k : BitVec 4) : (s.setV i w k).midWrites = s.midWrites := rfl
@[simp] theorem State.setV_inten (s : State) (i : BitVec 5) (w : V256) (k : BitVec 4) : (s.setV i w k).inten = s.inten := rfl
@[simp] theorem State.setV_heldIntr (s : State) (i : BitVec 5) (w : V256) (k : BitVec 4) : (s.setV i w k).heldIntr = s.heldIntr := rfl
@[simp] theorem State.setV_online (s : State) (i : BitVec 5) (w : V256) (k : BitVec 4) : (s.setV i w k).online = s.online := rfl
@[simp] theorem State.setV_intData (s : State) (i : BitVec 5) (w : V256) (k : BitVec 4) : (s.setV i w k).intData = s.intData := rfl
@[simp] theorem State.setV_par (s : State) (i : BitVec 5) (w : V256) (k : BitVec 4) : (s.setV i w k).par = s.par := rfl

/-! ### setF -/

@[simp] theorem State.setF_pc (s : State) (i : BitVec 5) (w : W64) (b : Bool) : (s.setF i w b).pc = s.pc := rfl
@[simp] theorem State.setF_x (s : State) (i : BitVec 5) (w : W64) (b : Bool) : (s.setF i w b).x = s.x := rfl
@[simp] theorem State.setF_sr (s : State) (i : BitVec 5) (w : W64) (b : Bool) : (s.setF i w b).sr = s.sr := rfl
@[simp] theorem State.setF_fpcr (s : State) (i : BitVec 5) (w : W64) (b : Bool) : (s.setF i w b).fpcr = s.fpcr := rfl
@[simp] theorem State.setF_lock (s : State) (i : BitVec 5) (w : W64) (b : Bool) : (s.setF i w b).lock = s.lock := rfl
@[simp] theorem State.setF_csr (s : State) (i : BitVec 5) (w : W64) (b : Bool) : (s.setF i w b).csr = s.csr := rfl
@[simp] theorem State.setF_itb (s : State) (i : BitVec 5) (w : W64) (b : Bool) : (s.setF i w b).itb = s.itb := rfl
@[simp] theorem State.setF_itbPtr (s : State) (i : BitVec 5) (w : W64) (b : Bool) : (s.setF i w b).itbPtr = s.itbPtr := rfl
@[simp] theorem State.setF_dtb (s : State) (i : BitVec 5) (w : W64) (b : Bool) : (s.setF i w b).dtb = s.dtb := rfl
@[simp] theorem State.setF_icache (s : State) (i : BitVec 5) (w : W64) (b : Bool) : (s.setF i w b).icache = s.icache := rfl
@[simp] theorem State.setF_mem (s : State) (i : BitVec 5) (w : W64) (b : Bool) : (s.setF i w b).mem = s.mem := rfl
@[simp] theorem State.setF_timer (s : State) (i : BitVec 5) (w : W64) (b : Bool) : (s.setF i w b).timer = s.timer := rfl
@[simp] theorem State.setF_hserrTime (s : State) (i : BitVec 5) (w : W64) (b : Bool) : (s.setF i w b).hserrTime = s.hserrTime := rfl
@[simp] theorem State.setF_power (s : State) (i : BitVec 5) (w : W64) (b : Bool) : (s.setF i w b).power = s.power := rfl
@[simp] theorem State.setF_ioWin (s : State) (i : BitVec 5) (w : W64) (b : Bool) : (s.setF i w b).ioWin = s.ioWin := rfl
@[simp] theorem State.setF_armedFetch (s : State) (i : BitVec 5) (w : W64) (b : Bool) : (s.setF i w b).armedFetch = s.armedFetch := rfl
@[simp] theorem State.setF_armedData (s : State) (i : BitVec 5) (w : W64) (b : Bool) : (s.setF i w b).armedData = s.armedData := rfl
@[simp] theorem State.setF_fgroup (s : State) (i : BitVec 5) (w : W64) (b : Bool) : (s.setF i w b).fgroup = s.fgroup := rfl
@[simp] theorem State.setF_env (s : State) (i : BitVec 5) (w : W64) (b : Bool) : (s.setF i w b).env = s.env := rfl
@[simp] theorem State.setF_out (s : State) (i : BitVec 5) (w : W64) (b : Bool) : (s.setF i w b).out = s.out := rfl
@[simp] theorem State.setF_freeCtr (s : State) (i : BitVec 5) (w : W64) (b : Bool) : (s.setF i w b).freeCtr = s.freeCtr := rfl
@[simp] theorem State.setF_unsynced (s : State) (i : BitVec 5) (w : W64) (b : Bool) : (s.setF i w b).unsynced = s.unsynced := rfl
@[simp] theorem State.setF_track (s : State) (i : BitVec 5) (w : W64) (b : Bool) : (s.setF i w b).track = s.track := rfl
@[simp] theorem State.setF_midWrites (s : State) (i : BitVec 5) (w : W64) (b : Bool) : (s.setF i w b).midWrites = s.midWrites := rfl
@[simp] theorem State.setF_inten (s : State) (i : BitVec 5) (w : W64) (b : Bool) : (s.setF i w b).inten = s.inten := rfl
@[simp] theorem State.setF_heldIntr (s : State) (i : BitVec 5) (w : W64) (b : Bool) : (s.setF i w b).heldIntr = s.heldIntr := rfl
@[simp] theorem State.setF_online (s : State) (i : BitVec 5) (w : W64) (b : Bool) : (s.setF i w b).online = s.online := rfl
@[simp] theorem State.setF_intData (s : State) (i : BitVec 5) (w : W64) (b : Bool) : (s.setF i w b).intData = s.intData := rfl
@[simp] theorem State.setF_par (s : State) (i : BitVec 5) (w : W64) (b : Bool) : (s.setF i w b).par = s.par := rfl

/-! ### setSr23 -/

@[simp] theorem State.setSr23_pc (s : State) (w : W64) : (s.setSr23 w).pc = s.pc := rfl
@[simp] theorem State.setSr23_x (s : State) (w : W64) : (s.setSr23 w).x = s.x := rfl
@[simp] theorem State.setSr23_v (s : State) (w : W64) : (s.setSr23 w).v = s.v := rfl
@[simp] theorem State.setSr23_fpcr (s : State) (w : W64) : (s.setSr23 w).fpcr = s.fpcr := rfl
@[simp] theorem State.setSr23_lock (s : State) (w : W64) : (s.setSr23 w).lock = s.lock := rfl
@[simp] theorem State.setSr23_csr (s : State) (w : W64) : (s.setSr23 w).csr = s.csr := rfl
@[simp] theorem State.setSr23_itb (s : State) (w : W64) : (s.setSr23 w).itb = s.itb := rfl
@[simp] theorem State.setSr23_itbPtr (s : State) (w : W64) : (s.setSr23 w).itbPtr = s.itbPtr := rfl
@[simp] theorem State.setSr23_dtb (s : State) (w : W64) : (s.setSr23 w).dtb = s.dtb := rfl
@[simp] theorem State.setSr23_icache (s : State) (w : W64) : (s.setSr23 w).icache = s.icache := rfl
@[simp] theorem State.setSr23_mem (s : State) (w : W64) : (s.setSr23 w).mem = s.mem := rfl
@[simp] theorem State.setSr23_timer (s : State) (w : W64) : (s.setSr23 w).timer = s.timer := rfl
@[simp] theorem State.setSr23_hserrTime (s : State) (w : W64) : (s.setSr23 w).hserrTime = s.hserrTime := rfl
@[simp] theorem State.setSr23_power (s : State) (w : W64) : (s.setSr23 w).power = s.power := rfl
@[simp] theorem State.setSr23_ioWin (s : State) (w : W64) : (s.setSr23 w).ioWin = s.ioWin := rfl
@[simp] theorem State.setSr23_armedFetch (s : State) (w : W64) : (s.setSr23 w).armedFetch = s.armedFetch := rfl
@[simp] theorem State.setSr23_armedData (s : State) (w : W64) : (s.setSr23 w).armedData = s.armedData := rfl
@[simp] theorem State.setSr23_fgroup (s : State) (w : W64) : (s.setSr23 w).fgroup = s.fgroup := rfl
@[simp] theorem State.setSr23_env (s : State) (w : W64) : (s.setSr23 w).env = s.env := rfl
@[simp] theorem State.setSr23_out (s : State) (w : W64) : (s.setSr23 w).out = s.out := rfl
@[simp] theorem State.setSr23_freeCtr (s : State) (w : W64) : (s.setSr23 w).freeCtr = s.freeCtr := rfl
@[simp] theorem State.setSr23_unsynced (s : State) (w : W64) : (s.setSr23 w).unsynced = s.unsynced := rfl
@[simp] theorem State.setSr23_track (s : State) (w : W64) : (s.setSr23 w).track = s.track := rfl
@[simp] theorem State.setSr23_midWrites (s : State) (w : W64) : (s.setSr23 w).midWrites = s.midWrites := rfl
@[simp] theorem State.setSr23_inten (s : State) (w : W64) : (s.setSr23 w).inten = s.inten := rfl
@[simp] theorem State.setSr23_heldIntr (s : State) (w : W64) : (s.setSr23 w).heldIntr = s.heldIntr := rfl
@[simp] theorem State.setSr23_online (s : State) (w : W64) : (s.setSr23 w).online = s.online := rfl
@[simp] theorem State.setSr23_intData (s : State) (w : W64) : (s.setSr23 w).intData = s.intData := rfl
@[simp] theorem State.setSr23_par (s : State) (w : W64) : (s.setSr23 w).par = s.par := rfl

/-! ### nextPc -/

@[simp] theorem State.nextPc_x (s : State) : (s.nextPc).x = s.x := rfl
@[simp] theorem State.nextPc_sr (s : State) : (s.nextPc).sr = s.sr := rfl
@[simp] theorem State.nextPc_v (s : State) : (s.nextPc).v = s.v := rfl
@[simp] theorem State.nextPc_fpcr (s : State) : (s.nextPc).fpcr = s.fpcr := rfl
@[simp] theorem State.nextPc_lock (s : State) : (s.nextPc).lock = s.lock := rfl
@[simp] theorem State.nextPc_csr (s : State) : (s.nextPc).csr = s.csr := rfl
@[simp] theorem State.nextPc_itb (s : State) : (s.nextPc).itb = s.itb := rfl
@[simp] theorem State.nextPc_itbPtr (s : State) : (s.nextPc).itbPtr = s.itbPtr := rfl
@[simp] theorem State.nextPc_dtb (s : State) : (s.nextPc).dtb = s.dtb := rfl
@[simp] theorem State.nextPc_icache (s : State) : (s.nextPc).icache = s.icache := rfl
@[simp] theorem State.nextPc_mem (s : State) : (s.nextPc).mem = s.mem := rfl
@[simp] theorem State.nextPc_timer (s : State) : (s.nextPc).timer = s.timer := rfl
@[simp] theorem State.nextPc_hserrTime (s : State) : (s.nextPc).hserrTime = s.hserrTime := rfl
@[simp] theorem State.nextPc_power (s : State) : (s.nextPc).power = s.power := rfl
@[simp] theorem State.nextPc_ioWin (s : State) : (s.nextPc).ioWin = s.ioWin := rfl
@[simp] theorem State.nextPc_armedFetch (s : State) : (s.nextPc).armedFetch = s.armedFetch := rfl
@[simp] theorem State.nextPc_armedData (s : State) : (s.nextPc).armedData = s.armedData := rfl
@[simp] theorem State.nextPc_fgroup (s : State) : (s.nextPc).fgroup = s.fgroup := rfl
@[simp] theorem State.nextPc_env (s : State) : (s.nextPc).env = s.env := rfl
@[simp] theorem State.nextPc_out (s : State) : (s.nextPc).out = s.out := rfl
@[simp] theorem State.nextPc_freeCtr (s : State) : (s.nextPc).freeCtr = s.freeCtr := rfl
@[simp] theorem State.nextPc_unsynced (s : State) : (s.nextPc).unsynced = s.unsynced := rfl
@[simp] theorem State.nextPc_track (s : State) : (s.nextPc).track = s.track := rfl
@[simp] theorem State.nextPc_midWrites (s : State) : (s.nextPc).midWrites = s.midWrites := rfl
@[simp] theorem State.nextPc_inten (s : State) : (s.nextPc).inten = s.inten := rfl
@[simp] theorem State.nextPc_heldIntr (s : State) : (s.nextPc).heldIntr = s.heldIntr := rfl
@[simp] theorem State.nextPc_online (s : State) : (s.nextPc).online = s.online := rfl
@[simp] theorem State.nextPc_intData (s : State) : (s.nextPc).intData = s.intData := rfl
@[simp] theorem State.nextPc_par (s : State) : (s.nextPc).par = s.par := rfl

/-! ### emit -/

@[simp] theorem State.emit_pc (s : State) (o : Output) : (s.emit o).pc = s.pc := rfl
@[simp] theorem State.emit_x (s : State) (o : Output) : (s.emit o).x = s.x := rfl
@[simp] theorem State.emit_sr (s : State) (o : Output) : (s.emit o).sr = s.sr := rfl
@[simp] theorem State.emit_v (s : State) (o : Output) : (s.emit o).v = s.v := rfl
@[simp] theorem State.emit_fpcr (s : State) (o : Output) : (s.emit o).fpcr = s.fpcr := rfl
@[simp] theorem State.emit_lock (s : State) (o : Output) : (s.emit o).lock = s.lock := rfl
@[simp] theorem State.emit_csr (s : State) (o : Output) : (s.emit o).csr = s.csr := rfl
@[simp] theorem State.emit_itb (s : State) (o : Output) : (s.emit o).itb = s.itb := rfl
@[simp] theorem State.emit_itbPtr (s : State) (o : Output) : (s.emit o).itbPtr = s.itbPtr := rfl
@[simp] theorem State.emit_dtb (s : State) (o : Output) : (s.emit o).dtb = s.dtb := rfl
@[simp] theorem State.emit_icache (s : State) (o : Output) : (s.emit o).icache = s.icache := rfl
@[simp] theorem State.emit_mem (s : State) (o : Output) : (s.emit o).mem = s.mem := rfl
@[simp] theorem State.emit_timer (s : State) (o : Output) : (s.emit o).timer = s.timer := rfl
@[simp] theorem State.emit_hserrTime (s : State) (o : Output) : (s.emit o).hserrTime = s.hserrTime := rfl
@[simp] theorem State.emit_power (s : State) (o : Output) : (s.emit o).power = s.power := rfl
@[simp] theorem State.emit_ioWin (s : State) (o : Output) : (s.emit o).ioWin = s.ioWin := rfl
@[simp] theorem State.emit_armedFetch (s : State) (o : Output) : (s.emit o).armedFetch = s.armedFetch := rfl
@[simp] theorem State.emit_armedData (s : State) (o : Output) : (s.emit o).armedData = s.armedData := rfl
@[simp] theorem State.emit_fgroup (s : State) (o : Output) : (s.emit o).fgroup = s.fgroup := rfl
@[simp] theorem State.emit_env (s : State) (o : Output) : (s.emit o).env = s.env := rfl
@[simp] theorem State.emit_freeCtr (s : State) (o : Output) : (s.emit o).freeCtr = s.freeCtr := rfl
@[simp] theorem State.emit_unsynced (s : State) (o : Output) : (s.emit o).unsynced = s.unsynced := rfl
@[simp] theorem State.emit_track (s : State) (o : Output) : (s.emit o).track = s.track := rfl
@[simp] theorem State.emit_midWrites (s : State) (o : Output) : (s.emit o).midWrites = s.midWrites := rfl
@[simp] theorem State.emit_inten (s : State) (o : Output) : (s.emit o).inten = s.inten := rfl
@[simp] theorem State.emit_heldIntr (s : State) (o : Output) : (s.emit o).heldIntr = s.heldIntr := rfl
@[simp] theorem State.emit_online (s : State) (o : Output) : (s.emit o).online = s.online := rfl
@[simp] theorem State.emit_intData (s : State) (o : Output) : (s.emit o).intData = s.intData := rfl
@[simp] theorem State.emit_par (s : State) (o : Output) : (s.emit o).par = s.par := rfl

/-! ### request -/

@[simp] theorem State.request_pc (s : State) (k : BitVec 8) : (s.request k).pc = s.pc := rfl
@[simp] theorem State.request_x (s : State) (k : BitVec 8) : (s.request k).x = s.x := rfl
@[simp] theorem State.request_sr (s : State) (k : BitVec 8) : (s.request k).sr = s.sr := rfl
@[simp] theorem State.request_v (s : State) (k : BitVec 8) : (s.request k).v = s.v := rfl
@[simp] theorem State.request_fpcr (s : State) (k : BitVec 8) : (s.request k).fpcr = s.fpcr := rfl
@[simp] theorem State.request_lock (s : State) (k : BitVec 8) : (s.request k).lock = s.lock := rfl
@[simp] theorem State.request_itb (s : State) (k : BitVec 8) : (s.request k).itb = s.itb := rfl
@[simp] theorem State.request_itbPtr (s : State) (k : BitVec 8) : (s.request k).itbPtr = s.itbPtr := rfl
@[simp] theorem State.request_dtb (s : State) (k : BitVec 8) : (s.request k).dtb = s.dtb := rfl
@[simp] theorem State.request_icache (s : State) (k : BitVec 8) : (s.request k).icache = s.icache := rfl
@[simp] theorem State.request_mem (s : State) (k : BitVec 8) : (s.request k).mem = s.mem := rfl
@[simp] theorem State.request_timer (s : State) (k : BitVec 8) : (s.request k).timer = s.timer := rfl
@[simp] theorem State.request_hserrTime (s : State) (k : BitVec 8) : (s.request k).hserrTime = s.hserrTime := rfl
@[simp] theorem State.request_power (s : State) (k : BitVec 8) : (s.request k).power = s.power := rfl
@[simp] theorem State.request_ioWin (s : State) (k : BitVec 8) : (s.request k).ioWin = s.ioWin := rfl
@[simp] theorem State.request_armedFetch (s : State) (k : BitVec 8) : (s.request k).armedFetch = s.armedFetch := rfl
@[simp] theorem State.request_armedData (s : State) (k : BitVec 8) : (s.request k).armedData = s.armedData := rfl
@[simp] theorem State.request_fgroup (s : State) (k : BitVec 8) : (s.request k).fgroup = s.fgroup := rfl
@[simp] theorem State.request_env (s : State) (k : BitVec 8) : (s.request k).env = s.env := rfl
@[simp] theorem State.request_out (s : State) (k : BitVec 8) : (s.request k).out = s.out := rfl
@[simp] theorem State.request_freeCtr (s : State) (k : BitVec 8) : (s.request k).freeCtr = s.freeCtr := rfl
@[simp] theorem State.request_unsynced (s : State) (k : BitVec 8) : (s.request k).unsynced = s.unsynced := rfl
@[simp] theorem State.request_track (s : State) (k : BitVec 8) : (s.request k).track = s.track := rfl
@[simp] theorem State.request_midWrites (s : State) (k : BitVec 8) : (s.request k).midWrites = s.midWrites := rfl
@[simp] theorem State.request_inten (s : State) (k : BitVec 8) : (s.request k).inten = s.inten := rfl
@[simp] theorem State.request_heldIntr (s : State) (k : BitVec 8) : (s.request k).heldIntr = s.heldIntr := rfl
@[simp] theorem State.request_online (s : State) (k : BitVec 8) : (s.request k).online = s.online := rfl
@[simp] theorem State.request_intData (s : State) (k : BitVec 8) : (s.request k).intData = s.intData := rfl
@[simp] theorem State.request_par (s : State) (k : BitVec 8) : (s.request k).par = s.par := rfl

/-! ### machineCheck -/

@[simp] theorem State.machineCheck_pc (s : State) : (s.machineCheck).pc = s.pc := rfl
@[simp] theorem State.machineCheck_x (s : State) : (s.machineCheck).x = s.x := rfl
@[simp] theorem State.machineCheck_sr (s : State) : (s.machineCheck).sr = s.sr := rfl
@[simp] theorem State.machineCheck_v (s : State) : (s.machineCheck).v = s.v := rfl
@[simp] theorem State.machineCheck_fpcr (s : State) : (s.machineCheck).fpcr = s.fpcr := rfl
@[simp] theorem State.machineCheck_lock (s : State) : (s.machineCheck).lock = s.lock := rfl
@[simp] theorem State.machineCheck_itb (s : State) : (s.machineCheck).itb = s.itb := rfl
@[simp] theorem State.machineCheck_itbPtr (s : State) : (s.machineCheck).itbPtr = s.itbPtr := rfl
@[simp] theorem State.machineCheck_dtb (s : State) : (s.machineCheck).dtb = s.dtb := rfl
@[simp] theorem State.machineCheck_icache (s : State) : (s.machineCheck).icache = s.icache := rfl
@[simp] theorem State.machineCheck_mem (s : State) : (s.machineCheck).mem = s.mem := rfl
@[simp] theorem State.machineCheck_timer (s : State) : (s.machineCheck).timer = s.timer := rfl
@[simp] theorem State.machineCheck_hserrTime (s : State) : (s.machineCheck).hserrTime = s.hserrTime := rfl
@[simp] theorem State.machineCheck_power (s : State) : (s.machineCheck).power = s.power := rfl
@[simp] theorem State.machineCheck_ioWin (s : State) : (s.machineCheck).ioWin = s.ioWin := rfl
@[simp] theorem State.machineCheck_armedFetch (s : State) : (s.machineCheck).armedFetch = s.armedFetch := rfl
@[simp] theorem State.machineCheck_armedData (s : State) : (s.machineCheck).armedData = s.armedData := rfl
@[simp] theorem State.machineCheck_fgroup (s : State) : (s.machineCheck).fgroup = s.fgroup := rfl
@[simp] theorem State.machineCheck_env (s : State) : (s.machineCheck).env = s.env := rfl
@[simp] theorem State.machineCheck_out (s : State) : (s.machineCheck).out = s.out := rfl
@[simp] theorem State.machineCheck_freeCtr (s : State) : (s.machineCheck).freeCtr = s.freeCtr := rfl
@[simp] theorem State.machineCheck_unsynced (s : State) : (s.machineCheck).unsynced = s.unsynced := rfl
@[simp] theorem State.machineCheck_track (s : State) : (s.machineCheck).track = s.track := rfl
@[simp] theorem State.machineCheck_midWrites (s : State) : (s.machineCheck).midWrites = s.midWrites := rfl
@[simp] theorem State.machineCheck_inten (s : State) : (s.machineCheck).inten = s.inten := rfl
@[simp] theorem State.machineCheck_heldIntr (s : State) : (s.machineCheck).heldIntr = s.heldIntr := rfl
@[simp] theorem State.machineCheck_online (s : State) : (s.machineCheck).online = s.online := rfl
@[simp] theorem State.machineCheck_intData (s : State) : (s.machineCheck).intData = s.intData := rfl
@[simp] theorem State.machineCheck_par (s : State) : (s.machineCheck).par = s.par := rfl

/-! ### enter -/

@[simp] theorem State.enter_x (s : State) (off : BitVec 16) : (s.enter off).x = s.x := rfl
@[simp] theorem State.enter_sr (s : State) (off : BitVec 16) : (s.enter off).sr = s.sr := rfl
@[simp] theorem State.enter_v (s : State) (off : BitVec 16) : (s.enter off).v = s.v := rfl
@[simp] theorem State.enter_fpcr (s : State) (off : BitVec 16) : (s.enter off).fpcr = s.fpcr := rfl
@[simp] theorem State.enter_itb (s : State) (off : BitVec 16) : (s.enter off).itb = s.itb := rfl
@[simp] theorem State.enter_itbPtr (s : State) (off : BitVec 16) : (s.enter off).itbPtr = s.itbPtr := rfl
@[simp] theorem State.enter_dtb (s : State) (off : BitVec 16) : (s.enter off).dtb = s.dtb := rfl
@[simp] theorem State.enter_icache (s : State) (off : BitVec 16) : (s.enter off).icache = s.icache := rfl
@[simp] theorem State.enter_mem (s : State) (off : BitVec 16) : (s.enter off).mem = s.mem := rfl
@[simp] theorem State.enter_timer (s : State) (off : BitVec 16) : (s.enter off).timer = s.timer := rfl
@[simp] theorem State.enter_hserrTime (s : State) (off : BitVec 16) : (s.enter off).hserrTime = s.hserrTime := rfl
@[simp] theorem State.enter_power (s : State) (off : BitVec 16) : (s.enter off).power = s.power := rfl
@[simp] theorem State.enter_ioWin (s : State) (off : BitVec 16) : (s.enter off).ioWin = s.ioWin := rfl
@[simp] theorem State.enter_armedFetch (s : State) (off : BitVec 16) : (s.enter off).armedFetch = s.armedFetch := rfl
@[simp] theorem State.enter_armedData (s : State) (off : BitVec 16) : (s.enter off).armedData = s.armedData := rfl
@[simp] theorem State.enter_fgroup (s : State) (off : BitVec 16) : (s.enter off).fgroup = s.fgroup := rfl
@[simp] theorem State.enter_env (s : State) (off : BitVec 16) : (s.enter off).env = s.env := rfl
@[simp] theorem State.enter_out (s : State) (off : BitVec 16) : (s.enter off).out = s.out := rfl
@[simp] theorem State.enter_freeCtr (s : State) (off : BitVec 16) : (s.enter off).freeCtr = s.freeCtr := rfl
@[simp] theorem State.enter_unsynced (s : State) (off : BitVec 16) : (s.enter off).unsynced = s.unsynced := rfl
@[simp] theorem State.enter_track (s : State) (off : BitVec 16) : (s.enter off).track = s.track := rfl
@[simp] theorem State.enter_midWrites (s : State) (off : BitVec 16) : (s.enter off).midWrites = s.midWrites := rfl
@[simp] theorem State.enter_inten (s : State) (off : BitVec 16) : (s.enter off).inten = s.inten := rfl
@[simp] theorem State.enter_heldIntr (s : State) (off : BitVec 16) : (s.enter off).heldIntr = s.heldIntr := rfl
@[simp] theorem State.enter_online (s : State) (off : BitVec 16) : (s.enter off).online = s.online := rfl
@[simp] theorem State.enter_intData (s : State) (off : BitVec 16) : (s.enter off).intData = s.intData := rfl
@[simp] theorem State.enter_par (s : State) (off : BitVec 16) : (s.enter off).par = s.par := rfl

/-! ### raise -/

@[simp] theorem State.raise_x (s : State) (off : BitVec 16) (r : BitVec 5) (b : W64) : (s.raise off r b).x = s.x := rfl
@[simp] theorem State.raise_sr (s : State) (off : BitVec 16) (r : BitVec 5) (b : W64) : (s.raise off r b).sr = s.sr := rfl
@[simp] theorem State.raise_v (s : State) (off : BitVec 16) (r : BitVec 5) (b : W64) : (s.raise off r b).v = s.v := rfl
@[simp] theorem State.raise_fpcr (s : State) (off : BitVec 16) (r : BitVec 5) (b : W64) : (s.raise off r b).fpcr = s.fpcr := rfl
@[simp] theorem State.raise_itb (s : State) (off : BitVec 16) (r : BitVec 5) (b : W64) : (s.raise off r b).itb = s.itb := rfl
@[simp] theorem State.raise_itbPtr (s : State) (off : BitVec 16) (r : BitVec 5) (b : W64) : (s.raise off r b).itbPtr = s.itbPtr := rfl
@[simp] theorem State.raise_dtb (s : State) (off : BitVec 16) (r : BitVec 5) (b : W64) : (s.raise off r b).dtb = s.dtb := rfl
@[simp] theorem State.raise_icache (s : State) (off : BitVec 16) (r : BitVec 5) (b : W64) : (s.raise off r b).icache = s.icache := rfl
@[simp] theorem State.raise_mem (s : State) (off : BitVec 16) (r : BitVec 5) (b : W64) : (s.raise off r b).mem = s.mem := rfl
@[simp] theorem State.raise_timer (s : State) (off : BitVec 16) (r : BitVec 5) (b : W64) : (s.raise off r b).timer = s.timer := rfl
@[simp] theorem State.raise_hserrTime (s : State) (off : BitVec 16) (r : BitVec 5) (b : W64) : (s.raise off r b).hserrTime = s.hserrTime := rfl
@[simp] theorem State.raise_power (s : State) (off : BitVec 16) (r : BitVec 5) (b : W64) : (s.raise off r b).power = s.power := rfl
@[simp] theorem State.raise_ioWin (s : State) (off : BitVec 16) (r : BitVec 5) (b : W64) : (s.raise off r b).ioWin = s.ioWin := rfl
@[simp] theorem State.raise_armedFetch (s : State) (off : BitVec 16) (r : BitVec 5) (b : W64) : (s.raise off r b).armedFetch = s.armedFetch := rfl
@[simp] theorem State.raise_armedData (s : State) (off : BitVec 16) (r : BitVec 5) (b : W64) : (s.raise off r b).armedData = s.armedData := rfl
@[simp] theorem State.raise_fgroup (s : State) (off : BitVec 16) (r : BitVec 5) (b : W64) : (s.raise off r b).fgroup = s.fgroup := rfl
@[simp] theorem State.raise_env (s : State) (off : BitVec 16) (r : BitVec 5) (b : W64) : (s.raise off r b).env = s.env := rfl
@[simp] theorem State.raise_out (s : State) (off : BitVec 16) (r : BitVec 5) (b : W64) : (s.raise off r b).out = s.out := rfl
@[simp] theorem State.raise_freeCtr (s : State) (off : BitVec 16) (r : BitVec 5) (b : W64) : (s.raise off r b).freeCtr = s.freeCtr := rfl
@[simp] theorem State.raise_unsynced (s : State) (off : BitVec 16) (r : BitVec 5) (b : W64) : (s.raise off r b).unsynced = s.unsynced := rfl
@[simp] theorem State.raise_track (s : State) (off : BitVec 16) (r : BitVec 5) (b : W64) : (s.raise off r b).track = s.track := rfl
@[simp] theorem State.raise_midWrites (s : State) (off : BitVec 16) (r : BitVec 5) (b : W64) : (s.raise off r b).midWrites = s.midWrites := rfl
@[simp] theorem State.raise_inten (s : State) (off : BitVec 16) (r : BitVec 5) (b : W64) : (s.raise off r b).inten = s.inten := rfl
@[simp] theorem State.raise_heldIntr (s : State) (off : BitVec 16) (r : BitVec 5) (b : W64) : (s.raise off r b).heldIntr = s.heldIntr := rfl
@[simp] theorem State.raise_online (s : State) (off : BitVec 16) (r : BitVec 5) (b : W64) : (s.raise off r b).online = s.online := rfl
@[simp] theorem State.raise_intData (s : State) (off : BitVec 16) (r : BitVec 5) (b : W64) : (s.raise off r b).intData = s.intData := rfl
@[simp] theorem State.raise_par (s : State) (off : BitVec 16) (r : BitVec 5) (b : W64) : (s.raise off r b).par = s.par := rfl

/-! ### raiseData -/

@[simp] theorem State.raiseData_x (s : State) (off : BitVec 16) (r : BitVec 5) (wr : Bool) (b f d : W64) : (s.raiseData off r wr b f d).x = s.x := rfl
@[simp] theorem State.raiseData_sr (s : State) (off : BitVec 16) (r : BitVec 5) (wr : Bool) (b f d : W64) : (s.raiseData off r wr b f d).sr = s.sr := rfl
@[simp] theorem State.raiseData_v (s : State) (off : BitVec 16) (r : BitVec 5) (wr : Bool) (b f d : W64) : (s.raiseData off r wr b f d).v = s.v := rfl
@[simp] theorem State.raiseData_fpcr (s : State) (off : BitVec 16) (r : BitVec 5) (wr : Bool) (b f d : W64) : (s.raiseData off r wr b f d).fpcr = s.fpcr := rfl
@[simp] theorem State.raiseData_itb (s : State) (off : BitVec 16) (r : BitVec 5) (wr : Bool) (b f d : W64) : (s.raiseData off r wr b f d).itb = s.itb := rfl
@[simp] theorem State.raiseData_itbPtr (s : State) (off : BitVec 16) (r : BitVec 5) (wr : Bool) (b f d : W64) : (s.raiseData off r wr b f d).itbPtr = s.itbPtr := rfl
@[simp] theorem State.raiseData_dtb (s : State) (off : BitVec 16) (r : BitVec 5) (wr : Bool) (b f d : W64) : (s.raiseData off r wr b f d).dtb = s.dtb := rfl
@[simp] theorem State.raiseData_icache (s : State) (off : BitVec 16) (r : BitVec 5) (wr : Bool) (b f d : W64) : (s.raiseData off r wr b f d).icache = s.icache := rfl
@[simp] theorem State.raiseData_mem (s : State) (off : BitVec 16) (r : BitVec 5) (wr : Bool) (b f d : W64) : (s.raiseData off r wr b f d).mem = s.mem := rfl
@[simp] theorem State.raiseData_timer (s : State) (off : BitVec 16) (r : BitVec 5) (wr : Bool) (b f d : W64) : (s.raiseData off r wr b f d).timer = s.timer := rfl
@[simp] theorem State.raiseData_hserrTime (s : State) (off : BitVec 16) (r : BitVec 5) (wr : Bool) (b f d : W64) : (s.raiseData off r wr b f d).hserrTime = s.hserrTime := rfl
@[simp] theorem State.raiseData_power (s : State) (off : BitVec 16) (r : BitVec 5) (wr : Bool) (b f d : W64) : (s.raiseData off r wr b f d).power = s.power := rfl
@[simp] theorem State.raiseData_ioWin (s : State) (off : BitVec 16) (r : BitVec 5) (wr : Bool) (b f d : W64) : (s.raiseData off r wr b f d).ioWin = s.ioWin := rfl
@[simp] theorem State.raiseData_armedFetch (s : State) (off : BitVec 16) (r : BitVec 5) (wr : Bool) (b f d : W64) : (s.raiseData off r wr b f d).armedFetch = s.armedFetch := rfl
@[simp] theorem State.raiseData_armedData (s : State) (off : BitVec 16) (r : BitVec 5) (wr : Bool) (b f d : W64) : (s.raiseData off r wr b f d).armedData = s.armedData := rfl
@[simp] theorem State.raiseData_fgroup (s : State) (off : BitVec 16) (r : BitVec 5) (wr : Bool) (b f d : W64) : (s.raiseData off r wr b f d).fgroup = s.fgroup := rfl
@[simp] theorem State.raiseData_env (s : State) (off : BitVec 16) (r : BitVec 5) (wr : Bool) (b f d : W64) : (s.raiseData off r wr b f d).env = s.env := rfl
@[simp] theorem State.raiseData_out (s : State) (off : BitVec 16) (r : BitVec 5) (wr : Bool) (b f d : W64) : (s.raiseData off r wr b f d).out = s.out := rfl
@[simp] theorem State.raiseData_freeCtr (s : State) (off : BitVec 16) (r : BitVec 5) (wr : Bool) (b f d : W64) : (s.raiseData off r wr b f d).freeCtr = s.freeCtr := rfl
@[simp] theorem State.raiseData_unsynced (s : State) (off : BitVec 16) (r : BitVec 5) (wr : Bool) (b f d : W64) : (s.raiseData off r wr b f d).unsynced = s.unsynced := rfl
@[simp] theorem State.raiseData_track (s : State) (off : BitVec 16) (r : BitVec 5) (wr : Bool) (b f d : W64) : (s.raiseData off r wr b f d).track = s.track := rfl
@[simp] theorem State.raiseData_midWrites (s : State) (off : BitVec 16) (r : BitVec 5) (wr : Bool) (b f d : W64) : (s.raiseData off r wr b f d).midWrites = s.midWrites := rfl
@[simp] theorem State.raiseData_inten (s : State) (off : BitVec 16) (r : BitVec 5) (wr : Bool) (b f d : W64) : (s.raiseData off r wr b f d).inten = s.inten := rfl
@[simp] theorem State.raiseData_heldIntr (s : State) (off : BitVec 16) (r : BitVec 5) (wr : Bool) (b f d : W64) : (s.raiseData off r wr b f d).heldIntr = s.heldIntr := rfl
@[simp] theorem State.raiseData_online (s : State) (off : BitVec 16) (r : BitVec 5) (wr : Bool) (b f d : W64) : (s.raiseData off r wr b f d).online = s.online := rfl
@[simp] theorem State.raiseData_intData (s : State) (off : BitVec 16) (r : BitVec 5) (wr : Bool) (b f d : W64) : (s.raiseData off r wr b f d).intData = s.intData := rfl
@[simp] theorem State.raiseData_par (s : State) (off : BitVec 16) (r : BitVec 5) (wr : Bool) (b f d : W64) : (s.raiseData off r wr b f d).par = s.par := rfl

/-! ### interrupt -/

@[simp] theorem State.interrupt_x (s : State) (off : BitVec 16) : (s.interrupt off).x = s.x := rfl
@[simp] theorem State.interrupt_sr (s : State) (off : BitVec 16) : (s.interrupt off).sr = s.sr := rfl
@[simp] theorem State.interrupt_v (s : State) (off : BitVec 16) : (s.interrupt off).v = s.v := rfl
@[simp] theorem State.interrupt_fpcr (s : State) (off : BitVec 16) : (s.interrupt off).fpcr = s.fpcr := rfl
@[simp] theorem State.interrupt_itb (s : State) (off : BitVec 16) : (s.interrupt off).itb = s.itb := rfl
@[simp] theorem State.interrupt_itbPtr (s : State) (off : BitVec 16) : (s.interrupt off).itbPtr = s.itbPtr := rfl
@[simp] theorem State.interrupt_dtb (s : State) (off : BitVec 16) : (s.interrupt off).dtb = s.dtb := rfl
@[simp] theorem State.interrupt_icache (s : State) (off : BitVec 16) : (s.interrupt off).icache = s.icache := rfl
@[simp] theorem State.interrupt_mem (s : State) (off : BitVec 16) : (s.interrupt off).mem = s.mem := rfl
@[simp] theorem State.interrupt_timer (s : State) (off : BitVec 16) : (s.interrupt off).timer = s.timer := rfl
@[simp] theorem State.interrupt_hserrTime (s : State) (off : BitVec 16) : (s.interrupt off).hserrTime = s.hserrTime := rfl
@[simp] theorem State.interrupt_power (s : State) (off : BitVec 16) : (s.interrupt off).power = s.power := rfl
@[simp] theorem State.interrupt_ioWin (s : State) (off : BitVec 16) : (s.interrupt off).ioWin = s.ioWin := rfl
@[simp] theorem State.interrupt_armedFetch (s : State) (off : BitVec 16) : (s.interrupt off).armedFetch = s.armedFetch := rfl
@[simp] theorem State.interrupt_armedData (s : State) (off : BitVec 16) : (s.interrupt off).armedData = s.armedData := rfl
@[simp] theorem State.interrupt_fgroup (s : State) (off : BitVec 16) : (s.interrupt off).fgroup = s.fgroup := rfl
@[simp] theorem State.interrupt_env (s : State) (off : BitVec 16) : (s.interrupt off).env = s.env := rfl
@[simp] theorem State.interrupt_out (s : State) (off : BitVec 16) : (s.interrupt off).out = s.out := rfl
@[simp] theorem State.interrupt_freeCtr (s : State) (off : BitVec 16) : (s.interrupt off).freeCtr = s.freeCtr := rfl
@[simp] theorem State.interrupt_unsynced (s : State) (off : BitVec 16) : (s.interrupt off).unsynced = s.unsynced := rfl
@[simp] theorem State.interrupt_track (s : State) (off : BitVec 16) : (s.interrupt off).track = s.track := rfl
@[simp] theorem State.interrupt_midWrites (s : State) (off : BitVec 16) : (s.interrupt off).midWrites = s.midWrites := rfl
@[simp] theorem State.interrupt_inten (s : State) (off : BitVec 16) : (s.interrupt off).inten = s.inten := rfl
@[simp] theorem State.interrupt_heldIntr (s : State) (off : BitVec 16) : (s.interrupt off).heldIntr = s.heldIntr := rfl
@[simp] theorem State.interrupt_online (s : State) (off : BitVec 16) : (s.interrupt off).online = s.online := rfl
@[simp] theorem State.interrupt_intData (s : State) (off : BitVec 16) : (s.interrupt off).intData = s.intData := rfl
@[simp] theorem State.interrupt_par (s : State) (off : BitVec 16) : (s.interrupt off).par = s.par := rfl

/-! ### leave -/

@[simp] theorem State.leave_x (s : State) (w : W64) : (s.leave w).x = s.x := rfl
@[simp] theorem State.leave_sr (s : State) (w : W64) : (s.leave w).sr = s.sr := rfl
@[simp] theorem State.leave_v (s : State) (w : W64) : (s.leave w).v = s.v := rfl
@[simp] theorem State.leave_fpcr (s : State) (w : W64) : (s.leave w).fpcr = s.fpcr := rfl
@[simp] theorem State.leave_csr (s : State) (w : W64) : (s.leave w).csr = s.csr := rfl
@[simp] theorem State.leave_itb (s : State) (w : W64) : (s.leave w).itb = s.itb := rfl
@[simp] theorem State.leave_itbPtr (s : State) (w : W64) : (s.leave w).itbPtr = s.itbPtr := rfl
@[simp] theorem State.leave_dtb (s : State) (w : W64) : (s.leave w).dtb = s.dtb := rfl
@[simp] theorem State.leave_icache (s : State) (w : W64) : (s.leave w).icache = s.icache := rfl
@[simp] theorem State.leave_mem (s : State) (w : W64) : (s.leave w).mem = s.mem := rfl
@[simp] theorem State.leave_timer (s : State) (w : W64) : (s.leave w).timer = s.timer := rfl
@[simp] theorem State.leave_hserrTime (s : State) (w : W64) : (s.leave w).hserrTime = s.hserrTime := rfl
@[simp] theorem State.leave_power (s : State) (w : W64) : (s.leave w).power = s.power := rfl
@[simp] theorem State.leave_ioWin (s : State) (w : W64) : (s.leave w).ioWin = s.ioWin := rfl
@[simp] theorem State.leave_armedFetch (s : State) (w : W64) : (s.leave w).armedFetch = s.armedFetch := rfl
@[simp] theorem State.leave_armedData (s : State) (w : W64) : (s.leave w).armedData = s.armedData := rfl
@[simp] theorem State.leave_fgroup (s : State) (w : W64) : (s.leave w).fgroup = s.fgroup := rfl
@[simp] theorem State.leave_env (s : State) (w : W64) : (s.leave w).env = s.env := rfl
@[simp] theorem State.leave_out (s : State) (w : W64) : (s.leave w).out = s.out := rfl
@[simp] theorem State.leave_freeCtr (s : State) (w : W64) : (s.leave w).freeCtr = s.freeCtr := rfl
@[simp] theorem State.leave_unsynced (s : State) (w : W64) : (s.leave w).unsynced = s.unsynced := rfl
@[simp] theorem State.leave_track (s : State) (w : W64) : (s.leave w).track = s.track := rfl
@[simp] theorem State.leave_midWrites (s : State) (w : W64) : (s.leave w).midWrites = s.midWrites := rfl
@[simp] theorem State.leave_inten (s : State) (w : W64) : (s.leave w).inten = s.inten := rfl
@[simp] theorem State.leave_heldIntr (s : State) (w : W64) : (s.leave w).heldIntr = s.heldIntr := rfl
@[simp] theorem State.leave_online (s : State) (w : W64) : (s.leave w).online = s.online := rfl
@[simp] theorem State.leave_intData (s : State) (w : W64) : (s.leave w).intData = s.intData := rfl
@[simp] theorem State.leave_par (s : State) (w : W64) : (s.leave w).par = s.par := rfl

/-! ### unlock -/

@[simp] theorem State.unlock_pc (s : State) : (s.unlock).pc = s.pc := rfl
@[simp] theorem State.unlock_x (s : State) : (s.unlock).x = s.x := rfl
@[simp] theorem State.unlock_sr (s : State) : (s.unlock).sr = s.sr := rfl
@[simp] theorem State.unlock_v (s : State) : (s.unlock).v = s.v := rfl
@[simp] theorem State.unlock_fpcr (s : State) : (s.unlock).fpcr = s.fpcr := rfl
@[simp] theorem State.unlock_csr (s : State) : (s.unlock).csr = s.csr := rfl
@[simp] theorem State.unlock_itb (s : State) : (s.unlock).itb = s.itb := rfl
@[simp] theorem State.unlock_itbPtr (s : State) : (s.unlock).itbPtr = s.itbPtr := rfl
@[simp] theorem State.unlock_dtb (s : State) : (s.unlock).dtb = s.dtb := rfl
@[simp] theorem State.unlock_icache (s : State) : (s.unlock).icache = s.icache := rfl
@[simp] theorem State.unlock_mem (s : State) : (s.unlock).mem = s.mem := rfl
@[simp] theorem State.unlock_timer (s : State) : (s.unlock).timer = s.timer := rfl
@[simp] theorem State.unlock_hserrTime (s : State) : (s.unlock).hserrTime = s.hserrTime := rfl
@[simp] theorem State.unlock_power (s : State) : (s.unlock).power = s.power := rfl
@[simp] theorem State.unlock_ioWin (s : State) : (s.unlock).ioWin = s.ioWin := rfl
@[simp] theorem State.unlock_armedFetch (s : State) : (s.unlock).armedFetch = s.armedFetch := rfl
@[simp] theorem State.unlock_armedData (s : State) : (s.unlock).armedData = s.armedData := rfl
@[simp] theorem State.unlock_fgroup (s : State) : (s.unlock).fgroup = s.fgroup := rfl
@[simp] theorem State.unlock_env (s : State) : (s.unlock).env = s.env := rfl
@[simp] theorem State.unlock_out (s : State) : (s.unlock).out = s.out := rfl
@[simp] theorem State.unlock_freeCtr (s : State) : (s.unlock).freeCtr = s.freeCtr := rfl
@[simp] theorem State.unlock_unsynced (s : State) : (s.unlock).unsynced = s.unsynced := rfl
@[simp] theorem State.unlock_track (s : State) : (s.unlock).track = s.track := rfl
@[simp] theorem State.unlock_midWrites (s : State) : (s.unlock).midWrites = s.midWrites := rfl
@[simp] theorem State.unlock_inten (s : State) : (s.unlock).inten = s.inten := rfl
@[simp] theorem State.unlock_heldIntr (s : State) : (s.unlock).heldIntr = s.heldIntr := rfl
@[simp] theorem State.unlock_online (s : State) : (s.unlock).online = s.online := rfl
@[simp] theorem State.unlock_intData (s : State) : (s.unlock).intData = s.intData := rfl
@[simp] theorem State.unlock_par (s : State) : (s.unlock).par = s.par := rfl

/-! ### addPc0 -/

@[simp] theorem State.addPc0_pc (s : State) (n : Nat) : (s.addPc0 n).pc = s.pc := rfl
@[simp] theorem State.addPc0_x (s : State) (n : Nat) : (s.addPc0 n).x = s.x := rfl
@[simp] theorem State.addPc0_sr (s : State) (n : Nat) : (s.addPc0 n).sr = s.sr := rfl
@[simp] theorem State.addPc0_v (s : State) (n : Nat) : (s.addPc0 n).v = s.v := rfl
@[simp] theorem State.addPc0_fpcr (s : State) (n : Nat) : (s.addPc0 n).fpcr = s.fpcr := rfl
@[simp] theorem State.addPc0_lock (s : State) (n : Nat) : (s.addPc0 n).lock = s.lock := rfl
@[simp] theorem State.addPc0_itb (s : State) (n : Nat) : (s.addPc0 n).itb = s.itb := rfl
@[simp] theorem State.addPc0_itbPtr (s : State) (n : Nat) : (s.addPc0 n).itbPtr = s.itbPtr := rfl
@[simp] theorem State.addPc0_dtb (s : State) (n : Nat) : (s.addPc0 n).dtb = s.dtb := rfl
@[simp] theorem State.addPc0_icache (s : State) (n : Nat) : (s.addPc0 n).icache = s.icache := rfl
@[simp] theorem State.addPc0_mem (s : State) (n : Nat) : (s.addPc0 n).mem = s.mem := rfl
@[simp] theorem State.addPc0_timer (s : State) (n : Nat) : (s.addPc0 n).timer = s.timer := rfl
@[simp] theorem State.addPc0_hserrTime (s : State) (n : Nat) : (s.addPc0 n).hserrTime = s.hserrTime := rfl
@[simp] theorem State.addPc0_power (s : State) (n : Nat) : (s.addPc0 n).power = s.power := rfl
@[simp] theorem State.addPc0_ioWin (s : State) (n : Nat) : (s.addPc0 n).ioWin = s.ioWin := rfl
@[simp] theorem State.addPc0_armedFetch (s : State) (n : Nat) : (s.addPc0 n).armedFetch = s.armedFetch := rfl
@[simp] theorem State.addPc0_armedData (s : State) (n : Nat) : (s.addPc0 n).armedData = s.armedData := rfl
@[simp] theorem State.addPc0_fgroup (s : State) (n : Nat) : (s.addPc0 n).fgroup = s.fgroup := rfl
@[simp] theorem State.addPc0_env (s : State) (n : Nat) : (s.addPc0 n).env = s.env := rfl
@[simp] theorem State.addPc0_out (s : State) (n : Nat) : (s.addPc0 n).out = s.out := rfl
@[simp] theorem State.addPc0_freeCtr (s : State) (n : Nat) : (s.addPc0 n).freeCtr = s.freeCtr := rfl
@[simp] theorem State.addPc0_unsynced (s : State) (n : Nat) : (s.addPc0 n).unsynced = s.unsynced := rfl
@[simp] theorem State.addPc0_track (s : State) (n : Nat) : (s.addPc0 n).track = s.track := rfl
@[simp] theorem State.addPc0_midWrites (s : State) (n : Nat) : (s.addPc0 n).midWrites = s.midWrites := rfl
@[simp] theorem State.addPc0_inten (s : State) (n : Nat) : (s.addPc0 n).inten = s.inten := rfl
@[simp] theorem State.addPc0_heldIntr (s : State) (n : Nat) : (s.addPc0 n).heldIntr = s.heldIntr := rfl
@[simp] theorem State.addPc0_online (s : State) (n : Nat) : (s.addPc0 n).online = s.online := rfl
@[simp] theorem State.addPc0_intData (s : State) (n : Nat) : (s.addPc0 n).intData = s.intData := rfl
@[simp] theorem State.addPc0_par (s : State) (n : Nat) : (s.addPc0 n).par = s.par := rfl

/-! ### addPc1 -/

@[simp] theorem State.addPc1_pc (s : State) (n : Nat) : (s.addPc1 n).pc = s.pc := rfl
@[simp] theorem State.addPc1_x (s : State) (n : Nat) : (s.addPc1 n).x = s.x := rfl
@[simp] theorem State.addPc1_sr (s : State) (n : Nat) : (s.addPc1 n).sr = s.sr := rfl
@[simp] theorem State.addPc1_v (s : State) (n : Nat) : (s.addPc1 n).v = s.v := rfl
@[simp] theorem State.addPc1_fpcr (s : State) (n : Nat) : (s.addPc1 n).fpcr = s.fpcr := rfl
@[simp] theorem State.addPc1_lock (s : State) (n : Nat) : (s.addPc1 n).lock = s.lock := rfl
@[simp] theorem State.addPc1_itb (s : State) (n : Nat) : (s.addPc1 n).itb = s.itb := rfl
@[simp] theorem State.addPc1_itbPtr (s : State) (n : Nat) : (s.addPc1 n).itbPtr = s.itbPtr := rfl
@[simp] theorem State.addPc1_dtb (s : State) (n : Nat) : (s.addPc1 n).dtb = s.dtb := rfl
@[simp] theorem State.addPc1_icache (s : State) (n : Nat) : (s.addPc1 n).icache = s.icache := rfl
@[simp] theorem State.addPc1_mem (s : State) (n : Nat) : (s.addPc1 n).mem = s.mem := rfl
@[simp] theorem State.addPc1_timer (s : State) (n : Nat) : (s.addPc1 n).timer = s.timer := rfl
@[simp] theorem State.addPc1_hserrTime (s : State) (n : Nat) : (s.addPc1 n).hserrTime = s.hserrTime := rfl
@[simp] theorem State.addPc1_power (s : State) (n : Nat) : (s.addPc1 n).power = s.power := rfl
@[simp] theorem State.addPc1_ioWin (s : State) (n : Nat) : (s.addPc1 n).ioWin = s.ioWin := rfl
@[simp] theorem State.addPc1_armedFetch (s : State) (n : Nat) : (s.addPc1 n).armedFetch = s.armedFetch := rfl
@[simp] theorem State.addPc1_armedData (s : State) (n : Nat) : (s.addPc1 n).armedData = s.armedData := rfl
@[simp] theorem State.addPc1_fgroup (s : State) (n : Nat) : (s.addPc1 n).fgroup = s.fgroup := rfl
@[simp] theorem State.addPc1_env (s : State) (n : Nat) : (s.addPc1 n).env = s.env := rfl
@[simp] theorem State.addPc1_out (s : State) (n : Nat) : (s.addPc1 n).out = s.out := rfl
@[simp] theorem State.addPc1_freeCtr (s : State) (n : Nat) : (s.addPc1 n).freeCtr = s.freeCtr := rfl
@[simp] theorem State.addPc1_unsynced (s : State) (n : Nat) : (s.addPc1 n).unsynced = s.unsynced := rfl
@[simp] theorem State.addPc1_track (s : State) (n : Nat) : (s.addPc1 n).track = s.track := rfl
@[simp] theorem State.addPc1_midWrites (s : State) (n : Nat) : (s.addPc1 n).midWrites = s.midWrites := rfl
@[simp] theorem State.addPc1_inten (s : State) (n : Nat) : (s.addPc1 n).inten = s.inten := rfl
@[simp] theorem State.addPc1_heldIntr (s : State) (n : Nat) : (s.addPc1 n).heldIntr = s.heldIntr := rfl
@[simp] theorem State.addPc1_online (s : State) (n : Nat) : (s.addPc1 n).online = s.online := rfl
@[simp] theorem State.addPc1_intData (s : State) (n : Nat) : (s.addPc1 n).intData = s.intData := rfl
@[simp] theorem State.addPc1_par (s : State) (n : Nat) : (s.addPc1 n).par = s.par := rfl

/-! ### count -/

@[simp] theorem State.count_pc (s : State) (e : EventClass) : (s.count e).pc = s.pc := by unfold State.count; split <;> rfl
@[simp] theorem State.count_x (s : State) (e : EventClass) : (s.count e).x = s.x := by unfold State.count; split <;> rfl
@[simp] theorem State.count_sr (s : State) (e : EventClass) : (s.count e).sr = s.sr := by unfold State.count; split <;> rfl
@[simp] theorem State.count_v (s : State) (e : EventClass) : (s.count e).v = s.v := by unfold State.count; split <;> rfl
@[simp] theorem State.count_fpcr (s : State) (e : EventClass) : (s.count e).fpcr = s.fpcr := by unfold State.count; split <;> rfl
@[simp] theorem State.count_lock (s : State) (e : EventClass) : (s.count e).lock = s.lock := by unfold State.count; split <;> rfl
@[simp] theorem State.count_itb (s : State) (e : EventClass) : (s.count e).itb = s.itb := by unfold State.count; split <;> rfl
@[simp] theorem State.count_itbPtr (s : State) (e : EventClass) : (s.count e).itbPtr = s.itbPtr := by unfold State.count; split <;> rfl
@[simp] theorem State.count_dtb (s : State) (e : EventClass) : (s.count e).dtb = s.dtb := by unfold State.count; split <;> rfl
@[simp] theorem State.count_icache (s : State) (e : EventClass) : (s.count e).icache = s.icache := by unfold State.count; split <;> rfl
@[simp] theorem State.count_mem (s : State) (e : EventClass) : (s.count e).mem = s.mem := by unfold State.count; split <;> rfl
@[simp] theorem State.count_timer (s : State) (e : EventClass) : (s.count e).timer = s.timer := by unfold State.count; split <;> rfl
@[simp] theorem State.count_hserrTime (s : State) (e : EventClass) : (s.count e).hserrTime = s.hserrTime := by unfold State.count; split <;> rfl
@[simp] theorem State.count_power (s : State) (e : EventClass) : (s.count e).power = s.power := by unfold State.count; split <;> rfl
@[simp] theorem State.count_ioWin (s : State) (e : EventClass) : (s.count e).ioWin = s.ioWin := by unfold State.count; split <;> rfl
@[simp] theorem State.count_armedFetch (s : State) (e : EventClass) : (s.count e).armedFetch = s.armedFetch := by unfold State.count; split <;> rfl
@[simp] theorem State.count_armedData (s : State) (e : EventClass) : (s.count e).armedData = s.armedData := by unfold State.count; split <;> rfl
@[simp] theorem State.count_fgroup (s : State) (e : EventClass) : (s.count e).fgroup = s.fgroup := by unfold State.count; split <;> rfl
@[simp] theorem State.count_env (s : State) (e : EventClass) : (s.count e).env = s.env := by unfold State.count; split <;> rfl
@[simp] theorem State.count_out (s : State) (e : EventClass) : (s.count e).out = s.out := by unfold State.count; split <;> rfl
@[simp] theorem State.count_freeCtr (s : State) (e : EventClass) : (s.count e).freeCtr = s.freeCtr := by unfold State.count; split <;> rfl
@[simp] theorem State.count_unsynced (s : State) (e : EventClass) : (s.count e).unsynced = s.unsynced := by unfold State.count; split <;> rfl
@[simp] theorem State.count_track (s : State) (e : EventClass) : (s.count e).track = s.track := by unfold State.count; split <;> rfl
@[simp] theorem State.count_midWrites (s : State) (e : EventClass) : (s.count e).midWrites = s.midWrites := by unfold State.count; split <;> rfl
@[simp] theorem State.count_inten (s : State) (e : EventClass) : (s.count e).inten = s.inten := by unfold State.count; split <;> rfl
@[simp] theorem State.count_heldIntr (s : State) (e : EventClass) : (s.count e).heldIntr = s.heldIntr := by unfold State.count; split <;> rfl
@[simp] theorem State.count_online (s : State) (e : EventClass) : (s.count e).online = s.online := by unfold State.count; split <;> rfl
@[simp] theorem State.count_intData (s : State) (e : EventClass) : (s.count e).intData = s.intData := by unfold State.count; split <;> rfl
@[simp] theorem State.count_par (s : State) (e : EventClass) : (s.count e).par = s.par := by unfold State.count; split <;> rfl

/-! ### retire -/

@[simp] theorem State.retire_x (s : State) (e : EventClass) : (s.retire e).x = s.x := by unfold State.retire State.count; split <;> rfl
@[simp] theorem State.retire_sr (s : State) (e : EventClass) : (s.retire e).sr = s.sr := by unfold State.retire State.count; split <;> rfl
@[simp] theorem State.retire_v (s : State) (e : EventClass) : (s.retire e).v = s.v := by unfold State.retire State.count; split <;> rfl
@[simp] theorem State.retire_fpcr (s : State) (e : EventClass) : (s.retire e).fpcr = s.fpcr := by unfold State.retire State.count; split <;> rfl
@[simp] theorem State.retire_lock (s : State) (e : EventClass) : (s.retire e).lock = s.lock := by unfold State.retire State.count; split <;> rfl
@[simp] theorem State.retire_itb (s : State) (e : EventClass) : (s.retire e).itb = s.itb := by unfold State.retire State.count; split <;> rfl
@[simp] theorem State.retire_itbPtr (s : State) (e : EventClass) : (s.retire e).itbPtr = s.itbPtr := by unfold State.retire State.count; split <;> rfl
@[simp] theorem State.retire_dtb (s : State) (e : EventClass) : (s.retire e).dtb = s.dtb := by unfold State.retire State.count; split <;> rfl
@[simp] theorem State.retire_icache (s : State) (e : EventClass) : (s.retire e).icache = s.icache := by unfold State.retire State.count; split <;> rfl
@[simp] theorem State.retire_mem (s : State) (e : EventClass) : (s.retire e).mem = s.mem := by unfold State.retire State.count; split <;> rfl
@[simp] theorem State.retire_timer (s : State) (e : EventClass) : (s.retire e).timer = s.timer := by unfold State.retire State.count; split <;> rfl
@[simp] theorem State.retire_hserrTime (s : State) (e : EventClass) : (s.retire e).hserrTime = s.hserrTime := by unfold State.retire State.count; split <;> rfl
@[simp] theorem State.retire_power (s : State) (e : EventClass) : (s.retire e).power = s.power := by unfold State.retire State.count; split <;> rfl
@[simp] theorem State.retire_ioWin (s : State) (e : EventClass) : (s.retire e).ioWin = s.ioWin := by unfold State.retire State.count; split <;> rfl
@[simp] theorem State.retire_armedFetch (s : State) (e : EventClass) : (s.retire e).armedFetch = s.armedFetch := by unfold State.retire State.count; split <;> rfl
@[simp] theorem State.retire_armedData (s : State) (e : EventClass) : (s.retire e).armedData = s.armedData := by unfold State.retire State.count; split <;> rfl
@[simp] theorem State.retire_fgroup (s : State) (e : EventClass) : (s.retire e).fgroup = s.fgroup := by unfold State.retire State.count; split <;> rfl
@[simp] theorem State.retire_env (s : State) (e : EventClass) : (s.retire e).env = s.env := by unfold State.retire State.count; split <;> rfl
@[simp] theorem State.retire_out (s : State) (e : EventClass) : (s.retire e).out = s.out := by unfold State.retire State.count; split <;> rfl
@[simp] theorem State.retire_freeCtr (s : State) (e : EventClass) : (s.retire e).freeCtr = s.freeCtr := by unfold State.retire State.count; split <;> rfl
@[simp] theorem State.retire_unsynced (s : State) (e : EventClass) : (s.retire e).unsynced = s.unsynced := by unfold State.retire State.count; split <;> rfl
@[simp] theorem State.retire_track (s : State) (e : EventClass) : (s.retire e).track = s.track := by unfold State.retire State.count; split <;> rfl
@[simp] theorem State.retire_midWrites (s : State) (e : EventClass) : (s.retire e).midWrites = s.midWrites := by unfold State.retire State.count; split <;> rfl
@[simp] theorem State.retire_inten (s : State) (e : EventClass) : (s.retire e).inten = s.inten := by unfold State.retire State.count; split <;> rfl
@[simp] theorem State.retire_heldIntr (s : State) (e : EventClass) : (s.retire e).heldIntr = s.heldIntr := by unfold State.retire State.count; split <;> rfl
@[simp] theorem State.retire_online (s : State) (e : EventClass) : (s.retire e).online = s.online := by unfold State.retire State.count; split <;> rfl
@[simp] theorem State.retire_intData (s : State) (e : EventClass) : (s.retire e).intData = s.intData := by unfold State.retire State.count; split <;> rfl
@[simp] theorem State.retire_par (s : State) (e : EventClass) : (s.retire e).par = s.par := by unfold State.retire State.count; split <;> rfl

/-! ### flagIs -/

@[simp] theorem State.flagIs_pc (s : State) (n : Nat) : (s.flagIs n).pc = s.pc := rfl
@[simp] theorem State.flagIs_x (s : State) (n : Nat) : (s.flagIs n).x = s.x := rfl
@[simp] theorem State.flagIs_sr (s : State) (n : Nat) : (s.flagIs n).sr = s.sr := rfl
@[simp] theorem State.flagIs_v (s : State) (n : Nat) : (s.flagIs n).v = s.v := rfl
@[simp] theorem State.flagIs_fpcr (s : State) (n : Nat) : (s.flagIs n).fpcr = s.fpcr := rfl
@[simp] theorem State.flagIs_lock (s : State) (n : Nat) : (s.flagIs n).lock = s.lock := rfl
@[simp] theorem State.flagIs_itb (s : State) (n : Nat) : (s.flagIs n).itb = s.itb := rfl
@[simp] theorem State.flagIs_itbPtr (s : State) (n : Nat) : (s.flagIs n).itbPtr = s.itbPtr := rfl
@[simp] theorem State.flagIs_dtb (s : State) (n : Nat) : (s.flagIs n).dtb = s.dtb := rfl
@[simp] theorem State.flagIs_icache (s : State) (n : Nat) : (s.flagIs n).icache = s.icache := rfl
@[simp] theorem State.flagIs_mem (s : State) (n : Nat) : (s.flagIs n).mem = s.mem := rfl
@[simp] theorem State.flagIs_timer (s : State) (n : Nat) : (s.flagIs n).timer = s.timer := rfl
@[simp] theorem State.flagIs_hserrTime (s : State) (n : Nat) : (s.flagIs n).hserrTime = s.hserrTime := rfl
@[simp] theorem State.flagIs_power (s : State) (n : Nat) : (s.flagIs n).power = s.power := rfl
@[simp] theorem State.flagIs_ioWin (s : State) (n : Nat) : (s.flagIs n).ioWin = s.ioWin := rfl
@[simp] theorem State.flagIs_armedFetch (s : State) (n : Nat) : (s.flagIs n).armedFetch = s.armedFetch := rfl
@[simp] theorem State.flagIs_armedData (s : State) (n : Nat) : (s.flagIs n).armedData = s.armedData := rfl
@[simp] theorem State.flagIs_fgroup (s : State) (n : Nat) : (s.flagIs n).fgroup = s.fgroup := rfl
@[simp] theorem State.flagIs_env (s : State) (n : Nat) : (s.flagIs n).env = s.env := rfl
@[simp] theorem State.flagIs_out (s : State) (n : Nat) : (s.flagIs n).out = s.out := rfl
@[simp] theorem State.flagIs_freeCtr (s : State) (n : Nat) : (s.flagIs n).freeCtr = s.freeCtr := rfl
@[simp] theorem State.flagIs_unsynced (s : State) (n : Nat) : (s.flagIs n).unsynced = s.unsynced := rfl
@[simp] theorem State.flagIs_track (s : State) (n : Nat) : (s.flagIs n).track = s.track := rfl
@[simp] theorem State.flagIs_midWrites (s : State) (n : Nat) : (s.flagIs n).midWrites = s.midWrites := rfl
@[simp] theorem State.flagIs_inten (s : State) (n : Nat) : (s.flagIs n).inten = s.inten := rfl
@[simp] theorem State.flagIs_heldIntr (s : State) (n : Nat) : (s.flagIs n).heldIntr = s.heldIntr := rfl
@[simp] theorem State.flagIs_online (s : State) (n : Nat) : (s.flagIs n).online = s.online := rfl
@[simp] theorem State.flagIs_intData (s : State) (n : Nat) : (s.flagIs n).intData = s.intData := rfl
@[simp] theorem State.flagIs_par (s : State) (n : Nat) : (s.flagIs n).par = s.par := rfl

/-! ### flagDc -/

@[simp] theorem State.flagDc_pc (s : State) (n : Nat) : (s.flagDc n).pc = s.pc := rfl
@[simp] theorem State.flagDc_x (s : State) (n : Nat) : (s.flagDc n).x = s.x := rfl
@[simp] theorem State.flagDc_sr (s : State) (n : Nat) : (s.flagDc n).sr = s.sr := rfl
@[simp] theorem State.flagDc_v (s : State) (n : Nat) : (s.flagDc n).v = s.v := rfl
@[simp] theorem State.flagDc_fpcr (s : State) (n : Nat) : (s.flagDc n).fpcr = s.fpcr := rfl
@[simp] theorem State.flagDc_lock (s : State) (n : Nat) : (s.flagDc n).lock = s.lock := rfl
@[simp] theorem State.flagDc_itb (s : State) (n : Nat) : (s.flagDc n).itb = s.itb := rfl
@[simp] theorem State.flagDc_itbPtr (s : State) (n : Nat) : (s.flagDc n).itbPtr = s.itbPtr := rfl
@[simp] theorem State.flagDc_dtb (s : State) (n : Nat) : (s.flagDc n).dtb = s.dtb := rfl
@[simp] theorem State.flagDc_icache (s : State) (n : Nat) : (s.flagDc n).icache = s.icache := rfl
@[simp] theorem State.flagDc_mem (s : State) (n : Nat) : (s.flagDc n).mem = s.mem := rfl
@[simp] theorem State.flagDc_timer (s : State) (n : Nat) : (s.flagDc n).timer = s.timer := rfl
@[simp] theorem State.flagDc_hserrTime (s : State) (n : Nat) : (s.flagDc n).hserrTime = s.hserrTime := rfl
@[simp] theorem State.flagDc_power (s : State) (n : Nat) : (s.flagDc n).power = s.power := rfl
@[simp] theorem State.flagDc_ioWin (s : State) (n : Nat) : (s.flagDc n).ioWin = s.ioWin := rfl
@[simp] theorem State.flagDc_armedFetch (s : State) (n : Nat) : (s.flagDc n).armedFetch = s.armedFetch := rfl
@[simp] theorem State.flagDc_armedData (s : State) (n : Nat) : (s.flagDc n).armedData = s.armedData := rfl
@[simp] theorem State.flagDc_fgroup (s : State) (n : Nat) : (s.flagDc n).fgroup = s.fgroup := rfl
@[simp] theorem State.flagDc_env (s : State) (n : Nat) : (s.flagDc n).env = s.env := rfl
@[simp] theorem State.flagDc_out (s : State) (n : Nat) : (s.flagDc n).out = s.out := rfl
@[simp] theorem State.flagDc_freeCtr (s : State) (n : Nat) : (s.flagDc n).freeCtr = s.freeCtr := rfl
@[simp] theorem State.flagDc_unsynced (s : State) (n : Nat) : (s.flagDc n).unsynced = s.unsynced := rfl
@[simp] theorem State.flagDc_track (s : State) (n : Nat) : (s.flagDc n).track = s.track := rfl
@[simp] theorem State.flagDc_midWrites (s : State) (n : Nat) : (s.flagDc n).midWrites = s.midWrites := rfl
@[simp] theorem State.flagDc_inten (s : State) (n : Nat) : (s.flagDc n).inten = s.inten := rfl
@[simp] theorem State.flagDc_heldIntr (s : State) (n : Nat) : (s.flagDc n).heldIntr = s.heldIntr := rfl
@[simp] theorem State.flagDc_online (s : State) (n : Nat) : (s.flagDc n).online = s.online := rfl
@[simp] theorem State.flagDc_intData (s : State) (n : Nat) : (s.flagDc n).intData = s.intData := rfl
@[simp] theorem State.flagDc_par (s : State) (n : Nat) : (s.flagDc n).par = s.par := rfl

/-! ### flagSc -/

@[simp] theorem State.flagSc_pc (s : State) (n : Nat) : (s.flagSc n).pc = s.pc := rfl
@[simp] theorem State.flagSc_x (s : State) (n : Nat) : (s.flagSc n).x = s.x := rfl
@[simp] theorem State.flagSc_sr (s : State) (n : Nat) : (s.flagSc n).sr = s.sr := rfl
@[simp] theorem State.flagSc_v (s : State) (n : Nat) : (s.flagSc n).v = s.v := rfl
@[simp] theorem State.flagSc_fpcr (s : State) (n : Nat) : (s.flagSc n).fpcr = s.fpcr := rfl
@[simp] theorem State.flagSc_lock (s : State) (n : Nat) : (s.flagSc n).lock = s.lock := rfl
@[simp] theorem State.flagSc_itb (s : State) (n : Nat) : (s.flagSc n).itb = s.itb := rfl
@[simp] theorem State.flagSc_itbPtr (s : State) (n : Nat) : (s.flagSc n).itbPtr = s.itbPtr := rfl
@[simp] theorem State.flagSc_dtb (s : State) (n : Nat) : (s.flagSc n).dtb = s.dtb := rfl
@[simp] theorem State.flagSc_icache (s : State) (n : Nat) : (s.flagSc n).icache = s.icache := rfl
@[simp] theorem State.flagSc_mem (s : State) (n : Nat) : (s.flagSc n).mem = s.mem := rfl
@[simp] theorem State.flagSc_timer (s : State) (n : Nat) : (s.flagSc n).timer = s.timer := rfl
@[simp] theorem State.flagSc_hserrTime (s : State) (n : Nat) : (s.flagSc n).hserrTime = s.hserrTime := rfl
@[simp] theorem State.flagSc_power (s : State) (n : Nat) : (s.flagSc n).power = s.power := rfl
@[simp] theorem State.flagSc_ioWin (s : State) (n : Nat) : (s.flagSc n).ioWin = s.ioWin := rfl
@[simp] theorem State.flagSc_armedFetch (s : State) (n : Nat) : (s.flagSc n).armedFetch = s.armedFetch := rfl
@[simp] theorem State.flagSc_armedData (s : State) (n : Nat) : (s.flagSc n).armedData = s.armedData := rfl
@[simp] theorem State.flagSc_fgroup (s : State) (n : Nat) : (s.flagSc n).fgroup = s.fgroup := rfl
@[simp] theorem State.flagSc_env (s : State) (n : Nat) : (s.flagSc n).env = s.env := rfl
@[simp] theorem State.flagSc_out (s : State) (n : Nat) : (s.flagSc n).out = s.out := rfl
@[simp] theorem State.flagSc_freeCtr (s : State) (n : Nat) : (s.flagSc n).freeCtr = s.freeCtr := rfl
@[simp] theorem State.flagSc_unsynced (s : State) (n : Nat) : (s.flagSc n).unsynced = s.unsynced := rfl
@[simp] theorem State.flagSc_track (s : State) (n : Nat) : (s.flagSc n).track = s.track := rfl
@[simp] theorem State.flagSc_midWrites (s : State) (n : Nat) : (s.flagSc n).midWrites = s.midWrites := rfl
@[simp] theorem State.flagSc_inten (s : State) (n : Nat) : (s.flagSc n).inten = s.inten := rfl
@[simp] theorem State.flagSc_heldIntr (s : State) (n : Nat) : (s.flagSc n).heldIntr = s.heldIntr := rfl
@[simp] theorem State.flagSc_online (s : State) (n : Nat) : (s.flagSc n).online = s.online := rfl
@[simp] theorem State.flagSc_intData (s : State) (n : Nat) : (s.flagSc n).intData = s.intData := rfl
@[simp] theorem State.flagSc_par (s : State) (n : Nat) : (s.flagSc n).par = s.par := rfl

/-! ### countCorrected -/

@[simp] theorem State.countCorrected_pc (s : State) : (s.countCorrected).pc = s.pc := by unfold State.countCorrected; dsimp only; split <;> split <;> rfl
@[simp] theorem State.countCorrected_x (s : State) : (s.countCorrected).x = s.x := by unfold State.countCorrected; dsimp only; split <;> split <;> rfl
@[simp] theorem State.countCorrected_sr (s : State) : (s.countCorrected).sr = s.sr := by unfold State.countCorrected; dsimp only; split <;> split <;> rfl
@[simp] theorem State.countCorrected_v (s : State) : (s.countCorrected).v = s.v := by unfold State.countCorrected; dsimp only; split <;> split <;> rfl
@[simp] theorem State.countCorrected_fpcr (s : State) : (s.countCorrected).fpcr = s.fpcr := by unfold State.countCorrected; dsimp only; split <;> split <;> rfl
@[simp] theorem State.countCorrected_lock (s : State) : (s.countCorrected).lock = s.lock := by unfold State.countCorrected; dsimp only; split <;> split <;> rfl
@[simp] theorem State.countCorrected_itb (s : State) : (s.countCorrected).itb = s.itb := by unfold State.countCorrected; dsimp only; split <;> split <;> rfl
@[simp] theorem State.countCorrected_itbPtr (s : State) : (s.countCorrected).itbPtr = s.itbPtr := by unfold State.countCorrected; dsimp only; split <;> split <;> rfl
@[simp] theorem State.countCorrected_dtb (s : State) : (s.countCorrected).dtb = s.dtb := by unfold State.countCorrected; dsimp only; split <;> split <;> rfl
@[simp] theorem State.countCorrected_icache (s : State) : (s.countCorrected).icache = s.icache := by unfold State.countCorrected; dsimp only; split <;> split <;> rfl
@[simp] theorem State.countCorrected_mem (s : State) : (s.countCorrected).mem = s.mem := by unfold State.countCorrected; dsimp only; split <;> split <;> rfl
@[simp] theorem State.countCorrected_timer (s : State) : (s.countCorrected).timer = s.timer := by unfold State.countCorrected; dsimp only; split <;> split <;> rfl
@[simp] theorem State.countCorrected_hserrTime (s : State) : (s.countCorrected).hserrTime = s.hserrTime := by unfold State.countCorrected; dsimp only; split <;> split <;> rfl
@[simp] theorem State.countCorrected_power (s : State) : (s.countCorrected).power = s.power := by unfold State.countCorrected; dsimp only; split <;> split <;> rfl
@[simp] theorem State.countCorrected_ioWin (s : State) : (s.countCorrected).ioWin = s.ioWin := by unfold State.countCorrected; dsimp only; split <;> split <;> rfl
@[simp] theorem State.countCorrected_armedFetch (s : State) : (s.countCorrected).armedFetch = s.armedFetch := by unfold State.countCorrected; dsimp only; split <;> split <;> rfl
@[simp] theorem State.countCorrected_armedData (s : State) : (s.countCorrected).armedData = s.armedData := by unfold State.countCorrected; dsimp only; split <;> split <;> rfl
@[simp] theorem State.countCorrected_fgroup (s : State) : (s.countCorrected).fgroup = s.fgroup := by unfold State.countCorrected; dsimp only; split <;> split <;> rfl
@[simp] theorem State.countCorrected_env (s : State) : (s.countCorrected).env = s.env := by unfold State.countCorrected; dsimp only; split <;> split <;> rfl
@[simp] theorem State.countCorrected_freeCtr (s : State) : (s.countCorrected).freeCtr = s.freeCtr := by unfold State.countCorrected; dsimp only; split <;> split <;> rfl
@[simp] theorem State.countCorrected_unsynced (s : State) : (s.countCorrected).unsynced = s.unsynced := by unfold State.countCorrected; dsimp only; split <;> split <;> rfl
@[simp] theorem State.countCorrected_track (s : State) : (s.countCorrected).track = s.track := by unfold State.countCorrected; dsimp only; split <;> split <;> rfl
@[simp] theorem State.countCorrected_midWrites (s : State) : (s.countCorrected).midWrites = s.midWrites := by unfold State.countCorrected; dsimp only; split <;> split <;> rfl
@[simp] theorem State.countCorrected_inten (s : State) : (s.countCorrected).inten = s.inten := by unfold State.countCorrected; dsimp only; split <;> split <;> rfl
@[simp] theorem State.countCorrected_heldIntr (s : State) : (s.countCorrected).heldIntr = s.heldIntr := by unfold State.countCorrected; dsimp only; split <;> split <;> rfl
@[simp] theorem State.countCorrected_online (s : State) : (s.countCorrected).online = s.online := by unfold State.countCorrected; dsimp only; split <;> split <;> rfl
@[simp] theorem State.countCorrected_intData (s : State) : (s.countCorrected).intData = s.intData := by unfold State.countCorrected; dsimp only; split <;> split <;> rfl
@[simp] theorem State.countCorrected_par (s : State) : (s.countCorrected).par = s.par := by unfold State.countCorrected; dsimp only; split <;> split <;> rfl

/-! ### sboxCheck -/

@[simp] theorem State.sboxCheck_pc (s : State) (en b : Nat) : (s.sboxCheck en b).pc = s.pc := by unfold State.sboxCheck; split <;> rfl
@[simp] theorem State.sboxCheck_x (s : State) (en b : Nat) : (s.sboxCheck en b).x = s.x := by unfold State.sboxCheck; split <;> rfl
@[simp] theorem State.sboxCheck_sr (s : State) (en b : Nat) : (s.sboxCheck en b).sr = s.sr := by unfold State.sboxCheck; split <;> rfl
@[simp] theorem State.sboxCheck_v (s : State) (en b : Nat) : (s.sboxCheck en b).v = s.v := by unfold State.sboxCheck; split <;> rfl
@[simp] theorem State.sboxCheck_fpcr (s : State) (en b : Nat) : (s.sboxCheck en b).fpcr = s.fpcr := by unfold State.sboxCheck; split <;> rfl
@[simp] theorem State.sboxCheck_lock (s : State) (en b : Nat) : (s.sboxCheck en b).lock = s.lock := by unfold State.sboxCheck; split <;> rfl
@[simp] theorem State.sboxCheck_itb (s : State) (en b : Nat) : (s.sboxCheck en b).itb = s.itb := by unfold State.sboxCheck; split <;> rfl
@[simp] theorem State.sboxCheck_itbPtr (s : State) (en b : Nat) : (s.sboxCheck en b).itbPtr = s.itbPtr := by unfold State.sboxCheck; split <;> rfl
@[simp] theorem State.sboxCheck_dtb (s : State) (en b : Nat) : (s.sboxCheck en b).dtb = s.dtb := by unfold State.sboxCheck; split <;> rfl
@[simp] theorem State.sboxCheck_icache (s : State) (en b : Nat) : (s.sboxCheck en b).icache = s.icache := by unfold State.sboxCheck; split <;> rfl
@[simp] theorem State.sboxCheck_mem (s : State) (en b : Nat) : (s.sboxCheck en b).mem = s.mem := by unfold State.sboxCheck; split <;> rfl
@[simp] theorem State.sboxCheck_timer (s : State) (en b : Nat) : (s.sboxCheck en b).timer = s.timer := by unfold State.sboxCheck; split <;> rfl
@[simp] theorem State.sboxCheck_hserrTime (s : State) (en b : Nat) : (s.sboxCheck en b).hserrTime = s.hserrTime := by unfold State.sboxCheck; split <;> rfl
@[simp] theorem State.sboxCheck_power (s : State) (en b : Nat) : (s.sboxCheck en b).power = s.power := by unfold State.sboxCheck; split <;> rfl
@[simp] theorem State.sboxCheck_ioWin (s : State) (en b : Nat) : (s.sboxCheck en b).ioWin = s.ioWin := by unfold State.sboxCheck; split <;> rfl
@[simp] theorem State.sboxCheck_armedFetch (s : State) (en b : Nat) : (s.sboxCheck en b).armedFetch = s.armedFetch := by unfold State.sboxCheck; split <;> rfl
@[simp] theorem State.sboxCheck_armedData (s : State) (en b : Nat) : (s.sboxCheck en b).armedData = s.armedData := by unfold State.sboxCheck; split <;> rfl
@[simp] theorem State.sboxCheck_fgroup (s : State) (en b : Nat) : (s.sboxCheck en b).fgroup = s.fgroup := by unfold State.sboxCheck; split <;> rfl
@[simp] theorem State.sboxCheck_env (s : State) (en b : Nat) : (s.sboxCheck en b).env = s.env := by unfold State.sboxCheck; split <;> rfl
@[simp] theorem State.sboxCheck_out (s : State) (en b : Nat) : (s.sboxCheck en b).out = s.out := by unfold State.sboxCheck; split <;> rfl
@[simp] theorem State.sboxCheck_freeCtr (s : State) (en b : Nat) : (s.sboxCheck en b).freeCtr = s.freeCtr := by unfold State.sboxCheck; split <;> rfl
@[simp] theorem State.sboxCheck_unsynced (s : State) (en b : Nat) : (s.sboxCheck en b).unsynced = s.unsynced := by unfold State.sboxCheck; split <;> rfl
@[simp] theorem State.sboxCheck_track (s : State) (en b : Nat) : (s.sboxCheck en b).track = s.track := by unfold State.sboxCheck; split <;> rfl
@[simp] theorem State.sboxCheck_midWrites (s : State) (en b : Nat) : (s.sboxCheck en b).midWrites = s.midWrites := by unfold State.sboxCheck; split <;> rfl
@[simp] theorem State.sboxCheck_inten (s : State) (en b : Nat) : (s.sboxCheck en b).inten = s.inten := by unfold State.sboxCheck; split <;> rfl
@[simp] theorem State.sboxCheck_heldIntr (s : State) (en b : Nat) : (s.sboxCheck en b).heldIntr = s.heldIntr := by unfold State.sboxCheck; split <;> rfl
@[simp] theorem State.sboxCheck_online (s : State) (en b : Nat) : (s.sboxCheck en b).online = s.online := by unfold State.sboxCheck; split <;> rfl
@[simp] theorem State.sboxCheck_intData (s : State) (en b : Nat) : (s.sboxCheck en b).intData = s.intData := by unfold State.sboxCheck; split <;> rfl
@[simp] theorem State.sboxCheck_par (s : State) (en b : Nat) : (s.sboxCheck en b).par = s.par := by unfold State.sboxCheck; split <;> rfl

/-! ### requestError -/

@[simp] theorem State.requestError_pc (s : State) : (s.requestError).pc = s.pc := by unfold State.requestError State.sboxCheck; split <;> rfl
@[simp] theorem State.requestError_x (s : State) : (s.requestError).x = s.x := by unfold State.requestError State.sboxCheck; split <;> rfl
@[simp] theorem State.requestError_sr (s : State) : (s.requestError).sr = s.sr := by unfold State.requestError State.sboxCheck; split <;> rfl
@[simp] theorem State.requestError_v (s : State) : (s.requestError).v = s.v := by unfold State.requestError State.sboxCheck; split <;> rfl
@[simp] theorem State.requestError_fpcr (s : State) : (s.requestError).fpcr = s.fpcr := by unfold State.requestError State.sboxCheck; split <;> rfl
@[simp] theorem State.requestError_lock (s : State) : (s.requestError).lock = s.lock := by unfold State.requestError State.sboxCheck; split <;> rfl
@[simp] theorem State.requestError_itb (s : State) : (s.requestError).itb = s.itb := by unfold State.requestError State.sboxCheck; split <;> rfl
@[simp] theorem State.requestError_itbPtr (s : State) : (s.requestError).itbPtr = s.itbPtr := by unfold State.requestError State.sboxCheck; split <;> rfl
@[simp] theorem State.requestError_dtb (s : State) : (s.requestError).dtb = s.dtb := by unfold State.requestError State.sboxCheck; split <;> rfl
@[simp] theorem State.requestError_icache (s : State) : (s.requestError).icache = s.icache := by unfold State.requestError State.sboxCheck; split <;> rfl
@[simp] theorem State.requestError_mem (s : State) : (s.requestError).mem = s.mem := by unfold State.requestError State.sboxCheck; split <;> rfl
@[simp] theorem State.requestError_timer (s : State) : (s.requestError).timer = s.timer := by unfold State.requestError State.sboxCheck; split <;> rfl
@[simp] theorem State.requestError_hserrTime (s : State) : (s.requestError).hserrTime = s.hserrTime := by unfold State.requestError State.sboxCheck; split <;> rfl
@[simp] theorem State.requestError_power (s : State) : (s.requestError).power = s.power := by unfold State.requestError State.sboxCheck; split <;> rfl
@[simp] theorem State.requestError_ioWin (s : State) : (s.requestError).ioWin = s.ioWin := by unfold State.requestError State.sboxCheck; split <;> rfl
@[simp] theorem State.requestError_armedFetch (s : State) : (s.requestError).armedFetch = s.armedFetch := by unfold State.requestError State.sboxCheck; split <;> rfl
@[simp] theorem State.requestError_armedData (s : State) : (s.requestError).armedData = s.armedData := by unfold State.requestError State.sboxCheck; split <;> rfl
@[simp] theorem State.requestError_fgroup (s : State) : (s.requestError).fgroup = s.fgroup := by unfold State.requestError State.sboxCheck; split <;> rfl
@[simp] theorem State.requestError_env (s : State) : (s.requestError).env = s.env := by unfold State.requestError State.sboxCheck; split <;> rfl
@[simp] theorem State.requestError_out (s : State) : (s.requestError).out = s.out := by unfold State.requestError State.sboxCheck; split <;> rfl
@[simp] theorem State.requestError_freeCtr (s : State) : (s.requestError).freeCtr = s.freeCtr := by unfold State.requestError State.sboxCheck; split <;> rfl
@[simp] theorem State.requestError_unsynced (s : State) : (s.requestError).unsynced = s.unsynced := by unfold State.requestError State.sboxCheck; split <;> rfl
@[simp] theorem State.requestError_track (s : State) : (s.requestError).track = s.track := by unfold State.requestError State.sboxCheck; split <;> rfl
@[simp] theorem State.requestError_midWrites (s : State) : (s.requestError).midWrites = s.midWrites := by unfold State.requestError State.sboxCheck; split <;> rfl
@[simp] theorem State.requestError_inten (s : State) : (s.requestError).inten = s.inten := by unfold State.requestError State.sboxCheck; split <;> rfl
@[simp] theorem State.requestError_heldIntr (s : State) : (s.requestError).heldIntr = s.heldIntr := by unfold State.requestError State.sboxCheck; split <;> rfl
@[simp] theorem State.requestError_online (s : State) : (s.requestError).online = s.online := by unfold State.requestError State.sboxCheck; split <;> rfl
@[simp] theorem State.requestError_intData (s : State) : (s.requestError).intData = s.intData := by unfold State.requestError State.sboxCheck; split <;> rfl
@[simp] theorem State.requestError_par (s : State) : (s.requestError).par = s.par := by unfold State.requestError State.sboxCheck; split <;> rfl

/-! ### writeAddrError -/

@[simp] theorem State.writeAddrError_pc (s : State) (k : WriteKind) : (s.writeAddrError k).pc = s.pc := by unfold State.writeAddrError; split <;> rfl
@[simp] theorem State.writeAddrError_x (s : State) (k : WriteKind) : (s.writeAddrError k).x = s.x := by unfold State.writeAddrError; split <;> rfl
@[simp] theorem State.writeAddrError_sr (s : State) (k : WriteKind) : (s.writeAddrError k).sr = s.sr := by unfold State.writeAddrError; split <;> rfl
@[simp] theorem State.writeAddrError_v (s : State) (k : WriteKind) : (s.writeAddrError k).v = s.v := by unfold State.writeAddrError; split <;> rfl
@[simp] theorem State.writeAddrError_fpcr (s : State) (k : WriteKind) : (s.writeAddrError k).fpcr = s.fpcr := by unfold State.writeAddrError; split <;> rfl
@[simp] theorem State.writeAddrError_lock (s : State) (k : WriteKind) : (s.writeAddrError k).lock = s.lock := by unfold State.writeAddrError; split <;> rfl
@[simp] theorem State.writeAddrError_itb (s : State) (k : WriteKind) : (s.writeAddrError k).itb = s.itb := by unfold State.writeAddrError; split <;> rfl
@[simp] theorem State.writeAddrError_itbPtr (s : State) (k : WriteKind) : (s.writeAddrError k).itbPtr = s.itbPtr := by unfold State.writeAddrError; split <;> rfl
@[simp] theorem State.writeAddrError_dtb (s : State) (k : WriteKind) : (s.writeAddrError k).dtb = s.dtb := by unfold State.writeAddrError; split <;> rfl
@[simp] theorem State.writeAddrError_icache (s : State) (k : WriteKind) : (s.writeAddrError k).icache = s.icache := by unfold State.writeAddrError; split <;> rfl
@[simp] theorem State.writeAddrError_mem (s : State) (k : WriteKind) : (s.writeAddrError k).mem = s.mem := by unfold State.writeAddrError; split <;> rfl
@[simp] theorem State.writeAddrError_timer (s : State) (k : WriteKind) : (s.writeAddrError k).timer = s.timer := by unfold State.writeAddrError; split <;> rfl
@[simp] theorem State.writeAddrError_hserrTime (s : State) (k : WriteKind) : (s.writeAddrError k).hserrTime = s.hserrTime := by unfold State.writeAddrError; split <;> rfl
@[simp] theorem State.writeAddrError_power (s : State) (k : WriteKind) : (s.writeAddrError k).power = s.power := by unfold State.writeAddrError; split <;> rfl
@[simp] theorem State.writeAddrError_ioWin (s : State) (k : WriteKind) : (s.writeAddrError k).ioWin = s.ioWin := by unfold State.writeAddrError; split <;> rfl
@[simp] theorem State.writeAddrError_armedFetch (s : State) (k : WriteKind) : (s.writeAddrError k).armedFetch = s.armedFetch := by unfold State.writeAddrError; split <;> rfl
@[simp] theorem State.writeAddrError_armedData (s : State) (k : WriteKind) : (s.writeAddrError k).armedData = s.armedData := by unfold State.writeAddrError; split <;> rfl
@[simp] theorem State.writeAddrError_fgroup (s : State) (k : WriteKind) : (s.writeAddrError k).fgroup = s.fgroup := by unfold State.writeAddrError; split <;> rfl
@[simp] theorem State.writeAddrError_env (s : State) (k : WriteKind) : (s.writeAddrError k).env = s.env := by unfold State.writeAddrError; split <;> rfl
@[simp] theorem State.writeAddrError_freeCtr (s : State) (k : WriteKind) : (s.writeAddrError k).freeCtr = s.freeCtr := by unfold State.writeAddrError; split <;> rfl
@[simp] theorem State.writeAddrError_unsynced (s : State) (k : WriteKind) : (s.writeAddrError k).unsynced = s.unsynced := by unfold State.writeAddrError; split <;> rfl
@[simp] theorem State.writeAddrError_track (s : State) (k : WriteKind) : (s.writeAddrError k).track = s.track := by unfold State.writeAddrError; split <;> rfl
@[simp] theorem State.writeAddrError_midWrites (s : State) (k : WriteKind) : (s.writeAddrError k).midWrites = s.midWrites := by unfold State.writeAddrError; split <;> rfl
@[simp] theorem State.writeAddrError_inten (s : State) (k : WriteKind) : (s.writeAddrError k).inten = s.inten := by unfold State.writeAddrError; split <;> rfl
@[simp] theorem State.writeAddrError_heldIntr (s : State) (k : WriteKind) : (s.writeAddrError k).heldIntr = s.heldIntr := by unfold State.writeAddrError; split <;> rfl
@[simp] theorem State.writeAddrError_online (s : State) (k : WriteKind) : (s.writeAddrError k).online = s.online := by unfold State.writeAddrError; split <;> rfl
@[simp] theorem State.writeAddrError_intData (s : State) (k : WriteKind) : (s.writeAddrError k).intData = s.intData := by unfold State.writeAddrError; split <;> rfl
@[simp] theorem State.writeAddrError_par (s : State) (k : WriteKind) : (s.writeAddrError k).par = s.par := by unfold State.writeAddrError; split <;> rfl

/-! ### dfault -/

@[simp] theorem State.dfault_x (s : State) (a : Acc) (f d : W64) : (s.dfault a f d).x = s.x := rfl
@[simp] theorem State.dfault_sr (s : State) (a : Acc) (f d : W64) : (s.dfault a f d).sr = s.sr := rfl
@[simp] theorem State.dfault_v (s : State) (a : Acc) (f d : W64) : (s.dfault a f d).v = s.v := rfl
@[simp] theorem State.dfault_fpcr (s : State) (a : Acc) (f d : W64) : (s.dfault a f d).fpcr = s.fpcr := rfl
@[simp] theorem State.dfault_itb (s : State) (a : Acc) (f d : W64) : (s.dfault a f d).itb = s.itb := rfl
@[simp] theorem State.dfault_itbPtr (s : State) (a : Acc) (f d : W64) : (s.dfault a f d).itbPtr = s.itbPtr := rfl
@[simp] theorem State.dfault_dtb (s : State) (a : Acc) (f d : W64) : (s.dfault a f d).dtb = s.dtb := rfl
@[simp] theorem State.dfault_icache (s : State) (a : Acc) (f d : W64) : (s.dfault a f d).icache = s.icache := rfl
@[simp] theorem State.dfault_mem (s : State) (a : Acc) (f d : W64) : (s.dfault a f d).mem = s.mem := rfl
@[simp] theorem State.dfault_timer (s : State) (a : Acc) (f d : W64) : (s.dfault a f d).timer = s.timer := rfl
@[simp] theorem State.dfault_hserrTime (s : State) (a : Acc) (f d : W64) : (s.dfault a f d).hserrTime = s.hserrTime := rfl
@[simp] theorem State.dfault_power (s : State) (a : Acc) (f d : W64) : (s.dfault a f d).power = s.power := rfl
@[simp] theorem State.dfault_ioWin (s : State) (a : Acc) (f d : W64) : (s.dfault a f d).ioWin = s.ioWin := rfl
@[simp] theorem State.dfault_armedFetch (s : State) (a : Acc) (f d : W64) : (s.dfault a f d).armedFetch = s.armedFetch := rfl
@[simp] theorem State.dfault_armedData (s : State) (a : Acc) (f d : W64) : (s.dfault a f d).armedData = s.armedData := rfl
@[simp] theorem State.dfault_fgroup (s : State) (a : Acc) (f d : W64) : (s.dfault a f d).fgroup = s.fgroup := rfl
@[simp] theorem State.dfault_env (s : State) (a : Acc) (f d : W64) : (s.dfault a f d).env = s.env := rfl
@[simp] theorem State.dfault_out (s : State) (a : Acc) (f d : W64) : (s.dfault a f d).out = s.out := rfl
@[simp] theorem State.dfault_freeCtr (s : State) (a : Acc) (f d : W64) : (s.dfault a f d).freeCtr = s.freeCtr := rfl
@[simp] theorem State.dfault_unsynced (s : State) (a : Acc) (f d : W64) : (s.dfault a f d).unsynced = s.unsynced := rfl
@[simp] theorem State.dfault_track (s : State) (a : Acc) (f d : W64) : (s.dfault a f d).track = s.track := rfl
@[simp] theorem State.dfault_midWrites (s : State) (a : Acc) (f d : W64) : (s.dfault a f d).midWrites = s.midWrites := rfl
@[simp] theorem State.dfault_inten (s : State) (a : Acc) (f d : W64) : (s.dfault a f d).inten = s.inten := rfl
@[simp] theorem State.dfault_heldIntr (s : State) (a : Acc) (f d : W64) : (s.dfault a f d).heldIntr = s.heldIntr := rfl
@[simp] theorem State.dfault_online (s : State) (a : Acc) (f d : W64) : (s.dfault a f d).online = s.online := rfl
@[simp] theorem State.dfault_intData (s : State) (a : Acc) (f d : W64) : (s.dfault a f d).intData = s.intData := rfl
@[simp] theorem State.dfault_par (s : State) (a : Acc) (f d : W64) : (s.dfault a f d).par = s.par := rfl

/-! ### unalign -/

@[simp] theorem State.unalign_x (s : State) (a : Acc) (d : W64) : (s.unalign a d).x = s.x := by unfold State.unalign; rfl
@[simp] theorem State.unalign_sr (s : State) (a : Acc) (d : W64) : (s.unalign a d).sr = s.sr := by unfold State.unalign; rfl
@[simp] theorem State.unalign_v (s : State) (a : Acc) (d : W64) : (s.unalign a d).v = s.v := by unfold State.unalign; rfl
@[simp] theorem State.unalign_fpcr (s : State) (a : Acc) (d : W64) : (s.unalign a d).fpcr = s.fpcr := by unfold State.unalign; rfl
@[simp] theorem State.unalign_itb (s : State) (a : Acc) (d : W64) : (s.unalign a d).itb = s.itb := by unfold State.unalign; rfl
@[simp] theorem State.unalign_itbPtr (s : State) (a : Acc) (d : W64) : (s.unalign a d).itbPtr = s.itbPtr := by unfold State.unalign; rfl
@[simp] theorem State.unalign_dtb (s : State) (a : Acc) (d : W64) : (s.unalign a d).dtb = s.dtb := by unfold State.unalign; rfl
@[simp] theorem State.unalign_icache (s : State) (a : Acc) (d : W64) : (s.unalign a d).icache = s.icache := by unfold State.unalign; rfl
@[simp] theorem State.unalign_mem (s : State) (a : Acc) (d : W64) : (s.unalign a d).mem = s.mem := by unfold State.unalign; rfl
@[simp] theorem State.unalign_timer (s : State) (a : Acc) (d : W64) : (s.unalign a d).timer = s.timer := by unfold State.unalign; rfl
@[simp] theorem State.unalign_hserrTime (s : State) (a : Acc) (d : W64) : (s.unalign a d).hserrTime = s.hserrTime := by unfold State.unalign; rfl
@[simp] theorem State.unalign_power (s : State) (a : Acc) (d : W64) : (s.unalign a d).power = s.power := by unfold State.unalign; rfl
@[simp] theorem State.unalign_ioWin (s : State) (a : Acc) (d : W64) : (s.unalign a d).ioWin = s.ioWin := by unfold State.unalign; rfl
@[simp] theorem State.unalign_armedFetch (s : State) (a : Acc) (d : W64) : (s.unalign a d).armedFetch = s.armedFetch := by unfold State.unalign; rfl
@[simp] theorem State.unalign_armedData (s : State) (a : Acc) (d : W64) : (s.unalign a d).armedData = s.armedData := by unfold State.unalign; rfl
@[simp] theorem State.unalign_fgroup (s : State) (a : Acc) (d : W64) : (s.unalign a d).fgroup = s.fgroup := by unfold State.unalign; rfl
@[simp] theorem State.unalign_env (s : State) (a : Acc) (d : W64) : (s.unalign a d).env = s.env := by unfold State.unalign; rfl
@[simp] theorem State.unalign_out (s : State) (a : Acc) (d : W64) : (s.unalign a d).out = s.out := by unfold State.unalign; rfl
@[simp] theorem State.unalign_freeCtr (s : State) (a : Acc) (d : W64) : (s.unalign a d).freeCtr = s.freeCtr := by unfold State.unalign; rfl
@[simp] theorem State.unalign_unsynced (s : State) (a : Acc) (d : W64) : (s.unalign a d).unsynced = s.unsynced := by unfold State.unalign; rfl
@[simp] theorem State.unalign_track (s : State) (a : Acc) (d : W64) : (s.unalign a d).track = s.track := by unfold State.unalign; rfl
@[simp] theorem State.unalign_midWrites (s : State) (a : Acc) (d : W64) : (s.unalign a d).midWrites = s.midWrites := by unfold State.unalign; rfl
@[simp] theorem State.unalign_inten (s : State) (a : Acc) (d : W64) : (s.unalign a d).inten = s.inten := by unfold State.unalign; rfl
@[simp] theorem State.unalign_heldIntr (s : State) (a : Acc) (d : W64) : (s.unalign a d).heldIntr = s.heldIntr := by unfold State.unalign; rfl
@[simp] theorem State.unalign_online (s : State) (a : Acc) (d : W64) : (s.unalign a d).online = s.online := by unfold State.unalign; rfl
@[simp] theorem State.unalign_intData (s : State) (a : Acc) (d : W64) : (s.unalign a d).intData = s.intData := by unfold State.unalign; rfl
@[simp] theorem State.unalign_par (s : State) (a : Acc) (d : W64) : (s.unalign a d).par = s.par := by unfold State.unalign; rfl

/-! ### dtbMiss -/

@[simp] theorem State.dtbMiss_x (s : State) (a : Acc) (d : W64) : (s.dtbMiss a d).x = s.x := by unfold State.dtbMiss; split <;> rfl
@[simp] theorem State.dtbMiss_sr (s : State) (a : Acc) (d : W64) : (s.dtbMiss a d).sr = s.sr := by unfold State.dtbMiss; split <;> rfl
@[simp] theorem State.dtbMiss_v (s : State) (a : Acc) (d : W64) : (s.dtbMiss a d).v = s.v := by unfold State.dtbMiss; split <;> rfl
@[simp] theorem State.dtbMiss_fpcr (s : State) (a : Acc) (d : W64) : (s.dtbMiss a d).fpcr = s.fpcr := by unfold State.dtbMiss; split <;> rfl
@[simp] theorem State.dtbMiss_itb (s : State) (a : Acc) (d : W64) : (s.dtbMiss a d).itb = s.itb := by unfold State.dtbMiss; split <;> rfl
@[simp] theorem State.dtbMiss_itbPtr (s : State) (a : Acc) (d : W64) : (s.dtbMiss a d).itbPtr = s.itbPtr := by unfold State.dtbMiss; split <;> rfl
@[simp] theorem State.dtbMiss_dtb (s : State) (a : Acc) (d : W64) : (s.dtbMiss a d).dtb = s.dtb := by unfold State.dtbMiss; split <;> rfl
@[simp] theorem State.dtbMiss_icache (s : State) (a : Acc) (d : W64) : (s.dtbMiss a d).icache = s.icache := by unfold State.dtbMiss; split <;> rfl
@[simp] theorem State.dtbMiss_mem (s : State) (a : Acc) (d : W64) : (s.dtbMiss a d).mem = s.mem := by unfold State.dtbMiss; split <;> rfl
@[simp] theorem State.dtbMiss_timer (s : State) (a : Acc) (d : W64) : (s.dtbMiss a d).timer = s.timer := by unfold State.dtbMiss; split <;> rfl
@[simp] theorem State.dtbMiss_hserrTime (s : State) (a : Acc) (d : W64) : (s.dtbMiss a d).hserrTime = s.hserrTime := by unfold State.dtbMiss; split <;> rfl
@[simp] theorem State.dtbMiss_power (s : State) (a : Acc) (d : W64) : (s.dtbMiss a d).power = s.power := by unfold State.dtbMiss; split <;> rfl
@[simp] theorem State.dtbMiss_ioWin (s : State) (a : Acc) (d : W64) : (s.dtbMiss a d).ioWin = s.ioWin := by unfold State.dtbMiss; split <;> rfl
@[simp] theorem State.dtbMiss_armedFetch (s : State) (a : Acc) (d : W64) : (s.dtbMiss a d).armedFetch = s.armedFetch := by unfold State.dtbMiss; split <;> rfl
@[simp] theorem State.dtbMiss_armedData (s : State) (a : Acc) (d : W64) : (s.dtbMiss a d).armedData = s.armedData := by unfold State.dtbMiss; split <;> rfl
@[simp] theorem State.dtbMiss_fgroup (s : State) (a : Acc) (d : W64) : (s.dtbMiss a d).fgroup = s.fgroup := by unfold State.dtbMiss; split <;> rfl
@[simp] theorem State.dtbMiss_env (s : State) (a : Acc) (d : W64) : (s.dtbMiss a d).env = s.env := by unfold State.dtbMiss; split <;> rfl
@[simp] theorem State.dtbMiss_out (s : State) (a : Acc) (d : W64) : (s.dtbMiss a d).out = s.out := by unfold State.dtbMiss; split <;> rfl
@[simp] theorem State.dtbMiss_freeCtr (s : State) (a : Acc) (d : W64) : (s.dtbMiss a d).freeCtr = s.freeCtr := by unfold State.dtbMiss; split <;> rfl
@[simp] theorem State.dtbMiss_unsynced (s : State) (a : Acc) (d : W64) : (s.dtbMiss a d).unsynced = s.unsynced := by unfold State.dtbMiss; split <;> rfl
@[simp] theorem State.dtbMiss_track (s : State) (a : Acc) (d : W64) : (s.dtbMiss a d).track = s.track := by unfold State.dtbMiss; split <;> rfl
@[simp] theorem State.dtbMiss_midWrites (s : State) (a : Acc) (d : W64) : (s.dtbMiss a d).midWrites = s.midWrites := by unfold State.dtbMiss; split <;> rfl
@[simp] theorem State.dtbMiss_inten (s : State) (a : Acc) (d : W64) : (s.dtbMiss a d).inten = s.inten := by unfold State.dtbMiss; split <;> rfl
@[simp] theorem State.dtbMiss_heldIntr (s : State) (a : Acc) (d : W64) : (s.dtbMiss a d).heldIntr = s.heldIntr := by unfold State.dtbMiss; split <;> rfl
@[simp] theorem State.dtbMiss_online (s : State) (a : Acc) (d : W64) : (s.dtbMiss a d).online = s.online := by unfold State.dtbMiss; split <;> rfl
@[simp] theorem State.dtbMiss_intData (s : State) (a : Acc) (d : W64) : (s.dtbMiss a d).intData = s.intData := by unfold State.dtbMiss; split <;> rfl
@[simp] theorem State.dtbMiss_par (s : State) (a : Acc) (d : W64) : (s.dtbMiss a d).par = s.par := by unfold State.dtbMiss; split <;> rfl

/-! ### badDva -/

@[simp] theorem State.badDva_x (s : State) (a : Acc) (d : W64) : (s.badDva a d).x = s.x := rfl
@[simp] theorem State.badDva_sr (s : State) (a : Acc) (d : W64) : (s.badDva a d).sr = s.sr := rfl
@[simp] theorem State.badDva_v (s : State) (a : Acc) (d : W64) : (s.badDva a d).v = s.v := rfl
@[simp] theorem State.badDva_fpcr (s : State) (a : Acc) (d : W64) : (s.badDva a d).fpcr = s.fpcr := rfl
@[simp] theorem State.badDva_itb (s : State) (a : Acc) (d : W64) : (s.badDva a d).itb = s.itb := rfl
@[simp] theorem State.badDva_itbPtr (s : State) (a : Acc) (d : W64) : (s.badDva a d).itbPtr = s.itbPtr := rfl
@[simp] theorem State.badDva_dtb (s : State) (a : Acc) (d : W64) : (s.badDva a d).dtb = s.dtb := rfl
@[simp] theorem State.badDva_icache (s : State) (a : Acc) (d : W64) : (s.badDva a d).icache = s.icache := rfl
@[simp] theorem State.badDva_mem (s : State) (a : Acc) (d : W64) : (s.badDva a d).mem = s.mem := rfl
@[simp] theorem State.badDva_timer (s : State) (a : Acc) (d : W64) : (s.badDva a d).timer = s.timer := rfl
@[simp] theorem State.badDva_hserrTime (s : State) (a : Acc) (d : W64) : (s.badDva a d).hserrTime = s.hserrTime := rfl
@[simp] theorem State.badDva_power (s : State) (a : Acc) (d : W64) : (s.badDva a d).power = s.power := rfl
@[simp] theorem State.badDva_ioWin (s : State) (a : Acc) (d : W64) : (s.badDva a d).ioWin = s.ioWin := rfl
@[simp] theorem State.badDva_armedFetch (s : State) (a : Acc) (d : W64) : (s.badDva a d).armedFetch = s.armedFetch := rfl
@[simp] theorem State.badDva_armedData (s : State) (a : Acc) (d : W64) : (s.badDva a d).armedData = s.armedData := rfl
@[simp] theorem State.badDva_fgroup (s : State) (a : Acc) (d : W64) : (s.badDva a d).fgroup = s.fgroup := rfl
@[simp] theorem State.badDva_env (s : State) (a : Acc) (d : W64) : (s.badDva a d).env = s.env := rfl
@[simp] theorem State.badDva_out (s : State) (a : Acc) (d : W64) : (s.badDva a d).out = s.out := rfl
@[simp] theorem State.badDva_freeCtr (s : State) (a : Acc) (d : W64) : (s.badDva a d).freeCtr = s.freeCtr := rfl
@[simp] theorem State.badDva_unsynced (s : State) (a : Acc) (d : W64) : (s.badDva a d).unsynced = s.unsynced := rfl
@[simp] theorem State.badDva_track (s : State) (a : Acc) (d : W64) : (s.badDva a d).track = s.track := rfl
@[simp] theorem State.badDva_midWrites (s : State) (a : Acc) (d : W64) : (s.badDva a d).midWrites = s.midWrites := rfl
@[simp] theorem State.badDva_inten (s : State) (a : Acc) (d : W64) : (s.badDva a d).inten = s.inten := rfl
@[simp] theorem State.badDva_heldIntr (s : State) (a : Acc) (d : W64) : (s.badDva a d).heldIntr = s.heldIntr := rfl
@[simp] theorem State.badDva_online (s : State) (a : Acc) (d : W64) : (s.badDva a d).online = s.online := rfl
@[simp] theorem State.badDva_intData (s : State) (a : Acc) (d : W64) : (s.badDva a d).intData = s.intData := rfl
@[simp] theorem State.badDva_par (s : State) (a : Acc) (d : W64) : (s.badDva a d).par = s.par := rfl

/-! ### sboxMulti -/

@[simp] theorem State.sboxMulti_pc (s : State) (en b : Nat) : (s.sboxMulti en b).pc = s.pc := by unfold State.sboxMulti; split <;> rfl
@[simp] theorem State.sboxMulti_x (s : State) (en b : Nat) : (s.sboxMulti en b).x = s.x := by unfold State.sboxMulti; split <;> rfl
@[simp] theorem State.sboxMulti_sr (s : State) (en b : Nat) : (s.sboxMulti en b).sr = s.sr := by unfold State.sboxMulti; split <;> rfl
@[simp] theorem State.sboxMulti_v (s : State) (en b : Nat) : (s.sboxMulti en b).v = s.v := by unfold State.sboxMulti; split <;> rfl
@[simp] theorem State.sboxMulti_fpcr (s : State) (en b : Nat) : (s.sboxMulti en b).fpcr = s.fpcr := by unfold State.sboxMulti; split <;> rfl
@[simp] theorem State.sboxMulti_lock (s : State) (en b : Nat) : (s.sboxMulti en b).lock = s.lock := by unfold State.sboxMulti; split <;> rfl
@[simp] theorem State.sboxMulti_itb (s : State) (en b : Nat) : (s.sboxMulti en b).itb = s.itb := by unfold State.sboxMulti; split <;> rfl
@[simp] theorem State.sboxMulti_itbPtr (s : State) (en b : Nat) : (s.sboxMulti en b).itbPtr = s.itbPtr := by unfold State.sboxMulti; split <;> rfl
@[simp] theorem State.sboxMulti_dtb (s : State) (en b : Nat) : (s.sboxMulti en b).dtb = s.dtb := by unfold State.sboxMulti; split <;> rfl
@[simp] theorem State.sboxMulti_icache (s : State) (en b : Nat) : (s.sboxMulti en b).icache = s.icache := by unfold State.sboxMulti; split <;> rfl
@[simp] theorem State.sboxMulti_mem (s : State) (en b : Nat) : (s.sboxMulti en b).mem = s.mem := by unfold State.sboxMulti; split <;> rfl
@[simp] theorem State.sboxMulti_timer (s : State) (en b : Nat) : (s.sboxMulti en b).timer = s.timer := by unfold State.sboxMulti; split <;> rfl
@[simp] theorem State.sboxMulti_hserrTime (s : State) (en b : Nat) : (s.sboxMulti en b).hserrTime = s.hserrTime := by unfold State.sboxMulti; split <;> rfl
@[simp] theorem State.sboxMulti_power (s : State) (en b : Nat) : (s.sboxMulti en b).power = s.power := by unfold State.sboxMulti; split <;> rfl
@[simp] theorem State.sboxMulti_ioWin (s : State) (en b : Nat) : (s.sboxMulti en b).ioWin = s.ioWin := by unfold State.sboxMulti; split <;> rfl
@[simp] theorem State.sboxMulti_armedFetch (s : State) (en b : Nat) : (s.sboxMulti en b).armedFetch = s.armedFetch := by unfold State.sboxMulti; split <;> rfl
@[simp] theorem State.sboxMulti_armedData (s : State) (en b : Nat) : (s.sboxMulti en b).armedData = s.armedData := by unfold State.sboxMulti; split <;> rfl
@[simp] theorem State.sboxMulti_fgroup (s : State) (en b : Nat) : (s.sboxMulti en b).fgroup = s.fgroup := by unfold State.sboxMulti; split <;> rfl
@[simp] theorem State.sboxMulti_env (s : State) (en b : Nat) : (s.sboxMulti en b).env = s.env := by unfold State.sboxMulti; split <;> rfl
@[simp] theorem State.sboxMulti_freeCtr (s : State) (en b : Nat) : (s.sboxMulti en b).freeCtr = s.freeCtr := by unfold State.sboxMulti; split <;> rfl
@[simp] theorem State.sboxMulti_unsynced (s : State) (en b : Nat) : (s.sboxMulti en b).unsynced = s.unsynced := by unfold State.sboxMulti; split <;> rfl
@[simp] theorem State.sboxMulti_track (s : State) (en b : Nat) : (s.sboxMulti en b).track = s.track := by unfold State.sboxMulti; split <;> rfl
@[simp] theorem State.sboxMulti_midWrites (s : State) (en b : Nat) : (s.sboxMulti en b).midWrites = s.midWrites := by unfold State.sboxMulti; split <;> rfl
@[simp] theorem State.sboxMulti_inten (s : State) (en b : Nat) : (s.sboxMulti en b).inten = s.inten := by unfold State.sboxMulti; split <;> rfl
@[simp] theorem State.sboxMulti_heldIntr (s : State) (en b : Nat) : (s.sboxMulti en b).heldIntr = s.heldIntr := by unfold State.sboxMulti; split <;> rfl
@[simp] theorem State.sboxMulti_online (s : State) (en b : Nat) : (s.sboxMulti en b).online = s.online := by unfold State.sboxMulti; split <;> rfl
@[simp] theorem State.sboxMulti_intData (s : State) (en b : Nat) : (s.sboxMulti en b).intData = s.intData := by unfold State.sboxMulti; split <;> rfl
@[simp] theorem State.sboxMulti_par (s : State) (en b : Nat) : (s.sboxMulti en b).par = s.par := by unfold State.sboxMulti; split <;> rfl

/-! ### rmwSingle -/

@[simp] theorem State.rmwSingle_pc (s : State) : (s.rmwSingle).pc = s.pc := by unfold State.rmwSingle; split <;> simp
@[simp] theorem State.rmwSingle_x (s : State) : (s.rmwSingle).x = s.x := by unfold State.rmwSingle; split <;> simp
@[simp] theorem State.rmwSingle_sr (s : State) : (s.rmwSingle).sr = s.sr := by unfold State.rmwSingle; split <;> simp
@[simp] theorem State.rmwSingle_v (s : State) : (s.rmwSingle).v = s.v := by unfold State.rmwSingle; split <;> simp
@[simp] theorem State.rmwSingle_fpcr (s : State) : (s.rmwSingle).fpcr = s.fpcr := by unfold State.rmwSingle; split <;> simp
@[simp] theorem State.rmwSingle_lock (s : State) : (s.rmwSingle).lock = s.lock := by unfold State.rmwSingle; split <;> simp
@[simp] theorem State.rmwSingle_itb (s : State) : (s.rmwSingle).itb = s.itb := by unfold State.rmwSingle; split <;> simp
@[simp] theorem State.rmwSingle_itbPtr (s : State) : (s.rmwSingle).itbPtr = s.itbPtr := by unfold State.rmwSingle; split <;> simp
@[simp] theorem State.rmwSingle_dtb (s : State) : (s.rmwSingle).dtb = s.dtb := by unfold State.rmwSingle; split <;> simp
@[simp] theorem State.rmwSingle_icache (s : State) : (s.rmwSingle).icache = s.icache := by unfold State.rmwSingle; split <;> simp
@[simp] theorem State.rmwSingle_mem (s : State) : (s.rmwSingle).mem = s.mem := by unfold State.rmwSingle; split <;> simp
@[simp] theorem State.rmwSingle_timer (s : State) : (s.rmwSingle).timer = s.timer := by unfold State.rmwSingle; split <;> simp
@[simp] theorem State.rmwSingle_hserrTime (s : State) : (s.rmwSingle).hserrTime = s.hserrTime := by unfold State.rmwSingle; split <;> simp
@[simp] theorem State.rmwSingle_power (s : State) : (s.rmwSingle).power = s.power := by unfold State.rmwSingle; split <;> simp
@[simp] theorem State.rmwSingle_ioWin (s : State) : (s.rmwSingle).ioWin = s.ioWin := by unfold State.rmwSingle; split <;> simp
@[simp] theorem State.rmwSingle_armedFetch (s : State) : (s.rmwSingle).armedFetch = s.armedFetch := by unfold State.rmwSingle; split <;> simp
@[simp] theorem State.rmwSingle_armedData (s : State) : (s.rmwSingle).armedData = s.armedData := by unfold State.rmwSingle; split <;> simp
@[simp] theorem State.rmwSingle_fgroup (s : State) : (s.rmwSingle).fgroup = s.fgroup := by unfold State.rmwSingle; split <;> simp
@[simp] theorem State.rmwSingle_env (s : State) : (s.rmwSingle).env = s.env := by unfold State.rmwSingle; split <;> simp
@[simp] theorem State.rmwSingle_freeCtr (s : State) : (s.rmwSingle).freeCtr = s.freeCtr := by unfold State.rmwSingle; split <;> simp
@[simp] theorem State.rmwSingle_unsynced (s : State) : (s.rmwSingle).unsynced = s.unsynced := by unfold State.rmwSingle; split <;> simp
@[simp] theorem State.rmwSingle_track (s : State) : (s.rmwSingle).track = s.track := by unfold State.rmwSingle; split <;> simp
@[simp] theorem State.rmwSingle_midWrites (s : State) : (s.rmwSingle).midWrites = s.midWrites := by unfold State.rmwSingle; split <;> simp
@[simp] theorem State.rmwSingle_inten (s : State) : (s.rmwSingle).inten = s.inten := by unfold State.rmwSingle; split <;> simp
@[simp] theorem State.rmwSingle_heldIntr (s : State) : (s.rmwSingle).heldIntr = s.heldIntr := by unfold State.rmwSingle; split <;> simp
@[simp] theorem State.rmwSingle_online (s : State) : (s.rmwSingle).online = s.online := by unfold State.rmwSingle; split <;> simp
@[simp] theorem State.rmwSingle_intData (s : State) : (s.rmwSingle).intData = s.intData := by unfold State.rmwSingle; split <;> simp
@[simp] theorem State.rmwSingle_par (s : State) : (s.rmwSingle).par = s.par := by unfold State.rmwSingle; split <;> simp

/-! ### rmwMulti -/

@[simp] theorem State.rmwMulti_pc (s : State) : (s.rmwMulti).pc = s.pc := by unfold State.rmwMulti; split <;> rfl
@[simp] theorem State.rmwMulti_x (s : State) : (s.rmwMulti).x = s.x := by unfold State.rmwMulti; split <;> rfl
@[simp] theorem State.rmwMulti_sr (s : State) : (s.rmwMulti).sr = s.sr := by unfold State.rmwMulti; split <;> rfl
@[simp] theorem State.rmwMulti_v (s : State) : (s.rmwMulti).v = s.v := by unfold State.rmwMulti; split <;> rfl
@[simp] theorem State.rmwMulti_fpcr (s : State) : (s.rmwMulti).fpcr = s.fpcr := by unfold State.rmwMulti; split <;> rfl
@[simp] theorem State.rmwMulti_lock (s : State) : (s.rmwMulti).lock = s.lock := by unfold State.rmwMulti; split <;> rfl
@[simp] theorem State.rmwMulti_itb (s : State) : (s.rmwMulti).itb = s.itb := by unfold State.rmwMulti; split <;> rfl
@[simp] theorem State.rmwMulti_itbPtr (s : State) : (s.rmwMulti).itbPtr = s.itbPtr := by unfold State.rmwMulti; split <;> rfl
@[simp] theorem State.rmwMulti_dtb (s : State) : (s.rmwMulti).dtb = s.dtb := by unfold State.rmwMulti; split <;> rfl
@[simp] theorem State.rmwMulti_icache (s : State) : (s.rmwMulti).icache = s.icache := by unfold State.rmwMulti; split <;> rfl
@[simp] theorem State.rmwMulti_mem (s : State) : (s.rmwMulti).mem = s.mem := by unfold State.rmwMulti; split <;> rfl
@[simp] theorem State.rmwMulti_timer (s : State) : (s.rmwMulti).timer = s.timer := by unfold State.rmwMulti; split <;> rfl
@[simp] theorem State.rmwMulti_hserrTime (s : State) : (s.rmwMulti).hserrTime = s.hserrTime := by unfold State.rmwMulti; split <;> rfl
@[simp] theorem State.rmwMulti_power (s : State) : (s.rmwMulti).power = s.power := by unfold State.rmwMulti; split <;> rfl
@[simp] theorem State.rmwMulti_ioWin (s : State) : (s.rmwMulti).ioWin = s.ioWin := by unfold State.rmwMulti; split <;> rfl
@[simp] theorem State.rmwMulti_armedFetch (s : State) : (s.rmwMulti).armedFetch = s.armedFetch := by unfold State.rmwMulti; split <;> rfl
@[simp] theorem State.rmwMulti_armedData (s : State) : (s.rmwMulti).armedData = s.armedData := by unfold State.rmwMulti; split <;> rfl
@[simp] theorem State.rmwMulti_fgroup (s : State) : (s.rmwMulti).fgroup = s.fgroup := by unfold State.rmwMulti; split <;> rfl
@[simp] theorem State.rmwMulti_env (s : State) : (s.rmwMulti).env = s.env := by unfold State.rmwMulti; split <;> rfl
@[simp] theorem State.rmwMulti_freeCtr (s : State) : (s.rmwMulti).freeCtr = s.freeCtr := by unfold State.rmwMulti; split <;> rfl
@[simp] theorem State.rmwMulti_unsynced (s : State) : (s.rmwMulti).unsynced = s.unsynced := by unfold State.rmwMulti; split <;> rfl
@[simp] theorem State.rmwMulti_track (s : State) : (s.rmwMulti).track = s.track := by unfold State.rmwMulti; split <;> rfl
@[simp] theorem State.rmwMulti_midWrites (s : State) : (s.rmwMulti).midWrites = s.midWrites := by unfold State.rmwMulti; split <;> rfl
@[simp] theorem State.rmwMulti_inten (s : State) : (s.rmwMulti).inten = s.inten := by unfold State.rmwMulti; split <;> rfl
@[simp] theorem State.rmwMulti_heldIntr (s : State) : (s.rmwMulti).heldIntr = s.heldIntr := by unfold State.rmwMulti; split <;> rfl
@[simp] theorem State.rmwMulti_online (s : State) : (s.rmwMulti).online = s.online := by unfold State.rmwMulti; split <;> rfl
@[simp] theorem State.rmwMulti_intData (s : State) : (s.rmwMulti).intData = s.intData := by unfold State.rmwMulti; split <;> rfl
@[simp] theorem State.rmwMulti_par (s : State) : (s.rmwMulti).par = s.par := by unfold State.rmwMulti; split <;> rfl

/-! ### store -/

@[simp] theorem State.store_pc (s : State) (a n d : Nat) : (s.store a n d).pc = s.pc := rfl
@[simp] theorem State.store_x (s : State) (a n d : Nat) : (s.store a n d).x = s.x := rfl
@[simp] theorem State.store_sr (s : State) (a n d : Nat) : (s.store a n d).sr = s.sr := rfl
@[simp] theorem State.store_v (s : State) (a n d : Nat) : (s.store a n d).v = s.v := rfl
@[simp] theorem State.store_fpcr (s : State) (a n d : Nat) : (s.store a n d).fpcr = s.fpcr := rfl
@[simp] theorem State.store_lock (s : State) (a n d : Nat) : (s.store a n d).lock = s.lock := rfl
@[simp] theorem State.store_csr (s : State) (a n d : Nat) : (s.store a n d).csr = s.csr := rfl
@[simp] theorem State.store_itb (s : State) (a n d : Nat) : (s.store a n d).itb = s.itb := rfl
@[simp] theorem State.store_itbPtr (s : State) (a n d : Nat) : (s.store a n d).itbPtr = s.itbPtr := rfl
@[simp] theorem State.store_dtb (s : State) (a n d : Nat) : (s.store a n d).dtb = s.dtb := rfl
@[simp] theorem State.store_timer (s : State) (a n d : Nat) : (s.store a n d).timer = s.timer := rfl
@[simp] theorem State.store_hserrTime (s : State) (a n d : Nat) : (s.store a n d).hserrTime = s.hserrTime := rfl
@[simp] theorem State.store_power (s : State) (a n d : Nat) : (s.store a n d).power = s.power := rfl
@[simp] theorem State.store_ioWin (s : State) (a n d : Nat) : (s.store a n d).ioWin = s.ioWin := rfl
@[simp] theorem State.store_armedFetch (s : State) (a n d : Nat) : (s.store a n d).armedFetch = s.armedFetch := rfl
@[simp] theorem State.store_armedData (s : State) (a n d : Nat) : (s.store a n d).armedData = s.armedData := rfl
@[simp] theorem State.store_fgroup (s : State) (a n d : Nat) : (s.store a n d).fgroup = s.fgroup := rfl
@[simp] theorem State.store_env (s : State) (a n d : Nat) : (s.store a n d).env = s.env := rfl
@[simp] theorem State.store_out (s : State) (a n d : Nat) : (s.store a n d).out = s.out := rfl
@[simp] theorem State.store_freeCtr (s : State) (a n d : Nat) : (s.store a n d).freeCtr = s.freeCtr := rfl
@[simp] theorem State.store_track (s : State) (a n d : Nat) : (s.store a n d).track = s.track := rfl
@[simp] theorem State.store_midWrites (s : State) (a n d : Nat) : (s.store a n d).midWrites = s.midWrites := rfl
@[simp] theorem State.store_inten (s : State) (a n d : Nat) : (s.store a n d).inten = s.inten := rfl
@[simp] theorem State.store_heldIntr (s : State) (a n d : Nat) : (s.store a n d).heldIntr = s.heldIntr := rfl
@[simp] theorem State.store_online (s : State) (a n d : Nat) : (s.store a n d).online = s.online := rfl
@[simp] theorem State.store_intData (s : State) (a n d : Nat) : (s.store a n d).intData = s.intData := rfl
@[simp] theorem State.store_par (s : State) (a n d : Nat) : (s.store a n d).par = s.par := rfl

/-! ### write -/

@[simp] theorem State.write_pc (s : State) (c : Bool) (a n d : Nat) : (s.write c a n d).pc = s.pc := (s.write_stored c a n d).field State.pc (fun _ _ _ _ => rfl)
@[simp] theorem State.write_x (s : State) (c : Bool) (a n d : Nat) : (s.write c a n d).x = s.x := (s.write_stored c a n d).field State.x (fun _ _ _ _ => rfl)
@[simp] theorem State.write_sr (s : State) (c : Bool) (a n d : Nat) : (s.write c a n d).sr = s.sr := (s.write_stored c a n d).field State.sr (fun _ _ _ _ => rfl)
@[simp] theorem State.write_v (s : State) (c : Bool) (a n d : Nat) : (s.write c a n d).v = s.v := (s.write_stored c a n d).field State.v (fun _ _ _ _ => rfl)
@[simp] theorem State.write_fpcr (s : State) (c : Bool) (a n d : Nat) : (s.write c a n d).fpcr = s.fpcr := (s.write_stored c a n d).field State.fpcr (fun _ _ _ _ => rfl)
@[simp] theorem State.write_lock (s : State) (c : Bool) (a n d : Nat) : (s.write c a n d).lock = s.lock := (s.write_stored c a n d).field State.lock (fun _ _ _ _ => rfl)
@[simp] theorem State.write_csr (s : State) (c : Bool) (a n d : Nat) : (s.write c a n d).csr = s.csr := (s.write_stored c a n d).field State.csr (fun _ _ _ _ => rfl)
@[simp] theorem State.write_itb (s : State) (c : Bool) (a n d : Nat) : (s.write c a n d).itb = s.itb := (s.write_stored c a n d).field State.itb (fun _ _ _ _ => rfl)
@[simp] theorem State.write_itbPtr (s : State) (c : Bool) (a n d : Nat) : (s.write c a n d).itbPtr = s.itbPtr := (s.write_stored c a n d).field State.itbPtr (fun _ _ _ _ => rfl)
@[simp] theorem State.write_dtb (s : State) (c : Bool) (a n d : Nat) : (s.write c a n d).dtb = s.dtb := (s.write_stored c a n d).field State.dtb (fun _ _ _ _ => rfl)
@[simp] theorem State.write_timer (s : State) (c : Bool) (a n d : Nat) : (s.write c a n d).timer = s.timer := (s.write_stored c a n d).field State.timer (fun _ _ _ _ => rfl)
@[simp] theorem State.write_hserrTime (s : State) (c : Bool) (a n d : Nat) : (s.write c a n d).hserrTime = s.hserrTime := (s.write_stored c a n d).field State.hserrTime (fun _ _ _ _ => rfl)
@[simp] theorem State.write_power (s : State) (c : Bool) (a n d : Nat) : (s.write c a n d).power = s.power := (s.write_stored c a n d).field State.power (fun _ _ _ _ => rfl)
@[simp] theorem State.write_ioWin (s : State) (c : Bool) (a n d : Nat) : (s.write c a n d).ioWin = s.ioWin := (s.write_stored c a n d).field State.ioWin (fun _ _ _ _ => rfl)
@[simp] theorem State.write_armedFetch (s : State) (c : Bool) (a n d : Nat) : (s.write c a n d).armedFetch = s.armedFetch := (s.write_stored c a n d).field State.armedFetch (fun _ _ _ _ => rfl)
@[simp] theorem State.write_armedData (s : State) (c : Bool) (a n d : Nat) : (s.write c a n d).armedData = s.armedData := (s.write_stored c a n d).field State.armedData (fun _ _ _ _ => rfl)
@[simp] theorem State.write_fgroup (s : State) (c : Bool) (a n d : Nat) : (s.write c a n d).fgroup = s.fgroup := (s.write_stored c a n d).field State.fgroup (fun _ _ _ _ => rfl)
@[simp] theorem State.write_env (s : State) (c : Bool) (a n d : Nat) : (s.write c a n d).env = s.env := (s.write_stored c a n d).field State.env (fun _ _ _ _ => rfl)
@[simp] theorem State.write_out (s : State) (c : Bool) (a n d : Nat) : (s.write c a n d).out = s.out := (s.write_stored c a n d).field State.out (fun _ _ _ _ => rfl)
@[simp] theorem State.write_freeCtr (s : State) (c : Bool) (a n d : Nat) : (s.write c a n d).freeCtr = s.freeCtr := (s.write_stored c a n d).field State.freeCtr (fun _ _ _ _ => rfl)
@[simp] theorem State.write_midWrites (s : State) (c : Bool) (a n d : Nat) : (s.write c a n d).midWrites = s.midWrites := (s.write_stored c a n d).field State.midWrites (fun _ _ _ _ => rfl)
@[simp] theorem State.write_inten (s : State) (c : Bool) (a n d : Nat) : (s.write c a n d).inten = s.inten := (s.write_stored c a n d).field State.inten (fun _ _ _ _ => rfl)
@[simp] theorem State.write_heldIntr (s : State) (c : Bool) (a n d : Nat) : (s.write c a n d).heldIntr = s.heldIntr := (s.write_stored c a n d).field State.heldIntr (fun _ _ _ _ => rfl)
@[simp] theorem State.write_online (s : State) (c : Bool) (a n d : Nat) : (s.write c a n d).online = s.online := (s.write_stored c a n d).field State.online (fun _ _ _ _ => rfl)
@[simp] theorem State.write_intData (s : State) (c : Bool) (a n d : Nat) : (s.write c a n d).intData = s.intData := (s.write_stored c a n d).field State.intData (fun _ _ _ _ => rfl)
@[simp] theorem State.write_par (s : State) (c : Bool) (a n d : Nat) : (s.write c a n d).par = s.par := (s.write_stored c a n d).field State.par (fun _ _ _ _ => rfl)

/-! ### place -/

@[simp] theorem State.place_pc (s : State) (w : Nat → MemStore → Bool) : (s.place w).pc = s.pc := (s.place_stored w).field State.pc (fun _ _ _ _ => rfl)
@[simp] theorem State.place_x (s : State) (w : Nat → MemStore → Bool) : (s.place w).x = s.x := (s.place_stored w).field State.x (fun _ _ _ _ => rfl)
@[simp] theorem State.place_sr (s : State) (w : Nat → MemStore → Bool) : (s.place w).sr = s.sr := (s.place_stored w).field State.sr (fun _ _ _ _ => rfl)
@[simp] theorem State.place_v (s : State) (w : Nat → MemStore → Bool) : (s.place w).v = s.v := (s.place_stored w).field State.v (fun _ _ _ _ => rfl)
@[simp] theorem State.place_fpcr (s : State) (w : Nat → MemStore → Bool) : (s.place w).fpcr = s.fpcr := (s.place_stored w).field State.fpcr (fun _ _ _ _ => rfl)
@[simp] theorem State.place_lock (s : State) (w : Nat → MemStore → Bool) : (s.place w).lock = s.lock := (s.place_stored w).field State.lock (fun _ _ _ _ => rfl)
@[simp] theorem State.place_csr (s : State) (w : Nat → MemStore → Bool) : (s.place w).csr = s.csr := (s.place_stored w).field State.csr (fun _ _ _ _ => rfl)
@[simp] theorem State.place_itb (s : State) (w : Nat → MemStore → Bool) : (s.place w).itb = s.itb := (s.place_stored w).field State.itb (fun _ _ _ _ => rfl)
@[simp] theorem State.place_itbPtr (s : State) (w : Nat → MemStore → Bool) : (s.place w).itbPtr = s.itbPtr := (s.place_stored w).field State.itbPtr (fun _ _ _ _ => rfl)
@[simp] theorem State.place_dtb (s : State) (w : Nat → MemStore → Bool) : (s.place w).dtb = s.dtb := (s.place_stored w).field State.dtb (fun _ _ _ _ => rfl)
@[simp] theorem State.place_timer (s : State) (w : Nat → MemStore → Bool) : (s.place w).timer = s.timer := (s.place_stored w).field State.timer (fun _ _ _ _ => rfl)
@[simp] theorem State.place_hserrTime (s : State) (w : Nat → MemStore → Bool) : (s.place w).hserrTime = s.hserrTime := (s.place_stored w).field State.hserrTime (fun _ _ _ _ => rfl)
@[simp] theorem State.place_power (s : State) (w : Nat → MemStore → Bool) : (s.place w).power = s.power := (s.place_stored w).field State.power (fun _ _ _ _ => rfl)
@[simp] theorem State.place_ioWin (s : State) (w : Nat → MemStore → Bool) : (s.place w).ioWin = s.ioWin := (s.place_stored w).field State.ioWin (fun _ _ _ _ => rfl)
@[simp] theorem State.place_armedFetch (s : State) (w : Nat → MemStore → Bool) : (s.place w).armedFetch = s.armedFetch := (s.place_stored w).field State.armedFetch (fun _ _ _ _ => rfl)
@[simp] theorem State.place_armedData (s : State) (w : Nat → MemStore → Bool) : (s.place w).armedData = s.armedData := (s.place_stored w).field State.armedData (fun _ _ _ _ => rfl)
@[simp] theorem State.place_fgroup (s : State) (w : Nat → MemStore → Bool) : (s.place w).fgroup = s.fgroup := (s.place_stored w).field State.fgroup (fun _ _ _ _ => rfl)
@[simp] theorem State.place_env (s : State) (w : Nat → MemStore → Bool) : (s.place w).env = s.env := (s.place_stored w).field State.env (fun _ _ _ _ => rfl)
@[simp] theorem State.place_out (s : State) (w : Nat → MemStore → Bool) : (s.place w).out = s.out := (s.place_stored w).field State.out (fun _ _ _ _ => rfl)
@[simp] theorem State.place_freeCtr (s : State) (w : Nat → MemStore → Bool) : (s.place w).freeCtr = s.freeCtr := (s.place_stored w).field State.freeCtr (fun _ _ _ _ => rfl)
@[simp] theorem State.place_midWrites (s : State) (w : Nat → MemStore → Bool) : (s.place w).midWrites = s.midWrites := (s.place_stored w).field State.midWrites (fun _ _ _ _ => rfl)
@[simp] theorem State.place_inten (s : State) (w : Nat → MemStore → Bool) : (s.place w).inten = s.inten := (s.place_stored w).field State.inten (fun _ _ _ _ => rfl)
@[simp] theorem State.place_heldIntr (s : State) (w : Nat → MemStore → Bool) : (s.place w).heldIntr = s.heldIntr := (s.place_stored w).field State.heldIntr (fun _ _ _ _ => rfl)
@[simp] theorem State.place_online (s : State) (w : Nat → MemStore → Bool) : (s.place w).online = s.online := (s.place_stored w).field State.online (fun _ _ _ _ => rfl)
@[simp] theorem State.place_intData (s : State) (w : Nat → MemStore → Bool) : (s.place w).intData = s.intData := (s.place_stored w).field State.intData (fun _ _ _ _ => rfl)
@[simp] theorem State.place_par (s : State) (w : Nat → MemStore → Bool) : (s.place w).par = s.par := (s.place_stored w).field State.par (fun _ _ _ _ => rfl)

/-! ### pushEarly -/

@[simp] theorem State.pushEarly_pc (s : State) (a n d : Nat) : (s.pushEarly a n d).pc = s.pc := (s.pushEarly_stored a n d).field State.pc (fun _ _ _ _ => rfl)
@[simp] theorem State.pushEarly_x (s : State) (a n d : Nat) : (s.pushEarly a n d).x = s.x := (s.pushEarly_stored a n d).field State.x (fun _ _ _ _ => rfl)
@[simp] theorem State.pushEarly_sr (s : State) (a n d : Nat) : (s.pushEarly a n d).sr = s.sr := (s.pushEarly_stored a n d).field State.sr (fun _ _ _ _ => rfl)
@[simp] theorem State.pushEarly_v (s : State) (a n d : Nat) : (s.pushEarly a n d).v = s.v := (s.pushEarly_stored a n d).field State.v (fun _ _ _ _ => rfl)
@[simp] theorem State.pushEarly_fpcr (s : State) (a n d : Nat) : (s.pushEarly a n d).fpcr = s.fpcr := (s.pushEarly_stored a n d).field State.fpcr (fun _ _ _ _ => rfl)
@[simp] theorem State.pushEarly_lock (s : State) (a n d : Nat) : (s.pushEarly a n d).lock = s.lock := (s.pushEarly_stored a n d).field State.lock (fun _ _ _ _ => rfl)
@[simp] theorem State.pushEarly_csr (s : State) (a n d : Nat) : (s.pushEarly a n d).csr = s.csr := (s.pushEarly_stored a n d).field State.csr (fun _ _ _ _ => rfl)
@[simp] theorem State.pushEarly_itb (s : State) (a n d : Nat) : (s.pushEarly a n d).itb = s.itb := (s.pushEarly_stored a n d).field State.itb (fun _ _ _ _ => rfl)
@[simp] theorem State.pushEarly_itbPtr (s : State) (a n d : Nat) : (s.pushEarly a n d).itbPtr = s.itbPtr := (s.pushEarly_stored a n d).field State.itbPtr (fun _ _ _ _ => rfl)
@[simp] theorem State.pushEarly_dtb (s : State) (a n d : Nat) : (s.pushEarly a n d).dtb = s.dtb := (s.pushEarly_stored a n d).field State.dtb (fun _ _ _ _ => rfl)
@[simp] theorem State.pushEarly_timer (s : State) (a n d : Nat) : (s.pushEarly a n d).timer = s.timer := (s.pushEarly_stored a n d).field State.timer (fun _ _ _ _ => rfl)
@[simp] theorem State.pushEarly_hserrTime (s : State) (a n d : Nat) : (s.pushEarly a n d).hserrTime = s.hserrTime := (s.pushEarly_stored a n d).field State.hserrTime (fun _ _ _ _ => rfl)
@[simp] theorem State.pushEarly_power (s : State) (a n d : Nat) : (s.pushEarly a n d).power = s.power := (s.pushEarly_stored a n d).field State.power (fun _ _ _ _ => rfl)
@[simp] theorem State.pushEarly_ioWin (s : State) (a n d : Nat) : (s.pushEarly a n d).ioWin = s.ioWin := (s.pushEarly_stored a n d).field State.ioWin (fun _ _ _ _ => rfl)
@[simp] theorem State.pushEarly_armedFetch (s : State) (a n d : Nat) : (s.pushEarly a n d).armedFetch = s.armedFetch := (s.pushEarly_stored a n d).field State.armedFetch (fun _ _ _ _ => rfl)
@[simp] theorem State.pushEarly_armedData (s : State) (a n d : Nat) : (s.pushEarly a n d).armedData = s.armedData := (s.pushEarly_stored a n d).field State.armedData (fun _ _ _ _ => rfl)
@[simp] theorem State.pushEarly_fgroup (s : State) (a n d : Nat) : (s.pushEarly a n d).fgroup = s.fgroup := (s.pushEarly_stored a n d).field State.fgroup (fun _ _ _ _ => rfl)
@[simp] theorem State.pushEarly_env (s : State) (a n d : Nat) : (s.pushEarly a n d).env = s.env := (s.pushEarly_stored a n d).field State.env (fun _ _ _ _ => rfl)
@[simp] theorem State.pushEarly_out (s : State) (a n d : Nat) : (s.pushEarly a n d).out = s.out := (s.pushEarly_stored a n d).field State.out (fun _ _ _ _ => rfl)
@[simp] theorem State.pushEarly_freeCtr (s : State) (a n d : Nat) : (s.pushEarly a n d).freeCtr = s.freeCtr := (s.pushEarly_stored a n d).field State.freeCtr (fun _ _ _ _ => rfl)
@[simp] theorem State.pushEarly_midWrites (s : State) (a n d : Nat) : (s.pushEarly a n d).midWrites = s.midWrites := (s.pushEarly_stored a n d).field State.midWrites (fun _ _ _ _ => rfl)
@[simp] theorem State.pushEarly_inten (s : State) (a n d : Nat) : (s.pushEarly a n d).inten = s.inten := (s.pushEarly_stored a n d).field State.inten (fun _ _ _ _ => rfl)
@[simp] theorem State.pushEarly_heldIntr (s : State) (a n d : Nat) : (s.pushEarly a n d).heldIntr = s.heldIntr := (s.pushEarly_stored a n d).field State.heldIntr (fun _ _ _ _ => rfl)
@[simp] theorem State.pushEarly_online (s : State) (a n d : Nat) : (s.pushEarly a n d).online = s.online := (s.pushEarly_stored a n d).field State.online (fun _ _ _ _ => rfl)
@[simp] theorem State.pushEarly_intData (s : State) (a n d : Nat) : (s.pushEarly a n d).intData = s.intData := (s.pushEarly_stored a n d).field State.intData (fun _ _ _ _ => rfl)
@[simp] theorem State.pushEarly_par (s : State) (a n d : Nat) : (s.pushEarly a n d).par = s.par := (s.pushEarly_stored a n d).field State.par (fun _ _ _ _ => rfl)

/-! ### agentWrite -/

@[simp] theorem State.agentWrite_pc (s : State) (a : Nat) (b : BitVec 8) : (s.agentWrite a b).pc = s.pc := rfl
@[simp] theorem State.agentWrite_x (s : State) (a : Nat) (b : BitVec 8) : (s.agentWrite a b).x = s.x := rfl
@[simp] theorem State.agentWrite_sr (s : State) (a : Nat) (b : BitVec 8) : (s.agentWrite a b).sr = s.sr := rfl
@[simp] theorem State.agentWrite_v (s : State) (a : Nat) (b : BitVec 8) : (s.agentWrite a b).v = s.v := rfl
@[simp] theorem State.agentWrite_fpcr (s : State) (a : Nat) (b : BitVec 8) : (s.agentWrite a b).fpcr = s.fpcr := rfl
@[simp] theorem State.agentWrite_csr (s : State) (a : Nat) (b : BitVec 8) : (s.agentWrite a b).csr = s.csr := rfl
@[simp] theorem State.agentWrite_itb (s : State) (a : Nat) (b : BitVec 8) : (s.agentWrite a b).itb = s.itb := rfl
@[simp] theorem State.agentWrite_itbPtr (s : State) (a : Nat) (b : BitVec 8) : (s.agentWrite a b).itbPtr = s.itbPtr := rfl
@[simp] theorem State.agentWrite_dtb (s : State) (a : Nat) (b : BitVec 8) : (s.agentWrite a b).dtb = s.dtb := rfl
@[simp] theorem State.agentWrite_timer (s : State) (a : Nat) (b : BitVec 8) : (s.agentWrite a b).timer = s.timer := rfl
@[simp] theorem State.agentWrite_hserrTime (s : State) (a : Nat) (b : BitVec 8) : (s.agentWrite a b).hserrTime = s.hserrTime := rfl
@[simp] theorem State.agentWrite_power (s : State) (a : Nat) (b : BitVec 8) : (s.agentWrite a b).power = s.power := rfl
@[simp] theorem State.agentWrite_ioWin (s : State) (a : Nat) (b : BitVec 8) : (s.agentWrite a b).ioWin = s.ioWin := rfl
@[simp] theorem State.agentWrite_armedFetch (s : State) (a : Nat) (b : BitVec 8) : (s.agentWrite a b).armedFetch = s.armedFetch := rfl
@[simp] theorem State.agentWrite_armedData (s : State) (a : Nat) (b : BitVec 8) : (s.agentWrite a b).armedData = s.armedData := rfl
@[simp] theorem State.agentWrite_fgroup (s : State) (a : Nat) (b : BitVec 8) : (s.agentWrite a b).fgroup = s.fgroup := rfl
@[simp] theorem State.agentWrite_env (s : State) (a : Nat) (b : BitVec 8) : (s.agentWrite a b).env = s.env := rfl
@[simp] theorem State.agentWrite_out (s : State) (a : Nat) (b : BitVec 8) : (s.agentWrite a b).out = s.out := rfl
@[simp] theorem State.agentWrite_freeCtr (s : State) (a : Nat) (b : BitVec 8) : (s.agentWrite a b).freeCtr = s.freeCtr := rfl
@[simp] theorem State.agentWrite_midWrites (s : State) (a : Nat) (b : BitVec 8) : (s.agentWrite a b).midWrites = s.midWrites := rfl
@[simp] theorem State.agentWrite_inten (s : State) (a : Nat) (b : BitVec 8) : (s.agentWrite a b).inten = s.inten := rfl
@[simp] theorem State.agentWrite_heldIntr (s : State) (a : Nat) (b : BitVec 8) : (s.agentWrite a b).heldIntr = s.heldIntr := rfl
@[simp] theorem State.agentWrite_online (s : State) (a : Nat) (b : BitVec 8) : (s.agentWrite a b).online = s.online := rfl
@[simp] theorem State.agentWrite_intData (s : State) (a : Nat) (b : BitVec 8) : (s.agentWrite a b).intData = s.intData := rfl
@[simp] theorem State.agentWrite_par (s : State) (a : Nat) (b : BitVec 8) : (s.agentWrite a b).par = s.par := rfl

/-! ### settle -/

@[simp] theorem State.settle_pc (s : State) (l : List MemStore) : (s.settle l).pc = s.pc := (s.settle_stored l).field State.pc (fun _ _ _ _ => rfl)
@[simp] theorem State.settle_x (s : State) (l : List MemStore) : (s.settle l).x = s.x := (s.settle_stored l).field State.x (fun _ _ _ _ => rfl)
@[simp] theorem State.settle_sr (s : State) (l : List MemStore) : (s.settle l).sr = s.sr := (s.settle_stored l).field State.sr (fun _ _ _ _ => rfl)
@[simp] theorem State.settle_v (s : State) (l : List MemStore) : (s.settle l).v = s.v := (s.settle_stored l).field State.v (fun _ _ _ _ => rfl)
@[simp] theorem State.settle_fpcr (s : State) (l : List MemStore) : (s.settle l).fpcr = s.fpcr := (s.settle_stored l).field State.fpcr (fun _ _ _ _ => rfl)
@[simp] theorem State.settle_lock (s : State) (l : List MemStore) : (s.settle l).lock = s.lock := (s.settle_stored l).field State.lock (fun _ _ _ _ => rfl)
@[simp] theorem State.settle_csr (s : State) (l : List MemStore) : (s.settle l).csr = s.csr := (s.settle_stored l).field State.csr (fun _ _ _ _ => rfl)
@[simp] theorem State.settle_itb (s : State) (l : List MemStore) : (s.settle l).itb = s.itb := (s.settle_stored l).field State.itb (fun _ _ _ _ => rfl)
@[simp] theorem State.settle_itbPtr (s : State) (l : List MemStore) : (s.settle l).itbPtr = s.itbPtr := (s.settle_stored l).field State.itbPtr (fun _ _ _ _ => rfl)
@[simp] theorem State.settle_dtb (s : State) (l : List MemStore) : (s.settle l).dtb = s.dtb := (s.settle_stored l).field State.dtb (fun _ _ _ _ => rfl)
@[simp] theorem State.settle_timer (s : State) (l : List MemStore) : (s.settle l).timer = s.timer := (s.settle_stored l).field State.timer (fun _ _ _ _ => rfl)
@[simp] theorem State.settle_hserrTime (s : State) (l : List MemStore) : (s.settle l).hserrTime = s.hserrTime := (s.settle_stored l).field State.hserrTime (fun _ _ _ _ => rfl)
@[simp] theorem State.settle_power (s : State) (l : List MemStore) : (s.settle l).power = s.power := (s.settle_stored l).field State.power (fun _ _ _ _ => rfl)
@[simp] theorem State.settle_ioWin (s : State) (l : List MemStore) : (s.settle l).ioWin = s.ioWin := (s.settle_stored l).field State.ioWin (fun _ _ _ _ => rfl)
@[simp] theorem State.settle_armedFetch (s : State) (l : List MemStore) : (s.settle l).armedFetch = s.armedFetch := (s.settle_stored l).field State.armedFetch (fun _ _ _ _ => rfl)
@[simp] theorem State.settle_armedData (s : State) (l : List MemStore) : (s.settle l).armedData = s.armedData := (s.settle_stored l).field State.armedData (fun _ _ _ _ => rfl)
@[simp] theorem State.settle_fgroup (s : State) (l : List MemStore) : (s.settle l).fgroup = s.fgroup := (s.settle_stored l).field State.fgroup (fun _ _ _ _ => rfl)
@[simp] theorem State.settle_env (s : State) (l : List MemStore) : (s.settle l).env = s.env := (s.settle_stored l).field State.env (fun _ _ _ _ => rfl)
@[simp] theorem State.settle_out (s : State) (l : List MemStore) : (s.settle l).out = s.out := (s.settle_stored l).field State.out (fun _ _ _ _ => rfl)
@[simp] theorem State.settle_freeCtr (s : State) (l : List MemStore) : (s.settle l).freeCtr = s.freeCtr := (s.settle_stored l).field State.freeCtr (fun _ _ _ _ => rfl)
@[simp] theorem State.settle_midWrites (s : State) (l : List MemStore) : (s.settle l).midWrites = s.midWrites := (s.settle_stored l).field State.midWrites (fun _ _ _ _ => rfl)
@[simp] theorem State.settle_inten (s : State) (l : List MemStore) : (s.settle l).inten = s.inten := (s.settle_stored l).field State.inten (fun _ _ _ _ => rfl)
@[simp] theorem State.settle_heldIntr (s : State) (l : List MemStore) : (s.settle l).heldIntr = s.heldIntr := (s.settle_stored l).field State.heldIntr (fun _ _ _ _ => rfl)
@[simp] theorem State.settle_online (s : State) (l : List MemStore) : (s.settle l).online = s.online := (s.settle_stored l).field State.online (fun _ _ _ _ => rfl)
@[simp] theorem State.settle_intData (s : State) (l : List MemStore) : (s.settle l).intData = s.intData := (s.settle_stored l).field State.intData (fun _ _ _ _ => rfl)
@[simp] theorem State.settle_par (s : State) (l : List MemStore) : (s.settle l).par = s.par := (s.settle_stored l).field State.par (fun _ _ _ _ => rfl)

/-! ### settleRaces -/

@[simp] theorem State.settleRaces_pc (s : State) : (s.settleRaces).pc = s.pc := s.settleRaces_stored.field State.pc (fun _ _ _ _ => rfl)
@[simp] theorem State.settleRaces_x (s : State) : (s.settleRaces).x = s.x := s.settleRaces_stored.field State.x (fun _ _ _ _ => rfl)
@[simp] theorem State.settleRaces_sr (s : State) : (s.settleRaces).sr = s.sr := s.settleRaces_stored.field State.sr (fun _ _ _ _ => rfl)
@[simp] theorem State.settleRaces_v (s : State) : (s.settleRaces).v = s.v := s.settleRaces_stored.field State.v (fun _ _ _ _ => rfl)
@[simp] theorem State.settleRaces_fpcr (s : State) : (s.settleRaces).fpcr = s.fpcr := s.settleRaces_stored.field State.fpcr (fun _ _ _ _ => rfl)
@[simp] theorem State.settleRaces_lock (s : State) : (s.settleRaces).lock = s.lock := s.settleRaces_stored.field State.lock (fun _ _ _ _ => rfl)
@[simp] theorem State.settleRaces_csr (s : State) : (s.settleRaces).csr = s.csr := s.settleRaces_stored.field State.csr (fun _ _ _ _ => rfl)
@[simp] theorem State.settleRaces_itb (s : State) : (s.settleRaces).itb = s.itb := s.settleRaces_stored.field State.itb (fun _ _ _ _ => rfl)
@[simp] theorem State.settleRaces_itbPtr (s : State) : (s.settleRaces).itbPtr = s.itbPtr := s.settleRaces_stored.field State.itbPtr (fun _ _ _ _ => rfl)
@[simp] theorem State.settleRaces_dtb (s : State) : (s.settleRaces).dtb = s.dtb := s.settleRaces_stored.field State.dtb (fun _ _ _ _ => rfl)
@[simp] theorem State.settleRaces_timer (s : State) : (s.settleRaces).timer = s.timer := s.settleRaces_stored.field State.timer (fun _ _ _ _ => rfl)
@[simp] theorem State.settleRaces_hserrTime (s : State) : (s.settleRaces).hserrTime = s.hserrTime := s.settleRaces_stored.field State.hserrTime (fun _ _ _ _ => rfl)
@[simp] theorem State.settleRaces_power (s : State) : (s.settleRaces).power = s.power := s.settleRaces_stored.field State.power (fun _ _ _ _ => rfl)
@[simp] theorem State.settleRaces_ioWin (s : State) : (s.settleRaces).ioWin = s.ioWin := s.settleRaces_stored.field State.ioWin (fun _ _ _ _ => rfl)
@[simp] theorem State.settleRaces_armedFetch (s : State) : (s.settleRaces).armedFetch = s.armedFetch := s.settleRaces_stored.field State.armedFetch (fun _ _ _ _ => rfl)
@[simp] theorem State.settleRaces_armedData (s : State) : (s.settleRaces).armedData = s.armedData := s.settleRaces_stored.field State.armedData (fun _ _ _ _ => rfl)
@[simp] theorem State.settleRaces_fgroup (s : State) : (s.settleRaces).fgroup = s.fgroup := s.settleRaces_stored.field State.fgroup (fun _ _ _ _ => rfl)
@[simp] theorem State.settleRaces_env (s : State) : (s.settleRaces).env = s.env := s.settleRaces_stored.field State.env (fun _ _ _ _ => rfl)
@[simp] theorem State.settleRaces_out (s : State) : (s.settleRaces).out = s.out := s.settleRaces_stored.field State.out (fun _ _ _ _ => rfl)
@[simp] theorem State.settleRaces_freeCtr (s : State) : (s.settleRaces).freeCtr = s.freeCtr := s.settleRaces_stored.field State.freeCtr (fun _ _ _ _ => rfl)
@[simp] theorem State.settleRaces_midWrites (s : State) : (s.settleRaces).midWrites = s.midWrites := s.settleRaces_stored.field State.midWrites (fun _ _ _ _ => rfl)
@[simp] theorem State.settleRaces_inten (s : State) : (s.settleRaces).inten = s.inten := s.settleRaces_stored.field State.inten (fun _ _ _ _ => rfl)
@[simp] theorem State.settleRaces_heldIntr (s : State) : (s.settleRaces).heldIntr = s.heldIntr := s.settleRaces_stored.field State.heldIntr (fun _ _ _ _ => rfl)
@[simp] theorem State.settleRaces_online (s : State) : (s.settleRaces).online = s.online := s.settleRaces_stored.field State.online (fun _ _ _ _ => rfl)
@[simp] theorem State.settleRaces_intData (s : State) : (s.settleRaces).intData = s.intData := s.settleRaces_stored.field State.intData (fun _ _ _ _ => rfl)
@[simp] theorem State.settleRaces_par (s : State) : (s.settleRaces).par = s.par := s.settleRaces_stored.field State.par (fun _ _ _ _ => rfl)

/-! ### cleanLine -/

@[simp] theorem State.cleanLine_pc (s : State) (a : Nat) : (s.cleanLine a).pc = s.pc := rfl
@[simp] theorem State.cleanLine_x (s : State) (a : Nat) : (s.cleanLine a).x = s.x := rfl
@[simp] theorem State.cleanLine_sr (s : State) (a : Nat) : (s.cleanLine a).sr = s.sr := rfl
@[simp] theorem State.cleanLine_v (s : State) (a : Nat) : (s.cleanLine a).v = s.v := rfl
@[simp] theorem State.cleanLine_fpcr (s : State) (a : Nat) : (s.cleanLine a).fpcr = s.fpcr := rfl
@[simp] theorem State.cleanLine_lock (s : State) (a : Nat) : (s.cleanLine a).lock = s.lock := rfl
@[simp] theorem State.cleanLine_csr (s : State) (a : Nat) : (s.cleanLine a).csr = s.csr := rfl
@[simp] theorem State.cleanLine_itb (s : State) (a : Nat) : (s.cleanLine a).itb = s.itb := rfl
@[simp] theorem State.cleanLine_itbPtr (s : State) (a : Nat) : (s.cleanLine a).itbPtr = s.itbPtr := rfl
@[simp] theorem State.cleanLine_dtb (s : State) (a : Nat) : (s.cleanLine a).dtb = s.dtb := rfl
@[simp] theorem State.cleanLine_icache (s : State) (a : Nat) : (s.cleanLine a).icache = s.icache := rfl
@[simp] theorem State.cleanLine_mem (s : State) (a : Nat) : (s.cleanLine a).mem = s.mem := rfl
@[simp] theorem State.cleanLine_timer (s : State) (a : Nat) : (s.cleanLine a).timer = s.timer := rfl
@[simp] theorem State.cleanLine_hserrTime (s : State) (a : Nat) : (s.cleanLine a).hserrTime = s.hserrTime := rfl
@[simp] theorem State.cleanLine_power (s : State) (a : Nat) : (s.cleanLine a).power = s.power := rfl
@[simp] theorem State.cleanLine_ioWin (s : State) (a : Nat) : (s.cleanLine a).ioWin = s.ioWin := rfl
@[simp] theorem State.cleanLine_armedFetch (s : State) (a : Nat) : (s.cleanLine a).armedFetch = s.armedFetch := rfl
@[simp] theorem State.cleanLine_armedData (s : State) (a : Nat) : (s.cleanLine a).armedData = s.armedData := rfl
@[simp] theorem State.cleanLine_fgroup (s : State) (a : Nat) : (s.cleanLine a).fgroup = s.fgroup := rfl
@[simp] theorem State.cleanLine_env (s : State) (a : Nat) : (s.cleanLine a).env = s.env := rfl
@[simp] theorem State.cleanLine_out (s : State) (a : Nat) : (s.cleanLine a).out = s.out := rfl
@[simp] theorem State.cleanLine_freeCtr (s : State) (a : Nat) : (s.cleanLine a).freeCtr = s.freeCtr := rfl
@[simp] theorem State.cleanLine_unsynced (s : State) (a : Nat) : (s.cleanLine a).unsynced = s.unsynced := rfl
@[simp] theorem State.cleanLine_midWrites (s : State) (a : Nat) : (s.cleanLine a).midWrites = s.midWrites := rfl
@[simp] theorem State.cleanLine_inten (s : State) (a : Nat) : (s.cleanLine a).inten = s.inten := rfl
@[simp] theorem State.cleanLine_heldIntr (s : State) (a : Nat) : (s.cleanLine a).heldIntr = s.heldIntr := rfl
@[simp] theorem State.cleanLine_online (s : State) (a : Nat) : (s.cleanLine a).online = s.online := rfl
@[simp] theorem State.cleanLine_intData (s : State) (a : Nat) : (s.cleanLine a).intData = s.intData := rfl
@[simp] theorem State.cleanLine_par (s : State) (a : Nat) : (s.cleanLine a).par = s.par := rfl

/-! ### corruptLine -/

@[simp] theorem State.corruptLine_pc (s : State) (a : Nat) : (s.corruptLine a).pc = s.pc := by simp only [State.corruptLine]
@[simp] theorem State.corruptLine_x (s : State) (a : Nat) : (s.corruptLine a).x = s.x := by simp only [State.corruptLine]
@[simp] theorem State.corruptLine_sr (s : State) (a : Nat) : (s.corruptLine a).sr = s.sr := by simp only [State.corruptLine]
@[simp] theorem State.corruptLine_v (s : State) (a : Nat) : (s.corruptLine a).v = s.v := by simp only [State.corruptLine]
@[simp] theorem State.corruptLine_fpcr (s : State) (a : Nat) : (s.corruptLine a).fpcr = s.fpcr := by simp only [State.corruptLine]
@[simp] theorem State.corruptLine_lock (s : State) (a : Nat) : (s.corruptLine a).lock = s.lock := by simp only [State.corruptLine]
@[simp] theorem State.corruptLine_csr (s : State) (a : Nat) : (s.corruptLine a).csr = s.csr := by simp only [State.corruptLine]
@[simp] theorem State.corruptLine_itb (s : State) (a : Nat) : (s.corruptLine a).itb = s.itb := by simp only [State.corruptLine]
@[simp] theorem State.corruptLine_itbPtr (s : State) (a : Nat) : (s.corruptLine a).itbPtr = s.itbPtr := by simp only [State.corruptLine]
@[simp] theorem State.corruptLine_dtb (s : State) (a : Nat) : (s.corruptLine a).dtb = s.dtb := by simp only [State.corruptLine]
@[simp] theorem State.corruptLine_icache (s : State) (a : Nat) : (s.corruptLine a).icache = s.icache := by simp only [State.corruptLine]
@[simp] theorem State.corruptLine_timer (s : State) (a : Nat) : (s.corruptLine a).timer = s.timer := by simp only [State.corruptLine]
@[simp] theorem State.corruptLine_hserrTime (s : State) (a : Nat) : (s.corruptLine a).hserrTime = s.hserrTime := by simp only [State.corruptLine]
@[simp] theorem State.corruptLine_power (s : State) (a : Nat) : (s.corruptLine a).power = s.power := by simp only [State.corruptLine]
@[simp] theorem State.corruptLine_ioWin (s : State) (a : Nat) : (s.corruptLine a).ioWin = s.ioWin := by simp only [State.corruptLine]
@[simp] theorem State.corruptLine_armedFetch (s : State) (a : Nat) : (s.corruptLine a).armedFetch = s.armedFetch := by simp only [State.corruptLine]
@[simp] theorem State.corruptLine_armedData (s : State) (a : Nat) : (s.corruptLine a).armedData = s.armedData := by simp only [State.corruptLine]
@[simp] theorem State.corruptLine_fgroup (s : State) (a : Nat) : (s.corruptLine a).fgroup = s.fgroup := by simp only [State.corruptLine]
@[simp] theorem State.corruptLine_env (s : State) (a : Nat) : (s.corruptLine a).env = s.env := by simp only [State.corruptLine]
@[simp] theorem State.corruptLine_out (s : State) (a : Nat) : (s.corruptLine a).out = s.out := by simp only [State.corruptLine]
@[simp] theorem State.corruptLine_freeCtr (s : State) (a : Nat) : (s.corruptLine a).freeCtr = s.freeCtr := by simp only [State.corruptLine]
@[simp] theorem State.corruptLine_unsynced (s : State) (a : Nat) : (s.corruptLine a).unsynced = s.unsynced := by simp only [State.corruptLine]
@[simp] theorem State.corruptLine_midWrites (s : State) (a : Nat) : (s.corruptLine a).midWrites = s.midWrites := by simp only [State.corruptLine]
@[simp] theorem State.corruptLine_inten (s : State) (a : Nat) : (s.corruptLine a).inten = s.inten := by simp only [State.corruptLine]
@[simp] theorem State.corruptLine_heldIntr (s : State) (a : Nat) : (s.corruptLine a).heldIntr = s.heldIntr := by simp only [State.corruptLine]
@[simp] theorem State.corruptLine_online (s : State) (a : Nat) : (s.corruptLine a).online = s.online := by simp only [State.corruptLine]
@[simp] theorem State.corruptLine_intData (s : State) (a : Nat) : (s.corruptLine a).intData = s.intData := by simp only [State.corruptLine]
@[simp] theorem State.corruptLine_par (s : State) (a : Nat) : (s.corruptLine a).par = s.par := by simp only [State.corruptLine]

/-! ### ioRead -/

@[simp] theorem State.ioRead_pc (s : State) (a n : Nat) : (s.ioRead a n).2.pc = s.pc := rfl
@[simp] theorem State.ioRead_x (s : State) (a n : Nat) : (s.ioRead a n).2.x = s.x := rfl
@[simp] theorem State.ioRead_sr (s : State) (a n : Nat) : (s.ioRead a n).2.sr = s.sr := rfl
@[simp] theorem State.ioRead_v (s : State) (a n : Nat) : (s.ioRead a n).2.v = s.v := rfl
@[simp] theorem State.ioRead_fpcr (s : State) (a n : Nat) : (s.ioRead a n).2.fpcr = s.fpcr := rfl
@[simp] theorem State.ioRead_lock (s : State) (a n : Nat) : (s.ioRead a n).2.lock = s.lock := rfl
@[simp] theorem State.ioRead_csr (s : State) (a n : Nat) : (s.ioRead a n).2.csr = s.csr := rfl
@[simp] theorem State.ioRead_itb (s : State) (a n : Nat) : (s.ioRead a n).2.itb = s.itb := rfl
@[simp] theorem State.ioRead_itbPtr (s : State) (a n : Nat) : (s.ioRead a n).2.itbPtr = s.itbPtr := rfl
@[simp] theorem State.ioRead_dtb (s : State) (a n : Nat) : (s.ioRead a n).2.dtb = s.dtb := rfl
@[simp] theorem State.ioRead_icache (s : State) (a n : Nat) : (s.ioRead a n).2.icache = s.icache := rfl
@[simp] theorem State.ioRead_mem (s : State) (a n : Nat) : (s.ioRead a n).2.mem = s.mem := rfl
@[simp] theorem State.ioRead_timer (s : State) (a n : Nat) : (s.ioRead a n).2.timer = s.timer := rfl
@[simp] theorem State.ioRead_hserrTime (s : State) (a n : Nat) : (s.ioRead a n).2.hserrTime = s.hserrTime := rfl
@[simp] theorem State.ioRead_power (s : State) (a n : Nat) : (s.ioRead a n).2.power = s.power := rfl
@[simp] theorem State.ioRead_armedFetch (s : State) (a n : Nat) : (s.ioRead a n).2.armedFetch = s.armedFetch := rfl
@[simp] theorem State.ioRead_armedData (s : State) (a n : Nat) : (s.ioRead a n).2.armedData = s.armedData := rfl
@[simp] theorem State.ioRead_fgroup (s : State) (a n : Nat) : (s.ioRead a n).2.fgroup = s.fgroup := rfl
@[simp] theorem State.ioRead_env (s : State) (a n : Nat) : (s.ioRead a n).2.env = s.env := rfl
@[simp] theorem State.ioRead_freeCtr (s : State) (a n : Nat) : (s.ioRead a n).2.freeCtr = s.freeCtr := rfl
@[simp] theorem State.ioRead_unsynced (s : State) (a n : Nat) : (s.ioRead a n).2.unsynced = s.unsynced := rfl
@[simp] theorem State.ioRead_track (s : State) (a n : Nat) : (s.ioRead a n).2.track = s.track := rfl
@[simp] theorem State.ioRead_midWrites (s : State) (a n : Nat) : (s.ioRead a n).2.midWrites = s.midWrites := rfl
@[simp] theorem State.ioRead_inten (s : State) (a n : Nat) : (s.ioRead a n).2.inten = s.inten := rfl
@[simp] theorem State.ioRead_heldIntr (s : State) (a n : Nat) : (s.ioRead a n).2.heldIntr = s.heldIntr := rfl
@[simp] theorem State.ioRead_online (s : State) (a n : Nat) : (s.ioRead a n).2.online = s.online := rfl
@[simp] theorem State.ioRead_intData (s : State) (a n : Nat) : (s.ioRead a n).2.intData = s.intData := rfl
@[simp] theorem State.ioRead_par (s : State) (a n : Nat) : (s.ioRead a n).2.par = s.par := rfl

/-! ### noteRead -/

@[simp] theorem State.noteRead_pc (s : State) (k : BitVec 8) : (s.noteRead k).pc = s.pc := by unfold State.noteRead; split <;> rfl
@[simp] theorem State.noteRead_x (s : State) (k : BitVec 8) : (s.noteRead k).x = s.x := by unfold State.noteRead; split <;> rfl
@[simp] theorem State.noteRead_sr (s : State) (k : BitVec 8) : (s.noteRead k).sr = s.sr := by unfold State.noteRead; split <;> rfl
@[simp] theorem State.noteRead_v (s : State) (k : BitVec 8) : (s.noteRead k).v = s.v := by unfold State.noteRead; split <;> rfl
@[simp] theorem State.noteRead_fpcr (s : State) (k : BitVec 8) : (s.noteRead k).fpcr = s.fpcr := by unfold State.noteRead; split <;> rfl
@[simp] theorem State.noteRead_lock (s : State) (k : BitVec 8) : (s.noteRead k).lock = s.lock := by unfold State.noteRead; split <;> rfl
@[simp] theorem State.noteRead_csr (s : State) (k : BitVec 8) : (s.noteRead k).csr = s.csr := by unfold State.noteRead; split <;> rfl
@[simp] theorem State.noteRead_itb (s : State) (k : BitVec 8) : (s.noteRead k).itb = s.itb := by unfold State.noteRead; split <;> rfl
@[simp] theorem State.noteRead_itbPtr (s : State) (k : BitVec 8) : (s.noteRead k).itbPtr = s.itbPtr := by unfold State.noteRead; split <;> rfl
@[simp] theorem State.noteRead_dtb (s : State) (k : BitVec 8) : (s.noteRead k).dtb = s.dtb := by unfold State.noteRead; split <;> rfl
@[simp] theorem State.noteRead_icache (s : State) (k : BitVec 8) : (s.noteRead k).icache = s.icache := by unfold State.noteRead; split <;> rfl
@[simp] theorem State.noteRead_mem (s : State) (k : BitVec 8) : (s.noteRead k).mem = s.mem := by unfold State.noteRead; split <;> rfl
@[simp] theorem State.noteRead_timer (s : State) (k : BitVec 8) : (s.noteRead k).timer = s.timer := by unfold State.noteRead; split <;> rfl
@[simp] theorem State.noteRead_hserrTime (s : State) (k : BitVec 8) : (s.noteRead k).hserrTime = s.hserrTime := by unfold State.noteRead; split <;> rfl
@[simp] theorem State.noteRead_power (s : State) (k : BitVec 8) : (s.noteRead k).power = s.power := by unfold State.noteRead; split <;> rfl
@[simp] theorem State.noteRead_ioWin (s : State) (k : BitVec 8) : (s.noteRead k).ioWin = s.ioWin := by unfold State.noteRead; split <;> rfl
@[simp] theorem State.noteRead_armedFetch (s : State) (k : BitVec 8) : (s.noteRead k).armedFetch = s.armedFetch := by unfold State.noteRead; split <;> rfl
@[simp] theorem State.noteRead_armedData (s : State) (k : BitVec 8) : (s.noteRead k).armedData = s.armedData := by unfold State.noteRead; split <;> rfl
@[simp] theorem State.noteRead_fgroup (s : State) (k : BitVec 8) : (s.noteRead k).fgroup = s.fgroup := by unfold State.noteRead; split <;> rfl
@[simp] theorem State.noteRead_env (s : State) (k : BitVec 8) : (s.noteRead k).env = s.env := by unfold State.noteRead; split <;> rfl
@[simp] theorem State.noteRead_out (s : State) (k : BitVec 8) : (s.noteRead k).out = s.out := by unfold State.noteRead; split <;> rfl
@[simp] theorem State.noteRead_freeCtr (s : State) (k : BitVec 8) : (s.noteRead k).freeCtr = s.freeCtr := by unfold State.noteRead; split <;> rfl
@[simp] theorem State.noteRead_track (s : State) (k : BitVec 8) : (s.noteRead k).track = s.track := by unfold State.noteRead; split <;> rfl
@[simp] theorem State.noteRead_midWrites (s : State) (k : BitVec 8) : (s.noteRead k).midWrites = s.midWrites := by unfold State.noteRead; split <;> rfl
@[simp] theorem State.noteRead_inten (s : State) (k : BitVec 8) : (s.noteRead k).inten = s.inten := by unfold State.noteRead; split <;> rfl
@[simp] theorem State.noteRead_heldIntr (s : State) (k : BitVec 8) : (s.noteRead k).heldIntr = s.heldIntr := by unfold State.noteRead; split <;> rfl
@[simp] theorem State.noteRead_online (s : State) (k : BitVec 8) : (s.noteRead k).online = s.online := by unfold State.noteRead; split <;> rfl
@[simp] theorem State.noteRead_intData (s : State) (k : BitVec 8) : (s.noteRead k).intData = s.intData := by unfold State.noteRead; split <;> rfl
@[simp] theorem State.noteRead_par (s : State) (k : BitVec 8) : (s.noteRead k).par = s.par := by unfold State.noteRead; split <;> rfl

/-! ### noteMemb -/

@[simp] theorem State.noteMemb_pc (s : State) : (s.noteMemb).pc = s.pc := rfl
@[simp] theorem State.noteMemb_x (s : State) : (s.noteMemb).x = s.x := rfl
@[simp] theorem State.noteMemb_sr (s : State) : (s.noteMemb).sr = s.sr := rfl
@[simp] theorem State.noteMemb_v (s : State) : (s.noteMemb).v = s.v := rfl
@[simp] theorem State.noteMemb_fpcr (s : State) : (s.noteMemb).fpcr = s.fpcr := rfl
@[simp] theorem State.noteMemb_lock (s : State) : (s.noteMemb).lock = s.lock := rfl
@[simp] theorem State.noteMemb_csr (s : State) : (s.noteMemb).csr = s.csr := rfl
@[simp] theorem State.noteMemb_itb (s : State) : (s.noteMemb).itb = s.itb := rfl
@[simp] theorem State.noteMemb_itbPtr (s : State) : (s.noteMemb).itbPtr = s.itbPtr := rfl
@[simp] theorem State.noteMemb_dtb (s : State) : (s.noteMemb).dtb = s.dtb := rfl
@[simp] theorem State.noteMemb_icache (s : State) : (s.noteMemb).icache = s.icache := rfl
@[simp] theorem State.noteMemb_mem (s : State) : (s.noteMemb).mem = s.mem := rfl
@[simp] theorem State.noteMemb_timer (s : State) : (s.noteMemb).timer = s.timer := rfl
@[simp] theorem State.noteMemb_hserrTime (s : State) : (s.noteMemb).hserrTime = s.hserrTime := rfl
@[simp] theorem State.noteMemb_power (s : State) : (s.noteMemb).power = s.power := rfl
@[simp] theorem State.noteMemb_ioWin (s : State) : (s.noteMemb).ioWin = s.ioWin := rfl
@[simp] theorem State.noteMemb_armedFetch (s : State) : (s.noteMemb).armedFetch = s.armedFetch := rfl
@[simp] theorem State.noteMemb_armedData (s : State) : (s.noteMemb).armedData = s.armedData := rfl
@[simp] theorem State.noteMemb_fgroup (s : State) : (s.noteMemb).fgroup = s.fgroup := rfl
@[simp] theorem State.noteMemb_env (s : State) : (s.noteMemb).env = s.env := rfl
@[simp] theorem State.noteMemb_out (s : State) : (s.noteMemb).out = s.out := rfl
@[simp] theorem State.noteMemb_freeCtr (s : State) : (s.noteMemb).freeCtr = s.freeCtr := rfl
@[simp] theorem State.noteMemb_track (s : State) : (s.noteMemb).track = s.track := rfl
@[simp] theorem State.noteMemb_midWrites (s : State) : (s.noteMemb).midWrites = s.midWrites := rfl
@[simp] theorem State.noteMemb_inten (s : State) : (s.noteMemb).inten = s.inten := rfl
@[simp] theorem State.noteMemb_heldIntr (s : State) : (s.noteMemb).heldIntr = s.heldIntr := rfl
@[simp] theorem State.noteMemb_online (s : State) : (s.noteMemb).online = s.online := rfl
@[simp] theorem State.noteMemb_intData (s : State) : (s.noteMemb).intData = s.intData := rfl
@[simp] theorem State.noteMemb_par (s : State) : (s.noteMemb).par = s.par := rfl

/-! ### noteReturn -/

@[simp] theorem State.noteReturn_pc (s : State) : (s.noteReturn).pc = s.pc := rfl
@[simp] theorem State.noteReturn_x (s : State) : (s.noteReturn).x = s.x := rfl
@[simp] theorem State.noteReturn_sr (s : State) : (s.noteReturn).sr = s.sr := rfl
@[simp] theorem State.noteReturn_v (s : State) : (s.noteReturn).v = s.v := rfl
@[simp] theorem State.noteReturn_fpcr (s : State) : (s.noteReturn).fpcr = s.fpcr := rfl
@[simp] theorem State.noteReturn_lock (s : State) : (s.noteReturn).lock = s.lock := rfl
@[simp] theorem State.noteReturn_csr (s : State) : (s.noteReturn).csr = s.csr := rfl
@[simp] theorem State.noteReturn_itb (s : State) : (s.noteReturn).itb = s.itb := rfl
@[simp] theorem State.noteReturn_itbPtr (s : State) : (s.noteReturn).itbPtr = s.itbPtr := rfl
@[simp] theorem State.noteReturn_dtb (s : State) : (s.noteReturn).dtb = s.dtb := rfl
@[simp] theorem State.noteReturn_icache (s : State) : (s.noteReturn).icache = s.icache := rfl
@[simp] theorem State.noteReturn_mem (s : State) : (s.noteReturn).mem = s.mem := rfl
@[simp] theorem State.noteReturn_timer (s : State) : (s.noteReturn).timer = s.timer := rfl
@[simp] theorem State.noteReturn_hserrTime (s : State) : (s.noteReturn).hserrTime = s.hserrTime := rfl
@[simp] theorem State.noteReturn_power (s : State) : (s.noteReturn).power = s.power := rfl
@[simp] theorem State.noteReturn_ioWin (s : State) : (s.noteReturn).ioWin = s.ioWin := rfl
@[simp] theorem State.noteReturn_armedFetch (s : State) : (s.noteReturn).armedFetch = s.armedFetch := rfl
@[simp] theorem State.noteReturn_armedData (s : State) : (s.noteReturn).armedData = s.armedData := rfl
@[simp] theorem State.noteReturn_fgroup (s : State) : (s.noteReturn).fgroup = s.fgroup := rfl
@[simp] theorem State.noteReturn_env (s : State) : (s.noteReturn).env = s.env := rfl
@[simp] theorem State.noteReturn_out (s : State) : (s.noteReturn).out = s.out := rfl
@[simp] theorem State.noteReturn_freeCtr (s : State) : (s.noteReturn).freeCtr = s.freeCtr := rfl
@[simp] theorem State.noteReturn_track (s : State) : (s.noteReturn).track = s.track := rfl
@[simp] theorem State.noteReturn_midWrites (s : State) : (s.noteReturn).midWrites = s.midWrites := rfl
@[simp] theorem State.noteReturn_inten (s : State) : (s.noteReturn).inten = s.inten := rfl
@[simp] theorem State.noteReturn_heldIntr (s : State) : (s.noteReturn).heldIntr = s.heldIntr := rfl
@[simp] theorem State.noteReturn_online (s : State) : (s.noteReturn).online = s.online := rfl
@[simp] theorem State.noteReturn_intData (s : State) : (s.noteReturn).intData = s.intData := rfl
@[simp] theorem State.noteReturn_par (s : State) : (s.noteReturn).par = s.par := rfl

/-! ### deliverHeld -/

@[simp] theorem State.deliverHeld_pc (s : State) : (s.deliverHeld).pc = s.pc := rfl
@[simp] theorem State.deliverHeld_x (s : State) : (s.deliverHeld).x = s.x := rfl
@[simp] theorem State.deliverHeld_sr (s : State) : (s.deliverHeld).sr = s.sr := rfl
@[simp] theorem State.deliverHeld_v (s : State) : (s.deliverHeld).v = s.v := rfl
@[simp] theorem State.deliverHeld_fpcr (s : State) : (s.deliverHeld).fpcr = s.fpcr := rfl
@[simp] theorem State.deliverHeld_lock (s : State) : (s.deliverHeld).lock = s.lock := rfl
@[simp] theorem State.deliverHeld_itb (s : State) : (s.deliverHeld).itb = s.itb := rfl
@[simp] theorem State.deliverHeld_itbPtr (s : State) : (s.deliverHeld).itbPtr = s.itbPtr := rfl
@[simp] theorem State.deliverHeld_dtb (s : State) : (s.deliverHeld).dtb = s.dtb := rfl
@[simp] theorem State.deliverHeld_icache (s : State) : (s.deliverHeld).icache = s.icache := rfl
@[simp] theorem State.deliverHeld_mem (s : State) : (s.deliverHeld).mem = s.mem := rfl
@[simp] theorem State.deliverHeld_timer (s : State) : (s.deliverHeld).timer = s.timer := rfl
@[simp] theorem State.deliverHeld_hserrTime (s : State) : (s.deliverHeld).hserrTime = s.hserrTime := rfl
@[simp] theorem State.deliverHeld_power (s : State) : (s.deliverHeld).power = s.power := rfl
@[simp] theorem State.deliverHeld_ioWin (s : State) : (s.deliverHeld).ioWin = s.ioWin := rfl
@[simp] theorem State.deliverHeld_armedFetch (s : State) : (s.deliverHeld).armedFetch = s.armedFetch := rfl
@[simp] theorem State.deliverHeld_armedData (s : State) : (s.deliverHeld).armedData = s.armedData := rfl
@[simp] theorem State.deliverHeld_fgroup (s : State) : (s.deliverHeld).fgroup = s.fgroup := rfl
@[simp] theorem State.deliverHeld_env (s : State) : (s.deliverHeld).env = s.env := rfl
@[simp] theorem State.deliverHeld_out (s : State) : (s.deliverHeld).out = s.out := rfl
@[simp] theorem State.deliverHeld_freeCtr (s : State) : (s.deliverHeld).freeCtr = s.freeCtr := rfl
@[simp] theorem State.deliverHeld_unsynced (s : State) : (s.deliverHeld).unsynced = s.unsynced := rfl
@[simp] theorem State.deliverHeld_track (s : State) : (s.deliverHeld).track = s.track := rfl
@[simp] theorem State.deliverHeld_midWrites (s : State) : (s.deliverHeld).midWrites = s.midWrites := rfl
@[simp] theorem State.deliverHeld_inten (s : State) : (s.deliverHeld).inten = s.inten := rfl
@[simp] theorem State.deliverHeld_online (s : State) : (s.deliverHeld).online = s.online := rfl
@[simp] theorem State.deliverHeld_intData (s : State) : (s.deliverHeld).intData = s.intData := rfl
@[simp] theorem State.deliverHeld_par (s : State) : (s.deliverHeld).par = s.par := rfl

/-! ### ioWrite -/

@[simp] theorem State.ioWrite_pc (s : State) (a n d : Nat) : (s.ioWrite a n d).pc = s.pc := rfl
@[simp] theorem State.ioWrite_x (s : State) (a n d : Nat) : (s.ioWrite a n d).x = s.x := rfl
@[simp] theorem State.ioWrite_sr (s : State) (a n d : Nat) : (s.ioWrite a n d).sr = s.sr := rfl
@[simp] theorem State.ioWrite_v (s : State) (a n d : Nat) : (s.ioWrite a n d).v = s.v := rfl
@[simp] theorem State.ioWrite_fpcr (s : State) (a n d : Nat) : (s.ioWrite a n d).fpcr = s.fpcr := rfl
@[simp] theorem State.ioWrite_lock (s : State) (a n d : Nat) : (s.ioWrite a n d).lock = s.lock := rfl
@[simp] theorem State.ioWrite_csr (s : State) (a n d : Nat) : (s.ioWrite a n d).csr = s.csr := rfl
@[simp] theorem State.ioWrite_itb (s : State) (a n d : Nat) : (s.ioWrite a n d).itb = s.itb := rfl
@[simp] theorem State.ioWrite_itbPtr (s : State) (a n d : Nat) : (s.ioWrite a n d).itbPtr = s.itbPtr := rfl
@[simp] theorem State.ioWrite_dtb (s : State) (a n d : Nat) : (s.ioWrite a n d).dtb = s.dtb := rfl
@[simp] theorem State.ioWrite_icache (s : State) (a n d : Nat) : (s.ioWrite a n d).icache = s.icache := rfl
@[simp] theorem State.ioWrite_mem (s : State) (a n d : Nat) : (s.ioWrite a n d).mem = s.mem := rfl
@[simp] theorem State.ioWrite_timer (s : State) (a n d : Nat) : (s.ioWrite a n d).timer = s.timer := rfl
@[simp] theorem State.ioWrite_hserrTime (s : State) (a n d : Nat) : (s.ioWrite a n d).hserrTime = s.hserrTime := rfl
@[simp] theorem State.ioWrite_power (s : State) (a n d : Nat) : (s.ioWrite a n d).power = s.power := rfl
@[simp] theorem State.ioWrite_armedFetch (s : State) (a n d : Nat) : (s.ioWrite a n d).armedFetch = s.armedFetch := rfl
@[simp] theorem State.ioWrite_armedData (s : State) (a n d : Nat) : (s.ioWrite a n d).armedData = s.armedData := rfl
@[simp] theorem State.ioWrite_fgroup (s : State) (a n d : Nat) : (s.ioWrite a n d).fgroup = s.fgroup := rfl
@[simp] theorem State.ioWrite_env (s : State) (a n d : Nat) : (s.ioWrite a n d).env = s.env := rfl
@[simp] theorem State.ioWrite_freeCtr (s : State) (a n d : Nat) : (s.ioWrite a n d).freeCtr = s.freeCtr := rfl
@[simp] theorem State.ioWrite_unsynced (s : State) (a n d : Nat) : (s.ioWrite a n d).unsynced = s.unsynced := rfl
@[simp] theorem State.ioWrite_track (s : State) (a n d : Nat) : (s.ioWrite a n d).track = s.track := rfl
@[simp] theorem State.ioWrite_midWrites (s : State) (a n d : Nat) : (s.ioWrite a n d).midWrites = s.midWrites := rfl
@[simp] theorem State.ioWrite_inten (s : State) (a n d : Nat) : (s.ioWrite a n d).inten = s.inten := rfl
@[simp] theorem State.ioWrite_heldIntr (s : State) (a n d : Nat) : (s.ioWrite a n d).heldIntr = s.heldIntr := rfl
@[simp] theorem State.ioWrite_online (s : State) (a n d : Nat) : (s.ioWrite a n d).online = s.online := rfl
@[simp] theorem State.ioWrite_intData (s : State) (a n d : Nat) : (s.ioWrite a n d).intData = s.intData := rfl
@[simp] theorem State.ioWrite_par (s : State) (a n d : Nat) : (s.ioWrite a n d).par = s.par := rfl

/-! ### The fields an update sets -/

@[simp] theorem State.nextPc_pc (s : State) : s.nextPc.pc = s.pc + 4 := rfl
@[simp] theorem State.setSr23_sr (s : State) (w : W64) : (s.setSr23 w).sr = s.sr.set 9 w := rfl
@[simp] theorem State.retire_pc (s : State) (e : EventClass) : (s.retire e).pc = s.pc + 4 := by simp [State.retire]
@[simp] theorem State.retire_csr (s : State) (e : EventClass) : (s.retire e).csr = (s.count e).csr := rfl
@[simp] theorem State.emit_out (s : State) (o : Output) : (s.emit o).out = o :: s.out := rfl
@[simp] theorem State.enter_pc (s : State) (off : BitVec 16) : (s.enter off).pc = s.entry off := rfl
@[simp] theorem State.enter_lock (s : State) (off : BitVec 16) :
    (s.enter off).lock = { s.lock with valid := false } := rfl
@[simp] theorem State.enter_csr (s : State) (off : BitVec 16) :
    (s.enter off).csr = { s.csr with excPc := sext53 s.pc } := rfl
@[simp] theorem State.raise_pc (s : State) (off : BitVec 16) (r : BitVec 5) (b : W64) :
    (s.raise off r b).pc = s.entry off := rfl
@[simp] theorem State.raise_lock (s : State) (off : BitVec 16) (r : BitVec 5) (b : W64) :
    (s.raise off r b).lock = { s.lock with valid := false } := rfl
@[simp] theorem State.raise_csr (s : State) (off : BitVec 16) (r : BitVec 5) (b : W64) :
    (s.raise off r b).csr = { s.csr with excSum := excSumOf r b, excPc := sext53 s.pc } := rfl
@[simp] theorem State.raiseData_pc (s : State) (off : BitVec 16) (r : BitVec 5) (wr : Bool) (b f d : W64) :
    (s.raiseData off r wr b f d).pc = s.entry off := rfl
@[simp] theorem State.raiseData_lock (s : State) (off : BitVec 16) (r : BitVec 5) (wr : Bool) (b f d : W64) :
    (s.raiseData off r wr b f d).lock = { s.lock with valid := false } := rfl
@[simp] theorem State.raiseData_csr (s : State) (off : BitVec 16) (r : BitVec 5) (wr : Bool) (b f d : W64) :
    (s.raiseData off r wr b f d).csr =
      { s.csr with dsStat := if s.flagStays 0x48 then dsStatOf b f s.opcode wr else s.csr.dsStat, dva := d, excSum := excSumOf r 0, excPc := sext53 s.pc } := rfl
@[simp] theorem State.interrupt_pc (s : State) (off : BitVec 16) : (s.interrupt off).pc = s.entry off := rfl
@[simp] theorem State.interrupt_lock (s : State) (off : BitVec 16) :
    (s.interrupt off).lock = { s.lock with valid := false } := rfl
@[simp] theorem State.interrupt_csr (s : State) (off : BitVec 16) :
    (s.interrupt off).csr =
      { s.csr with excSum := putField s.csr.excSum 8 s.freeReg, excPc := sext53 s.pc } := rfl
@[simp] theorem State.leave_pc (s : State) (w : W64) : (s.leave w).pc = w := rfl
@[simp] theorem State.leave_lock (s : State) (w : W64) : (s.leave w).lock = { s.lock with valid := false } := rfl
@[simp] theorem State.unlock_lock (s : State) : s.unlock.lock = { s.lock with valid := false } := rfl
@[simp] theorem State.store_mem (s : State) (a n d : Nat) : (s.store a n d).mem = writeMem s.mem a n d := rfl

/-- A store that no store seen early meets. -/
theorem State.write_of_ordered {s : State} {c : Bool} {a n : Nat} (d : Nat) (h : c = true ∨ s.track.hasEarly a n = false) :
    s.write c a n d =
      { s with track := ({ s.track with dirty := noteDirtyBytes s.mem c a n d s.track.dirty } : MemTrack).noteParts s.mem c a n d }.store a n d := by
  unfold State.write
  rw [if_pos]
  rcases h with h | h
  · simp [h]
  · exact Bool.or_eq_true_iff.2 (.inr (by rw [Bool.not_eq_true']; exact h))

/-- Such a store stores its bytes. -/
theorem State.write_mem {s : State} {c : Bool} {a n : Nat} (d : Nat) (h : c = true ∨ s.track.hasEarly a n = false) :
    (s.write c a n d).mem = writeMem s.mem a n d := by
  rw [State.write_of_ordered d h]
  rfl

/-- Such a store drops the instruction-cache lines it changes. -/
theorem State.write_icache {s : State} {c : Bool} {a n : Nat} (d : Nat) (h : c = true ∨ s.track.hasEarly a n = false) :
    (s.write c a n d).icache = (s.store a n 0).icache := by
  rw [State.write_of_ordered d h]
  rfl

/-- Such a store drops them also where a fetch may still see them. -/
theorem State.write_unsynced {s : State} {c : Bool} {a n : Nat} (d : Nat) (h : c = true ∨ s.track.hasEarly a n = false) :
    (s.write c a n d).unsynced = (s.store a n 0).unsynced := by
  rw [State.write_of_ordered d h]
  rfl
@[simp] theorem State.request_csr (s : State) (k : BitVec 8) : (s.request k).csr = s.csr.request k := rfl

/-! ### The mode -/

/-- Sequential execution keeps the mode. -/
@[simp] theorem pc_add_four_mode (w : W64) : (w + 4#64).extractLsb' 0 2 = w.extractLsb' 0 2 := by
  apply BitVec.eq_of_toNat_eq
  have h : (4#64).toNat = 4 := rfl
  simp only [BitVec.extractLsb'_toNat, BitVec.toNat_add, Nat.shiftRight_zero, h]
  omega

@[simp] theorem State.nextPc_mode (s : State) : s.nextPc.mode = s.mode := pc_add_four_mode s.pc
@[simp] theorem State.retire_mode (s : State) (e : EventClass) : (s.retire e).mode = s.mode := by
  simp [State.mode]

/-! ### Old values of CSRs -/

/-- What readers may still see of a CSR depends on the CSR writes in flight alone. -/
theorem State.oldValues_congr {s t : State} (h : t.unsynced = s.unsynced) (i : BitVec 8) : t.oldValues i = s.oldValues i := by
  unfold State.oldValues
  rw [h]

@[simp] theorem State.setX_oldValues (s : State) (i : BitVec 5) (w : W64) (k : BitVec 8) : (s.setX i w).oldValues k = s.oldValues k := State.oldValues_congr (by simp) k
@[simp] theorem State.setV_oldValues (s : State) (i : BitVec 5) (w : V256) (j : BitVec 4) (k : BitVec 8) : (s.setV i w j).oldValues k = s.oldValues k := State.oldValues_congr (by simp) k
@[simp] theorem State.setF_oldValues (s : State) (i : BitVec 5) (w : W64) (b : Bool) (k : BitVec 8) : (s.setF i w b).oldValues k = s.oldValues k := State.oldValues_congr (by simp) k
@[simp] theorem State.setSr23_oldValues (s : State) (w : W64) (k : BitVec 8) : (s.setSr23 w).oldValues k = s.oldValues k := State.oldValues_congr (by simp) k
@[simp] theorem State.nextPc_oldValues (s : State) (k : BitVec 8) : (s.nextPc).oldValues k = s.oldValues k := State.oldValues_congr (by simp) k
@[simp] theorem State.emit_oldValues (s : State) (o : Output) (k : BitVec 8) : (s.emit o).oldValues k = s.oldValues k := State.oldValues_congr (by simp) k
@[simp] theorem State.request_oldValues (s : State) (j : BitVec 8) (k : BitVec 8) : (s.request j).oldValues k = s.oldValues k := State.oldValues_congr (by simp) k
@[simp] theorem State.machineCheck_oldValues (s : State) (k : BitVec 8) : (s.machineCheck).oldValues k = s.oldValues k := State.oldValues_congr (by simp) k
@[simp] theorem State.enter_oldValues (s : State) (off : BitVec 16) (k : BitVec 8) : (s.enter off).oldValues k = s.oldValues k := State.oldValues_congr (by simp) k
@[simp] theorem State.raise_oldValues (s : State) (off : BitVec 16) (r : BitVec 5) (b : W64) (k : BitVec 8) : (s.raise off r b).oldValues k = s.oldValues k := State.oldValues_congr (by simp) k
@[simp] theorem State.raiseData_oldValues (s : State) (off : BitVec 16) (r : BitVec 5) (wr : Bool) (b f d : W64) (k : BitVec 8) : (s.raiseData off r wr b f d).oldValues k = s.oldValues k := State.oldValues_congr (by simp) k
@[simp] theorem State.interrupt_oldValues (s : State) (off : BitVec 16) (k : BitVec 8) : (s.interrupt off).oldValues k = s.oldValues k := State.oldValues_congr (by simp) k
@[simp] theorem State.leave_oldValues (s : State) (w : W64) (k : BitVec 8) : (s.leave w).oldValues k = s.oldValues k := State.oldValues_congr (by simp) k
@[simp] theorem State.unlock_oldValues (s : State) (k : BitVec 8) : (s.unlock).oldValues k = s.oldValues k := State.oldValues_congr (by simp) k
@[simp] theorem State.addPc0_oldValues (s : State) (n : Nat) (k : BitVec 8) : (s.addPc0 n).oldValues k = s.oldValues k := State.oldValues_congr (by simp) k
@[simp] theorem State.addPc1_oldValues (s : State) (n : Nat) (k : BitVec 8) : (s.addPc1 n).oldValues k = s.oldValues k := State.oldValues_congr (by simp) k
@[simp] theorem State.count_oldValues (s : State) (e : EventClass) (k : BitVec 8) : (s.count e).oldValues k = s.oldValues k := State.oldValues_congr (by simp) k
@[simp] theorem State.retire_oldValues (s : State) (e : EventClass) (k : BitVec 8) : (s.retire e).oldValues k = s.oldValues k := State.oldValues_congr (by simp) k
@[simp] theorem State.flagIs_oldValues (s : State) (n : Nat) (k : BitVec 8) : (s.flagIs n).oldValues k = s.oldValues k := State.oldValues_congr (by simp) k
@[simp] theorem State.flagDc_oldValues (s : State) (n : Nat) (k : BitVec 8) : (s.flagDc n).oldValues k = s.oldValues k := State.oldValues_congr (by simp) k
@[simp] theorem State.flagSc_oldValues (s : State) (n : Nat) (k : BitVec 8) : (s.flagSc n).oldValues k = s.oldValues k := State.oldValues_congr (by simp) k
@[simp] theorem State.countCorrected_oldValues (s : State) (k : BitVec 8) : (s.countCorrected).oldValues k = s.oldValues k := State.oldValues_congr (by simp) k
@[simp] theorem State.sboxCheck_oldValues (s : State) (en b : Nat) (k : BitVec 8) : (s.sboxCheck en b).oldValues k = s.oldValues k := State.oldValues_congr (by simp) k
@[simp] theorem State.requestError_oldValues (s : State) (k : BitVec 8) : (s.requestError).oldValues k = s.oldValues k := State.oldValues_congr (by simp) k
@[simp] theorem State.writeAddrError_oldValues (s : State) (j : WriteKind) (k : BitVec 8) : (s.writeAddrError j).oldValues k = s.oldValues k := State.oldValues_congr (by simp) k
@[simp] theorem State.dfault_oldValues (s : State) (a : Acc) (f d : W64) (k : BitVec 8) : (s.dfault a f d).oldValues k = s.oldValues k := State.oldValues_congr (by simp) k
@[simp] theorem State.unalign_oldValues (s : State) (a : Acc) (d : W64) (k : BitVec 8) : (s.unalign a d).oldValues k = s.oldValues k := State.oldValues_congr (by simp) k
@[simp] theorem State.dtbMiss_oldValues (s : State) (a : Acc) (d : W64) (k : BitVec 8) : (s.dtbMiss a d).oldValues k = s.oldValues k := State.oldValues_congr (by simp) k
@[simp] theorem State.badDva_oldValues (s : State) (a : Acc) (d : W64) (k : BitVec 8) : (s.badDva a d).oldValues k = s.oldValues k := State.oldValues_congr (by simp) k
@[simp] theorem State.sboxMulti_oldValues (s : State) (en b : Nat) (k : BitVec 8) : (s.sboxMulti en b).oldValues k = s.oldValues k := State.oldValues_congr (by simp) k
@[simp] theorem State.rmwSingle_oldValues (s : State) (k : BitVec 8) : (s.rmwSingle).oldValues k = s.oldValues k := State.oldValues_congr (by simp) k
@[simp] theorem State.rmwMulti_oldValues (s : State) (k : BitVec 8) : (s.rmwMulti).oldValues k = s.oldValues k := State.oldValues_congr (by simp) k
@[simp] theorem State.cleanLine_oldValues (s : State) (a : Nat) (k : BitVec 8) : (s.cleanLine a).oldValues k = s.oldValues k := State.oldValues_congr (by simp) k
@[simp] theorem State.corruptLine_oldValues (s : State) (a : Nat) (k : BitVec 8) : (s.corruptLine a).oldValues k = s.oldValues k := State.oldValues_congr (by simp) k
@[simp] theorem State.ioRead_oldValues (s : State) (a n : Nat) (k : BitVec 8) : (s.ioRead a n).2.oldValues k = s.oldValues k := State.oldValues_congr (by simp) k
@[simp] theorem State.deliverHeld_oldValues (s : State) (k : BitVec 8) : (s.deliverHeld).oldValues k = s.oldValues k := State.oldValues_congr (by simp) k
@[simp] theorem State.ioWrite_oldValues (s : State) (a n d : Nat) (k : BitVec 8) : (s.ioWrite a n d).oldValues k = s.oldValues k := State.oldValues_congr (by simp) k

@[simp] theorem State.store_oldValues (s : State) (a n d : Nat) (i : BitVec 8) :
    (s.store a n d).oldValues i = s.oldValues i := State.mapCaches_oldValues ..
@[simp] theorem State.write_oldValues (s : State) (c : Bool) (a n d : Nat) (i : BitVec 8) :
    (s.write c a n d).oldValues i = s.oldValues i := congrFun (State.write_stored ..).oldValues i
@[simp] theorem State.settle_oldValues (s : State) (l : List MemStore) (i : BitVec 8) :
    (s.settle l).oldValues i = s.oldValues i := congrFun (State.settle_stored ..).oldValues i
@[simp] theorem State.settleRaces_oldValues (s : State) (i : BitVec 8) :
    s.settleRaces.oldValues i = s.oldValues i :=
  congrFun s.settleRaces_stored.oldValues i

/-! ### What a count depends on -/

/-- The CSRs after a count depend on the CSRs, the mode and the CSR writes in flight alone. -/
theorem State.count_csr_congr {s u : State} (hc : u.csr = s.csr) (hm : u.mode = s.mode)
    (hu : u.oldValues 0x11 = s.oldValues 0x11) (hf : u.freeCtr = s.freeCtr) (e : EventClass) :
    (u.count e).csr = (s.count e).csr := by
  have h0 : u.counting 14 = s.counting 14 := by
    unfold State.counting State.inHm
    rw [hc, hm, hu, hf]
  have h1 : (u.addPc0 1).csr = (s.addPc0 1).csr := by simp only [State.addPc0, h0, hc]
  unfold State.count
  rw [hc]
  split
  · exact h1
  · exact hc

/-- A count leaves every CSR but counter 0 and the request bits. -/
theorem State.count_csr (s : State) (e : EventClass) :
    (s.count e).csr = { s.csr with pc0Cr := (s.count e).csr.pc0Cr, raw := (s.count e).csr.raw } := by
  unfold State.count
  split <;> rfl

/-- The register view depends on the mode, IS_CTL and the CSR writes in flight alone. -/
theorem State.shadow_congr {s t : State} (hm : t.mode = s.mode) (hc : t.csr.isCtl = s.csr.isCtl)
    (hu : t.oldValues 0x11 = s.oldValues 0x11) (hf : t.freeCtr = s.freeCtr) (i : BitVec 5) : t.shadow i = s.shadow i := by
  unfold State.shadow State.inHm State.sreSeen Csrs.sre
  rw [hm, hc, hu, hf]

/-- Ending a lock sequence changes no register view. -/
@[simp] theorem State.unlock_getX (s : State) (i : BitVec 5) : s.unlock.getX i = s.getX i := rfl
@[simp] theorem State.unlock_shadow (s : State) (i : BitVec 5) : s.unlock.shadow i = s.shadow i := rfl
@[simp] theorem State.unlock_mode (s : State) : s.unlock.mode = s.mode := rfl

/-! ### CSR writes that no barrier ordered -/

/-- With no value in doubt a reader sees the value. -/
@[simp] theorem seenBool_nil (ctr n : Nat) (b : Bool) : seenBool ctr n b [] = b := rfl

/-- A reader of a CSR that no write is in flight of sees what it holds. -/
theorem State.oldValues_of_settled {s : State} {idx : BitVec 8} (h : ∀ e ∈ s.unsynced, e.idx ≠ idx) (strict : Bool) :
    s.oldValues idx strict = [] := by
  unfold State.oldValues
  rw [List.map_eq_nil_iff, List.filter_eq_nil_iff]
  intro e he
  simp [h e he]

/-- See `State.oldValues_of_settled`. -/
theorem State.sreSeen_of_settled {s : State} (h : ∀ e ∈ s.unsynced, e.idx ≠ (0x11 : BitVec 8)) (i : BitVec 5) :
    s.sreSeen i = s.csr.sre := by
  unfold State.sreSeen
  rw [State.oldValues_of_settled h]
  rfl

/-- See `State.oldValues_of_settled`. -/
theorem State.maskSeen_of_settled {s : State} (h : ∀ e ∈ s.unsynced, e.idx ≠ (0xC3 : BitVec 8)) :
    s.maskSeen = s.csr.icr.getLsbD 0 := by
  unfold State.maskSeen
  rw [State.oldValues_of_settled h]
  rfl

/-- See `State.oldValues_of_settled`. -/
theorem State.counting_of_settled {s : State} (h : ∀ e ∈ s.unsynced, e.idx ≠ (0x11 : BitVec 8)) (en : Nat) :
    s.counting en = countsUnder s.mode en s.csr.isCtl := by
  unfold State.counting
  rw [State.oldValues_of_settled h]
  rfl

/-- See `State.oldValues_of_settled`. -/
theorem iaHit_of_settled {s : State} (h : ∀ e ∈ s.unsynced, e.idx ≠ (0x1A : BitVec 8)) (h' : ∀ e ∈ s.unsynced, e.idx ≠ (0x1B : BitVec 8)) :
    iaHit s = iaHitUnder s s.csr.iaMatch s.csr.iaMask := by
  unfold iaHit
  rw [State.oldValues_of_settled h, State.oldValues_of_settled h']
  simp [seenBool]

/-- Hardware's flag in a register that no clear is in flight of stays. -/
theorem State.flagStays_of_settled {s : State} {idx : BitVec 8} (h : ∀ e ∈ s.unsynced, e.idx ≠ idx) :
    s.flagStays idx = true := by
  unfold State.flagStays
  have : s.unsynced.any (fun e => decide (e.idx = idx)) = false := by
    rw [List.any_eq_false]
    intro e he
    simp [h e he]
  rw [this]
  rfl

end Sys2Proof.Machine
end

