-- ==== Sys2Proof/Laws/Memory.lean ====
section
/-! SUPPORT. Memory keeps its canonical form, and what a write leaves at every address. -/

namespace Sys2Proof.Machine

/-- A canonical form from a bound is one from every lower bound. -/
theorem memWfFrom_mono {m : List Host.Cell} {lo lo' : Nat} (h : lo' ≤ lo) (hm : memWfFrom lo m = true) :
    memWfFrom lo' m = true := by
  cases m with
  | nil => rfl
  | cons c r =>
    simp only [memWfFrom, Bool.and_eq_true, decide_eq_true_eq] at hm ⊢
    exact ⟨⟨by omega, hm.1.2⟩, hm.2⟩

/-- Writing one byte keeps the canonical form from any bound below the address. -/
theorem memSet_wfFrom (m : List Host.Cell) (a : Nat) (v : BitVec 8) (lo : Nat) (ha : lo ≤ a)
    (hm : memWfFrom lo m = true) : memWfFrom lo (memSet m a v) = true := by
  induction m generalizing lo with
  | nil =>
    simp only [memSet]
    split
    · rfl
    · rename_i hv
      simpa [memWfFrom, ha] using hv
  | cons c r ih =>
    obtain ⟨k, b⟩ := c
    simp only [memWfFrom, Bool.and_eq_true, decide_eq_true_eq] at hm
    obtain ⟨⟨hk, hb⟩, hr⟩ := hm
    simp only [memSet]
    split
    · split
      · exact memWfFrom_mono (by omega) hr
      · rename_i e hv
        simp only [memWfFrom, Bool.and_eq_true, decide_eq_true_eq]
        exact ⟨⟨ha, hv⟩, e ▸ hr⟩
    · split
      · split
        · simp only [memWfFrom, Bool.and_eq_true, decide_eq_true_eq]
          exact ⟨⟨hk, hb⟩, hr⟩
        · rename_i h1 h2 hv
          simp only [memWfFrom, Bool.and_eq_true, decide_eq_true_eq]
          exact ⟨⟨ha, hv⟩, ⟨⟨by omega, hb⟩, hr⟩⟩
      · simp only [memWfFrom, Bool.and_eq_true, decide_eq_true_eq]
        exact ⟨⟨hk, hb⟩, ih (k + 1) (by omega) hr⟩

/-- Writing one byte keeps the canonical form. -/
theorem memSet_wf {m : List Host.Cell} (a : Nat) (v : BitVec 8) (hm : Memory.wf m = true) :
    Memory.wf (memSet m a v) = true :=
  memSet_wfFrom m a v 0 (Nat.zero_le a) hm

/-- Writing bytes keeps the canonical form. -/
theorem writeMem_wf {m : List Host.Cell} (a n v : Nat) (hm : Memory.wf m = true) :
    Memory.wf (writeMem m a n v) = true := by
  induction n generalizing m a v with
  | zero => exact hm
  | succ n ih => exact ih (a + 1) (v / 256) (memSet_wf a _ hm)

/-- A loaded memory image is canonical. -/
theorem imageOf_wf (l : List Host.Cell) : Memory.wf (imageOf l) = true := by
  have h : ∀ (l m : List Host.Cell), Memory.wf m = true →
      Memory.wf (l.foldl (fun m c => memSet m c.1 c.2) m) = true := by
    intro l
    induction l with
    | nil => exact fun m hm => hm
    | cons c r ih => exact fun m hm => ih _ (memSet_wf c.1 c.2 hm)
  exact h l [] rfl

/-- The byte an address reads as after one byte is written. -/
theorem memGet_memSet (m : List Host.Cell) (a : Nat) (v : BitVec 8) (lo : Nat) (hm : memWfFrom lo m = true)
    (x : Nat) : memGet (memSet m a v) x = if x = a then v else memGet m x := by
  have below : ∀ (m : List Host.Cell) (lo x : Nat), memWfFrom lo m = true → x < lo → memGet m x = 0 := by
    intro m
    induction m with
    | nil => intro lo x _ _; rfl
    | cons c r ih =>
      intro lo x hm hx
      simp only [memWfFrom, Bool.and_eq_true, decide_eq_true_eq] at hm
      simp only [memGet]
      rw [if_neg (by omega)]
      exact ih _ x hm.2 (by omega)
  induction m generalizing lo with
  | nil =>
    simp only [memSet]
    split <;> simp only [memGet] <;> split <;> simp_all
    · intro h; exact absurd h.symm ‹_›
  | cons c r ih =>
    obtain ⟨k, b⟩ := c
    simp only [memWfFrom, Bool.and_eq_true, decide_eq_true_eq] at hm
    obtain ⟨⟨hk, hb⟩, hr⟩ := hm
    simp only [memSet]
    split
    · rename_i hka
      split
      · by_cases hx : x = a
        · rw [if_pos hx, below r (k + 1) x hr (by omega), ‹v = 0›]
        · rw [if_neg hx, memGet, if_neg (by omega)]
      · by_cases hx : x = a
        · simp [memGet, hx]
        · simp [memGet, hx, Ne.symm hx, hka]
    · split
      · split
        · by_cases hx : x = a
          · rw [if_pos hx, memGet, if_neg (by omega), below r (k + 1) x hr (by omega), ‹v = 0›]
          · rw [if_neg hx]
        · by_cases hx : x = a
          · simp [memGet, hx]
          · simp [memGet, hx, Ne.symm hx]
      · simp only [memGet]
        by_cases hkx : k = x
        · rw [if_pos hkx, if_pos hkx, if_neg (by omega)]
        · rw [if_neg hkx, if_neg hkx, ih _ hr]

/-- Every operation over memory keeps the canonical form: a store, another agent's write. -/
theorem State.store_wf {s : State} (a n v : Nat) (h : Memory.wf s.mem = true) :
    Memory.wf (s.store a n v).mem = true := writeMem_wf a n v h

/-- See `State.store_wf`. -/
theorem State.writeReached_wf {s : State} (a n v : Nat) (h : Memory.wf s.mem = true) :
    Memory.wf (s.writeReached a n v).mem = true := by
  unfold State.writeReached
  split
  · exact State.store_wf _ _ _ h
  · exact State.store_wf _ _ _ h

/-- See `State.store_wf`. -/
theorem State.write_wf {s : State} (c : Bool) (a n v : Nat) (h : Memory.wf s.mem = true) :
    Memory.wf (s.write c a n v).mem = true := by
  have fold : ∀ (l : List (Nat × Nat)) (u : State), Memory.wf u.mem = true →
      Memory.wf (l.foldl (fun u p => u.writeReached p.1 p.2 (v / 2 ^ (8 * (p.1 - a)))) u).mem = true := by
    intro l
    induction l with
    | nil => exact fun _ hu => hu
    | cons p r ih => exact fun u hu => ih _ (State.writeReached_wf _ _ _ hu)
  unfold State.write
  dsimp only
  split
  · exact State.store_wf _ _ _ h
  · exact fold _ _ h

/-- See `State.store_wf`. -/
theorem State.agentWrite_wf {s : State} (a : Nat) (b : BitVec 8) (h : Memory.wf s.mem = true) :
    Memory.wf (s.agentWrite a b).mem = true := writeMem_wf a 1 _ h

/-- A list of changes that each keep the canonical form keeps it. -/
theorem foldl_wf {α : Type} (f : List Host.Cell → α → List Host.Cell)
    (hf : ∀ m x, Memory.wf m = true → Memory.wf (f m x) = true) (l : List α) {m : List Host.Cell}
    (h : Memory.wf m = true) : Memory.wf (l.foldl f m) = true := by
  induction l generalizing m with
  | nil => exact h
  | cons x r ih => exact ih (hf m x h)

/-- What reads and writes of memory, and the writes of other agents between their parts, can change. -/
structure Touched (s t : State) : Prop where
  same : t = { s with
    mem := t.mem, icache := t.icache, lock := { s.lock with line := t.lock.line }, unsynced := t.unsynced
    track := t.track, midWrites := t.midWrites }
  oldValues : t.oldValues = s.oldValues
  memWf : Memory.wf s.mem = true → Memory.wf t.mem = true

theorem Touched.refl (s : State) : Touched s s := ⟨rfl, rfl, id⟩

theorem Touched.trans {s t u : State} (h : Touched s t) (h' : Touched t u) : Touched s u where
  same := by
    have e := h'.same
    rw [h.same] at e
    exact e
  oldValues := h'.oldValues.trans h.oldValues
  memWf := fun hm => h'.memWf (h.memWf hm)

/-- What stores of this core can change. -/
theorem Stored.touched {s t : State} (h : Stored s t) (hm : Memory.wf s.mem = true → Memory.wf t.mem = true) :
    Touched s t where
  same := by
    have hl : t.lock = s.lock := h.field State.lock (fun _ _ _ _ => rfl)
    have hw : t.midWrites = s.midWrites := h.field State.midWrites (fun _ _ _ _ => rfl)
    rw [hl, hw]
    exact h.same
  oldValues := h.oldValues
  memWf := hm

theorem touched_store (s : State) (a n v : Nat) : Touched s (s.store a n v) :=
  (s.store_stored a n v).touched (State.store_wf a n v)

theorem touched_write (s : State) (c : Bool) (a n v : Nat) : Touched s (s.write c a n v) :=
  (s.write_stored c a n v).touched (State.write_wf c a n v)

theorem touched_agentWrite (s : State) (a : Nat) (b : BitVec 8) : Touched s (s.agentWrite a b) :=
  ⟨rfl, funext (State.mapCaches_oldValues _ _), State.agentWrite_wf a b⟩

theorem touched_agentWrites (l : List MidWrite) (s : State) :
    Touched s (l.foldl (fun t w => t.agentWrite w.addr w.byte) s) := by
  induction l generalizing s with
  | nil => exact Touched.refl s
  | cons w r ih => exact (touched_agentWrite s w.addr w.byte).trans (ih _)

theorem touched_midWrite (s : State) (k : Nat) : Touched s (s.midWrite k) := by
  have h := touched_agentWrites (s.midWrites.filter (fun w => decide (w.after = k))) s
  refine ⟨?_, h.oldValues, h.memWf⟩
  unfold State.midWrite
  rw [h.same]

/-- The stores that take their places change what a store changes. -/
theorem touched_settle (l : List MemStore) (s : State) : Touched s (s.settle l) := by
  unfold State.settle
  induction l generalizing s with
  | nil => exact Touched.refl s
  | cons e r ih => exact (touched_store s _ _ _).trans (ih _)

/-- Changing the record of the order of accesses changes nothing else. -/
theorem touched_track (s : State) (t : MemTrack) : Touched s { s with track := t } := ⟨rfl, rfl, id⟩

/-- What the late stores that take their places can change. -/
theorem touched_place (s : State) (w : Nat → MemStore → Bool) : Touched s (s.place w) :=
  (touched_track s _).trans (touched_settle _ _)

/-- What a store seen early can change. -/
theorem touched_pushEarly (s : State) (a n v : Nat) : Touched s (s.pushEarly a n v) :=
  (touched_place s _).trans (touched_track _ _)

/-- What settling the order of accesses can change. -/
theorem touched_settleRaces (s : State) : Touched s s.settleRaces :=
  ((touched_track s _).trans (touched_place _ _)).trans (touched_track _ _)

/-- Settling what R245 leaves unordered keeps the canonical form. -/
theorem State.settleRaces_wf {s : State} (h : Memory.wf s.mem = true) : Memory.wf s.settleRaces.mem = true :=
  (touched_settleRaces s).memWf h

/-- Losing the caches keeps the canonical form. -/
theorem State.loseCaches_wf {s : State} (h : Memory.wf s.mem = true) : Memory.wf s.loseCaches.mem = true :=
  foldl_wf _ (fun _ _ hm => memSet_wf _ _ hm) _ (State.settleRaces_wf h)

/-- Wrong data in a line keeps the canonical form. -/
theorem State.corruptLine_wf {s : State} (line : Nat) (h : Memory.wf s.mem = true) :
    Memory.wf (s.corruptLine line).mem = true := by
  simp only [State.corruptLine]
  exact writeMem_wf _ _ _ h

/-- What an indivisible read can change. -/
theorem touched_readPart (s : State) (nc : Bool) (a n : Nat) : Touched s (s.readPart nc a n).2 := by
  unfold State.readPart
  split
  · exact Touched.refl s
  · dsimp only
    cases nc
    · exact touched_place s _
    · exact ((touched_track s _).trans (touched_place _ _)).trans (touched_track _ _)

/-- What a read part by part can change. -/
theorem touched_readParts (nc : Bool) (k : Nat) (l : List (Nat × Nat)) (s : State) :
    Touched s (readParts nc k l s).2 := by
  induction l generalizing k s with
  | nil => exact Touched.refl s
  | cons p r ih => exact ((touched_readPart s nc p.1 p.2).trans (touched_midWrite _ k)).trans (ih ..)

/-- What a write part by part can change. -/
theorem touched_writeParts (c : Bool) (k : Nat) (l : List (Nat × Nat)) (v : Nat) (s : State) :
    Touched s (writeParts c k l v s) := by
  induction l generalizing k v s with
  | nil => exact Touched.refl s
  | cons p r ih => exact ((touched_write s c p.1 p.2 v).trans (touched_midWrite _ k)).trans (ih ..)

/-- What a read can change. -/
theorem touched_load (s : State) (nc : Bool) (a n : Nat) : Touched s (s.load nc a n).2 := by
  unfold State.load
  split
  · exact Touched.refl s
  · split
    · exact touched_readPart ..
    · exact touched_readParts ..

/-- What a write can change. -/
theorem touched_save (s : State) (c : Bool) (a n v : Nat) : Touched s (s.save c a n v) := by
  unfold State.save
  split
  · exact touched_writeParts ..
  · exact touched_write ..

/-- A read that meets nothing unordered and no other agent: the bytes at the address, and nothing changes. -/
theorem State.load_of_ordered {s : State} {nc : Bool} {a n : Nat} (h : n ≤ 8 ∨ s.midWrites = [])
    (hr : noRace s nc a n = true) : s.load nc a n = (readMem s.mem a n, s) := by
  have : (decide (n ≤ 8) || s.midWrites.isEmpty) = true := by
    rcases h with h | h <;> simp [h]
  simp [State.load, this, hr]

/-- A write that meets no other agent. -/
theorem State.save_of_alone {s : State} {c : Bool} {a n v : Nat} (h : n ≤ 8 ∨ s.midWrites = []) :
    s.save c a n v = s.write c a n v := by
  have : (decide (8 < n) && !s.midWrites.isEmpty) = false := by
    rcases h with h | h
    · simp; omega
    · simp [h]
  simp [State.save, this]

/-- Reset memory is canonical. -/
theorem reset_mem_wf : Memory.wf State.reset.mem = true := rfl

/-- Placing an instruction word keeps the canonical form. -/
theorem State.withFetchWord_wf {s : State} (k w : Nat) (h : Memory.wf s.mem = true) :
    Memory.wf (s.withFetchWord k w).mem = true := by
  unfold State.withFetchWord
  split
  · exact writeMem_wf _ _ _ h
  · exact h

end Sys2Proof.Machine
end

