-- ==== Sys2Proof/Laws/Access.lean ====
section
/-! SUPPORT. What each shared operation can do: the decode stage, the checks of a data access, the reads and writes. -/

namespace Sys2Proof.Machine

/-! ### The decode stage -/

/-- A ready instruction that is legal runs its body. -/
theorem decodeStage_ready {s : State} {f : FpClass} (lk : Bool) (body : State → Host.Outcome State Fault Refusal)
    (h : ready s f) : decodeStage s true lk f body = body s := by
  obtain ⟨h1, h2, h3⟩ := h
  simp [decodeStage, h1, h2, h3]

/-- See `decodeStage_ready`. -/
theorem plainStage_ready {s : State} (body : State → Host.Outcome State Fault Refusal) (h : ready s .none) :
    plainStage s body = body s := decodeStage_ready false body h

/-- A ready privileged instruction in HM runs its body. -/
theorem privStage_ready {s : State} (body : State → Host.Outcome State Fault Refusal) (h : ready s .none)
    (hm : s.mode = 0#2) : privStage s body = body s := by
  simp only [privStage, State.inHm, hm, decide_true]
  exact decodeStage_ready false body h

/-- What the decode stage can do: raise OPCDEC, IACV or FEN, or run the body. -/
theorem decodeStage_cases {s t : State} {legal lk : Bool} {f : FpClass}
    {body : State → Host.Outcome State Fault Refusal} (h : decodeStage s legal lk f body = .next t) :
    (∃ b, t = s.raiseOpcdec b) ∨ t = s.raiseIaMatch ∨ t = s.raiseFen ∨ (legal = true ∧ body s = .next t) := by
  unfold decodeStage at h
  split at h
  · exact .inl ⟨_, by injection h with h; exact h.symm⟩
  · rename_i hl
    split at h
    · exact .inr (.inl (by injection h with h; exact h.symm))
    · split at h
      · refine .inr (.inr (.inr ⟨?_, h⟩))
        revert hl
        cases legal <;> simp
      · exact .inr (.inr (.inl (by injection h with h; exact h.symm)))

/-! ### The checks of a data access -/

/-- A state that holds no armed error is unchanged by consuming it. -/
theorem State.consume_none {s : State} (h : s.armedData = none) : { s with armedData := none } = s := by
  cases s
  simp_all

/-- Where no error is armed or forced the data cache lets every access through. -/
theorem arrayPhase_of_quiet {s : State} (a : Acc) (va : W64) (pa : PAddr) (h : s.armedData = none)
    (hf : s.par.fpga = false) : arrayPhase s a va pa = .ok s := by
  simp [arrayPhase, h, hf]

/-- Where no error is armed no response is bad. -/
theorem responsePhase_of_quiet {s : State} (a : Acc) (pa : PAddr) (h : s.armedData = none) :
    responsePhase s a pa = .ok s := by
  simp [responsePhase, h]

/-- The address checks of an access that gets through. -/
theorem addressPhase_of_partOk {s : State} {a : Acc} {va : W64} {pa : PAddr} (h : partOk s a va pa) :
    addressPhase s a va = .ok pa := by
  have hc : ¬(a.form ≠ .phys ∧ (!canonical va) = true) := by
    rintro ⟨hf, hv⟩
    rw [h.canon.resolve_left hf] at hv
    exact absurd hv (by decide)
  unfold addressPhase
  rw [if_neg hc, if_neg (by rw [h.aligned]; exact fun h => h rfl), h.maps]
  simp [h.legal]

/-- The platform lets the access through. -/
theorem platformPhase_of_partOk {s : State} {a : Acc} {va : W64} {pa : PAddr} (h : partOk s a va pa) :
    platformPhase s a pa = .ok () := by
  simp [platformPhase, h.platform]

/-- Nothing behind the matches stops the access. -/
theorem physicalPhase_of_partOk {s : State} {a : Acc} {va : W64} {pa : PAddr} (h : partOk s a va pa) :
    physicalPhase s a va pa = .ok s := by
  simp [physicalPhase, arrayPhase_of_quiet a va pa h.noError h.notForced, platformPhase_of_partOk h,
    responsePhase_of_quiet a pa h.noError]

/-- An access that every check lets through reaches its physical address and changes nothing. -/
theorem dataPhase_of_accessOk {s : State} {a : Acc} {va : W64} {pa : PAddr} (h : accessOk s a va pa) :
    dataPhase s a va = .ok (pa, s) := by
  simp [dataPhase, addressPhase_of_partOk h.topartOk, h.quiet, physicalPhase_of_partOk h.topartOk]

/-- What the checks of an access leave alone, whether they pass or take an exception. -/
structure Checked (s t : State) : Prop where
  x : t.x = s.x
  sr : t.sr = s.sr
  v : t.v = s.v
  fpcr : t.fpcr = s.fpcr
  itb : t.itb = s.itb
  itbPtr : t.itbPtr = s.itbPtr
  dtb : t.dtb = s.dtb
  icache : t.icache = s.icache
  memWf : Memory.wf s.mem = true → Memory.wf t.mem = true
  par : t.par = s.par
  control : sameControl s.csr t.csr
  priBase : t.csr.priBase = s.csr.priBase

/-- Agreement in what software configures is transitive. -/
theorem sameControl_trans {a b c : Csrs} (h1 : sameControl a b) (h2 : sameControl b c) : sameControl a c := by
  unfold sameControl at *
  rw [h2, h1]

/-- Agreement in what software configures is reflexive. -/
theorem sameControl_refl (a : Csrs) : sameControl a a := rfl

/-- Checks compose. -/
theorem Checked.trans {s t u : State} (h1 : Checked s t) (h2 : Checked t u) : Checked s u where
  x := h2.x.trans h1.x
  sr := h2.sr.trans h1.sr
  v := h2.v.trans h1.v
  fpcr := h2.fpcr.trans h1.fpcr
  itb := h2.itb.trans h1.itb
  itbPtr := h2.itbPtr.trans h1.itbPtr
  dtb := h2.dtb.trans h1.dtb
  icache := h2.icache.trans h1.icache
  memWf := fun hm => h2.memWf (h1.memWf hm)
  par := h2.par.trans h1.par
  control := sameControl_trans h1.control h2.control
  priBase := h2.priBase.trans h1.priBase

theorem Checked.refl (s : State) : Checked s s := ⟨rfl, rfl, rfl, rfl, rfl, rfl, rfl, rfl, id, rfl, rfl, rfl⟩

/-- A fault changes only what its entry writes. -/
theorem checked_raise (s : State) (off : BitVec 16) (r : BitVec 5) (b : W64) : Checked s (s.raise off r b) :=
  ⟨rfl, rfl, rfl, rfl, rfl, rfl, rfl, rfl, id, rfl, rfl, rfl⟩

/-- See `checked_raise`. -/
theorem checked_raiseData (s : State) (off : BitVec 16) (r : BitVec 5) (wr : Bool) (b f d : W64) :
    Checked s (s.raiseData off r wr b f d) := ⟨rfl, rfl, rfl, rfl, rfl, rfl, rfl, rfl, id, rfl, rfl, rfl⟩

/-- See `checked_raise`. -/
theorem checked_interrupt (s : State) (off : BitVec 16) : Checked s (s.interrupt off) :=
  ⟨rfl, rfl, rfl, rfl, rfl, rfl, rfl, rfl, id, rfl, rfl, rfl⟩

/-- Taking the armed error, and closing the write window, changes nothing else. -/
theorem checked_consume (s : State) (w : Option IoWindow) : Checked s { s with armedData := none, ioWin := w } :=
  ⟨rfl, rfl, rfl, rfl, rfl, rfl, rfl, rfl, id, rfl, rfl, rfl⟩

/-- Counting a corrected error changes only its counter, a request and the report. -/
theorem checked_countCorrected (s : State) : Checked s s.countCorrected := by
  have h : sameControl s.csr s.countCorrected.csr ∧ s.countCorrected.csr.priBase = s.csr.priBase := by
    unfold State.countCorrected
    dsimp only
    split <;> split <;> exact ⟨rfl, rfl⟩
  exact ⟨by simp, by simp, by simp, by simp, by simp, by simp, by simp, by simp, by simp, by simp, h.1, h.2⟩

/-- A recorded flag and a machine-check request. -/
theorem checked_flagDc_machineCheck (s : State) (n : Nat) : Checked s (s.flagDc n).machineCheck :=
  ⟨rfl, rfl, rfl, rfl, rfl, rfl, rfl, rfl, id, rfl, rfl, rfl⟩

/-- An illegal response to a request: at most a flag and a request. -/
theorem checked_requestError (s : State) : Checked s s.requestError := by
  have h : sameControl s.csr s.requestError.csr ∧ s.requestError.csr.priBase = s.csr.priBase := by
    unfold State.requestError State.sboxCheck
    split <;> exact ⟨rfl, rfl⟩
  exact ⟨by simp, by simp, by simp, by simp, by simp, by simp, by simp, by simp, by simp, by simp, h.1, h.2⟩

/-- An error response to a write: at most a flag, a request and the report. -/
theorem checked_writeAddrError (s : State) (k : WriteKind) : Checked s (s.writeAddrError k) := by
  have h : sameControl s.csr (s.writeAddrError k).csr ∧ (s.writeAddrError k).csr.priBase = s.csr.priBase := by
    unfold State.writeAddrError
    split <;> exact ⟨rfl, rfl⟩
  exact ⟨by simp, by simp, by simp, by simp, by simp, by simp, by simp, by simp, by simp, by simp, h.1, h.2⟩

/-- Where a data access that does not complete goes: the entry of its exception. -/
def Trapped (s t : State) : Prop := Checked s t ∧ ∃ off ∈ exceptionOffsets, t.pc = s.entry off

/-- The entry address depends on PRI_BASE alone. -/
theorem entry_congr {s t : State} (h : t.csr.priBase = s.csr.priBase) (off : BitVec 16) : t.entry off = s.entry off := by
  unfold State.entry
  rw [h]

theorem trapped_dfault (s : State) (a : Acc) (f d : W64) : Trapped s (s.dfault a f d) :=
  ⟨checked_raiseData .., 0xC80, by decide, rfl⟩

theorem trapped_unalign (s : State) (a : Acc) (d : W64) : Trapped s (s.unalign a d) :=
  ⟨checked_raiseData .., 0xB00, by decide, rfl⟩

theorem trapped_dtbMiss (s : State) (a : Acc) (d : W64) : Trapped s (s.dtbMiss a d) := by
  unfold State.dtbMiss
  split
  · exact ⟨checked_raise .., 0x800, by decide, rfl⟩
  · split
    · exact ⟨checked_raiseData .., 0x900, by decide, rfl⟩
    · exact ⟨checked_raiseData .., 0x880, by decide, rfl⟩

/-- An exception taken after harmless changes is an exception of the first state. -/
theorem Trapped.of_checked {s t u : State} (h1 : Checked s t) (h2 : Trapped t u) : Trapped s u := by
  obtain ⟨hc, off, hm, hp⟩ := h2
  exact ⟨h1.trans hc, off, hm, by rw [hp, entry_congr h1.priBase]⟩

/-- What the address checks can answer: an address, or an exception. -/
theorem addressPhase_error {s t : State} {a : Acc} {va : W64} (h : addressPhase s a va = .error t) : Trapped s t := by
  unfold addressPhase at h
  split at h
  · injection h with h; exact h ▸ trapped_dfault ..
  · split at h
    · injection h with h; exact h ▸ trapped_unalign ..
    · split at h
      · injection h with h; exact h ▸ trapped_dtbMiss ..
      · injection h with h; exact h ▸ trapped_dfault ..
      · split at h
        · injection h with h; exact h ▸ trapped_dfault ..
        · cases h

/-- What the debug matches can answer. -/
theorem matchPhase_error {s t : State} {a : Acc} {va : W64} {pa : PAddr} (h : matchPhase s a va pa = .error t) :
    Trapped s t := by
  unfold matchPhase at h
  dsimp only at h
  split at h
  · split at h
    · injection h with h; exact h ▸ trapped_dfault ..
    · cases h
  · split at h
    · injection h with h; exact h ▸ trapped_dfault ..
    · cases h

/-- Recording a corrected or an uncorrected error changes only flags, requests and reports. -/
theorem checked_rmw (s : State) : Checked s s.rmwSingle ∧ Checked s s.rmwMulti := by
  constructor
  · unfold State.rmwSingle
    split
    · exact checked_countCorrected s
    · exact Checked.refl s
  · unfold State.rmwMulti
    split
    · exact ⟨rfl, rfl, rfl, rfl, rfl, rfl, rfl, rfl, id, rfl, rfl, rfl⟩
    · exact Checked.refl s

/-- See `checked_rmw`. -/
theorem checked_sbox (s : State) (en b : Nat) : Checked s (s.sboxCheck en b) ∧ Checked s (s.sboxMulti en b) := by
  constructor
  · unfold State.sboxCheck
    split
    · exact ⟨rfl, rfl, rfl, rfl, rfl, rfl, rfl, rfl, id, rfl, rfl, rfl⟩
    · exact Checked.refl s
  · unfold State.sboxMulti
    split
    · exact ⟨rfl, rfl, rfl, rfl, rfl, rfl, rfl, rfl, id, rfl, rfl, rfl⟩
    · exact Checked.refl s

/-- Wrong data in a line changes only memory. -/
theorem checked_corruptLine (s : State) (n : Nat) : Checked s (s.corruptLine n) :=
  ⟨by simp, by simp, by simp, by simp, by simp, by simp, by simp, by simp, State.corruptLine_wf n, by simp,
    by rw [State.corruptLine_csr]; rfl, by simp⟩

/-- An access that goes on: its checks left the pc and the lock state alone. -/
def Passed (s t : State) : Prop := Checked s t ∧ t.pc = s.pc ∧ t.lock = s.lock

theorem Passed.refl (s : State) : Passed s s := ⟨Checked.refl s, rfl, rfl⟩

theorem Passed.trans {s t u : State} (h : Passed s t) (h' : Passed t u) : Passed s u :=
  ⟨h.1.trans h'.1, h'.2.1.trans h.2.1, h'.2.2.trans h.2.2⟩

/-- What the data cache can answer: an exception, or the access goes on. -/
theorem arrayPhase_cases (s : State) (a : Acc) (va : W64) (pa : PAddr) :
    (∃ t, arrayPhase s a va pa = .error t ∧ Trapped s t) ∨ ∃ t, arrayPhase s a va pa = .ok t ∧ Passed s t := by
  have hc : ∀ t, t = { s with armedData := none } ∨ t = s → Passed s t := by
    rintro t (rfl | rfl)
    · exact ⟨checked_consume s s.ioWin, rfl, rfl⟩
    · exact Passed.refl _
  unfold arrayPhase
  dsimp only
  generalize ht : (if s.armedData = some .dtagParity ∨ s.armedData = some .dataEcc then
    { s with armedData := none } else s) = t
  have h : Passed s t := hc t (by split at ht <;> simp [← ht])
  split
  · exact .inl ⟨_, rfl, Trapped.of_checked (h.1.trans (checked_countCorrected t)) (trapped_dfault ..)⟩
  · split
    · exact .inl ⟨_, rfl, Trapped.of_checked h.1 (trapped_dfault ..)⟩
    · split
      · have h1 : ∀ b : Bool, Passed t (if b then t.rmwSingle else t) := by
          intro b
          cases b
          · exact Passed.refl t
          · exact ⟨(checked_rmw t).1, by simp, by simp⟩
        have h2 : ∀ (b : Bool) (u : State), Passed u (if b then u.rmwMulti else u) := by
          intro b u
          cases b
          · exact Passed.refl u
          · exact ⟨(checked_rmw u).2, by simp, by simp⟩
        exact .inr ⟨_, rfl, (h.trans (h1 _)).trans (h2 _ _)⟩
      · exact .inr ⟨_, rfl, h⟩

/-- What the platform check can answer. -/
theorem platformPhase_error {s t : State} {a : Acc} {pa : PAddr} (h : platformPhase s a pa = .error t) :
    Trapped s t := by
  have hw : ∀ u : State, Checked u { u with ioWin := none } := fun _ =>
    ⟨rfl, rfl, rfl, rfl, rfl, rfl, rfl, rfl, id, rfl, rfl, rfl⟩
  have he : ∀ b : Bool, Checked s (if b then s.requestError else s) := by
    intro b
    cases b
    · exact Checked.refl s
    · exact checked_requestError s
  have key : ∀ (u : State) (b : Bool) (f d : W64), Checked s u →
      Trapped s ((if b then { u with ioWin := none } else u).dfault a f d) := by
    intro u b f d hu
    cases b
    · exact Trapped.of_checked hu (trapped_dfault ..)
    · exact Trapped.of_checked (hu.trans (hw u)) (trapped_dfault ..)
  unfold platformPhase at h
  dsimp only at h
  split at h
  · injection h with h
    exact h ▸ key _ (isIo pa) _ _ (he (a.isR && (isIo pa || a.isW)))
  · cases h

/-- What a control-error response can answer. -/
theorem controlResponse_cases (s : State) :
    (∃ t, controlResponse s = .error t ∧ Trapped s t) ∨ ∃ t, controlResponse s = .ok t ∧ Passed s t := by
  unfold controlResponse
  dsimp only
  split
  · split
    · exact .inl ⟨_, rfl, Trapped.of_checked (checked_flagDc_machineCheck _ 0) ⟨checked_interrupt .., 0xF80, by decide, rfl⟩⟩
    · exact .inr ⟨_, rfl, checked_flagDc_machineCheck _ 0, rfl, rfl⟩
  · exact .inr ⟨_, rfl, Passed.refl s⟩

/-- What a response with wrong data can answer. -/
theorem eccResponse_cases (s : State) (a : Acc) (pa : PAddr) :
    (∃ t, eccResponse s a pa = .error t ∧ Trapped s t) ∨ ∃ t, eccResponse s a pa = .ok t ∧ Passed s t := by
  unfold eccResponse
  split
  · exact .inl ⟨_, rfl, Trapped.of_checked (checked_sbox s 16 12).2 (trapped_dfault ..)⟩
  · exact .inr ⟨_, rfl, Passed.refl s⟩

/-- What the responses can answer: an exception, or the access goes on. -/
theorem responsePhase_cases (s : State) (a : Acc) (pa : PAddr) :
    (∃ t, responsePhase s a pa = .error t ∧ Trapped s t) ∨ ∃ t, responsePhase s a pa = .ok t ∧ Passed s t := by
  have hc : ∀ w, Passed s { s with armedData := none, ioWin := w } := fun w => ⟨checked_consume s w, rfl, rfl⟩
  have hs : ∀ (u : State) (en b : Nat), Passed u (u.sboxCheck en b) := fun u en b =>
    ⟨(checked_sbox u en b).1, by simp, by simp⟩
  have lift : ∀ (u : State) (r : Except State State), Passed s u →
      ((∃ t, r = .error t ∧ Trapped u t) ∨ ∃ t, r = .ok t ∧ Passed u t) →
      (∃ t, r = .error t ∧ Trapped s t) ∨ ∃ t, r = .ok t ∧ Passed s t := by
    rintro u r h (⟨t, hr, ht⟩ | ⟨t, hr, ht⟩)
    · exact .inl ⟨t, hr, Trapped.of_checked h.1 ht⟩
    · exact .inr ⟨t, hr, h.trans ht⟩
  unfold responsePhase
  dsimp only
  split
  · split
    · exact lift _ _ (hc _) (controlResponse_cases _)
    · refine .inr ⟨_, rfl, ?_⟩
      split
      · exact (hc _).trans (hs ..)
      · exact hc _
  · split
    · exact .inr ⟨_, rfl, (hc _).trans (hs ..)⟩
    · split
      · exact lift _ _ ((hc _).trans ⟨checked_corruptLine _ _, by simp, by simp⟩) (eccResponse_cases ..)
      · split
        · exact lift _ _ (hc _) (eccResponse_cases ..)
        · exact .inr ⟨_, rfl, Passed.refl s⟩
  · exact .inr ⟨_, rfl, Passed.refl s⟩

/-- The checks after the matches can answer: an exception, or the access goes on. -/
theorem physicalPhase_cases (s : State) (a : Acc) (va : W64) (pa : PAddr) :
    (∃ t, physicalPhase s a va pa = .error t ∧ Trapped s t) ∨ ∃ t, physicalPhase s a va pa = .ok t ∧ Passed s t := by
  unfold physicalPhase
  rcases arrayPhase_cases s a va pa with ⟨t, he, ht⟩ | ⟨t, he, ht⟩
  · exact .inl ⟨t, by rw [he], ht⟩
  · rw [he]
    dsimp only
    split
    · rename_i u h
      exact .inl ⟨u, rfl, Trapped.of_checked ht.1 (platformPhase_error h)⟩
    · rcases responsePhase_cases t a pa with ⟨u, hr, hu⟩ | ⟨u, hr, hu⟩
      · exact .inl ⟨u, hr, Trapped.of_checked ht.1 hu⟩
      · exact .inr ⟨u, hr, ht.trans hu⟩

/-- What the checks of an access can do: take an exception, or let it through with registers, buffers, pc and lock state
unchanged. -/
theorem dataPhase_cases (s : State) (a : Acc) (va : W64) :
    (∃ t, dataPhase s a va = .error t ∧ Trapped s t) ∨
    ∃ pa t, dataPhase s a va = .ok (pa, t) ∧ addressPhase s a va = .ok pa ∧ Passed s t := by
  unfold dataPhase
  split
  · rename_i t h
    exact .inl ⟨t, rfl, addressPhase_error h⟩
  · rename_i pa h
    split
    · rename_i t h
      exact .inl ⟨t, rfl, matchPhase_error h⟩
    · rcases physicalPhase_cases s a va pa with ⟨t, he, ht⟩ | ⟨u, he, hu⟩
      · exact .inl ⟨t, by rw [he], ht⟩
      · exact .inr ⟨pa, u, by rw [he], h, hu⟩

/-! ### Reading and writing -/

/-- A read or a write that goes on: checks, bytes, outputs; the lock state may end. -/
structure Accessed (s t : State) : Prop where
  checked : t.x = s.x ∧ t.sr = s.sr ∧ t.v = s.v ∧ t.fpcr = s.fpcr ∧ t.itb = s.itb ∧ t.itbPtr = s.itbPtr ∧ t.dtb = s.dtb ∧
    t.par = s.par ∧ sameControl s.csr t.csr ∧ t.csr.priBase = s.csr.priBase
  memWf : Memory.wf s.mem = true → Memory.wf t.mem = true
  pc : t.pc = s.pc

theorem Accessed.trans {s t u : State} (h : Accessed s t) (h' : Accessed t u) : Accessed s u := by
  obtain ⟨h1, h2, h3, h4, h5, h6, h7, h8, h9, h10⟩ := h.checked
  obtain ⟨g1, g2, g3, g4, g5, g6, g7, g8, g9, g10⟩ := h'.checked
  exact ⟨⟨g1.trans h1, g2.trans h2, g3.trans h3, g4.trans h4, g5.trans h5, g6.trans h6, g7.trans h7, g8.trans h8,
    sameControl_trans h9 g9, g10.trans h10⟩, fun hm => h'.memWf (h.memWf hm), h'.pc.trans h.pc⟩

theorem Passed.accessed {s t : State} (h : Passed s t) : Accessed s t :=
  ⟨⟨h.1.x, h.1.sr, h.1.v, h.1.fpcr, h.1.itb, h.1.itbPtr, h.1.dtb, h.1.par, h.1.control, h.1.priBase⟩, h.1.memWf, h.2.1⟩

theorem Touched.accessed {s t : State} (h : Touched s t) : Accessed s t :=
  ⟨by rw [h.same]; exact ⟨rfl, rfl, rfl, rfl, rfl, rfl, rfl, rfl, rfl, rfl⟩, h.memWf, by rw [h.same]⟩

theorem accessed_unlock (s : State) : Accessed s s.unlock :=
  ⟨⟨rfl, rfl, rfl, rfl, rfl, rfl, rfl, rfl, rfl, rfl⟩, id, rfl⟩

/-- What a read can change. -/
theorem performRead_accessed (s : State) (a : Acc) (pa : PAddr) : Accessed s (performRead s a pa).2 := by
  have hr : Accessed s (if isIo pa = true then s.ioRead (ioAddr (a.base pa)) a.size
      else s.load (a.uncached pa) (memAddr (a.base pa)) a.size).2 := by
    split
    · exact ⟨⟨rfl, rfl, rfl, rfl, rfl, rfl, rfl, rfl, rfl, rfl⟩, id, rfl⟩
    · exact (touched_load ..).accessed
  unfold performRead
  dsimp only
  split
  · exact hr.trans ⟨⟨rfl, rfl, rfl, rfl, rfl, rfl, rfl, rfl, rfl, rfl⟩, id, rfl⟩
  · exact hr

/-- What a load can do. -/
theorem doLoad_cases (s : State) (a : Acc) (va : W64) :
    (∃ t, doLoad s a va = .error t ∧ Trapped s t) ∨ ∃ n t, doLoad s a va = .ok (n, t) ∧ Accessed s t := by
  unfold doLoad
  rcases dataPhase_cases s a va with ⟨t, h, ht⟩ | ⟨pa, t, h, -, ht⟩
  · exact .inl ⟨t, by rw [h], ht⟩
  · rw [h]
    exact .inr ⟨_, _, rfl, (ht.accessed.trans (accessed_unlock t)).trans (performRead_accessed ..)⟩

/-- What a write can change. -/
theorem performWrite_accessed (s : State) (a : Acc) (pa : PAddr) (v : Nat) : Accessed s (performWrite s a pa v) := by
  have hw : ∀ (u : State) (k : WriteKind), Accessed u (u.writeAddrError k) := fun u k =>
    Passed.accessed ⟨checked_writeAddrError u k, by simp, by simp⟩
  unfold performWrite
  dsimp only
  split
  · split
    · exact ⟨⟨rfl, rfl, rfl, rfl, rfl, rfl, rfl, rfl, rfl, rfl⟩, id, rfl⟩
    · exact Accessed.trans (t := { s with ioWin := none }) ⟨⟨rfl, rfl, rfl, rfl, rfl, rfl, rfl, rfl, rfl, rfl⟩, id, rfl⟩
        (hw _ .io)
  · split
    · exact (touched_save ..).accessed
    · exact hw s .nc

/-- A state whose checks let the access through performs it with no other error, no unordered byte and no other agent. -/
theorem performRead_of_partOk {s : State} {a : Acc} {va : W64} {pa : PAddr} (h : partOk s a va pa)
    (hr : a.isR = true) (hio : isIo pa = false) :
    performRead s.unlock a pa = (readMem s.mem (memAddr (a.base pa)) a.size, s.unlock) := by
  have hl : s.unlock.load (a.uncached pa) (memAddr (a.base pa)) a.size =
      (readMem s.mem (memAddr (a.base pa)) a.size, s.unlock) :=
    State.load_of_ordered (s := s.unlock) h.alone (h.ordered hr hio)
  simp [performRead, hio, hl, h.noError]

/-- A load that every check lets through, from memory: the bytes at the address, and nothing changes but the lock. -/
theorem doLoad_of_accessOk {s : State} {a : Acc} {va : W64} {pa : PAddr} (h : accessOk s a va pa)
    (hr : a.isR = true) (hio : isIo pa = false) :
    doLoad s a va = .ok (readMem s.mem (memAddr (a.base pa)) a.size, s.unlock) := by
  simp [doLoad, dataPhase_of_accessOk h, performRead_of_partOk h.topartOk hr hio]

/-- A store that every check lets through, to memory: `State.write` at the address. -/
theorem doStore_of_accessOk {s : State} {a : Acc} {va : W64} {pa : PAddr} {v : Nat}
    (h : accessOk s { a with data := some v } va pa) (hw : a.isR = false ∧ a.isW = true) (hio : isIo pa = false) :
    doStore s a va v = .ok (s.unlock.write (a.cached pa) (memAddr (a.base pa)) a.size v) := by
  have hp : platformOk s.unlock (a.base pa) true a.size = true := by
    have := h.platform
    simp only [hw.1, hw.2] at this
    exact this
  have hs := State.save_of_alone (s := s.unlock) (c := a.cached pa) (a := memAddr (a.base pa)) (v := v) h.alone
  simp [doStore, dataPhase_of_accessOk h, performWrite, hio, hp, hs]

/-- An atomic that every check lets through. -/
theorem doAtomic_of_accessOk {s : State} {a : Acc} {va : W64} {pa : PAddr} {op : Nat → Nat} (h : accessOk s a va pa)
    (hr : a.isR = true) (hio : isIo pa = false) :
    doAtomic s a va op = .ok (readMem s.mem (memAddr (a.base pa)) a.size,
      s.unlock.write (a.cached pa) (memAddr (a.base pa)) a.size
        (op (readMem s.mem (memAddr (a.base pa)) a.size) % 2 ^ (8 * a.size))) := by
  have hs := fun v =>
    State.save_of_alone (s := s.unlock) (c := a.cached pa) (a := memAddr (a.base pa)) (v := v) h.alone
  simp [doAtomic, dataPhase_of_accessOk h, performRead_of_partOk h.topartOk hr hio, hs]

/-- An access with no displacement begins at its address. -/
@[simp] theorem Acc.base_of_back {a : Acc} (h : a.back = 0) (pa : PAddr) : a.base pa = pa := by simp [Acc.base, h]

end Sys2Proof.Machine
end

