-- ==== Sys2Proof/Laws/Kept.lean ====
section
/-! SUPPORT. What an ordinary instruction can do to the state that no ordinary instruction owns: the translation buffers,
the CSRs that software configures, the system registers, the mode, the canonical form of memory. `Kept` follows the state
inside a meaning, before the pc moves; `Ordinary` says where the meaning ends. -/

namespace Sys2Proof.Machine

/-- A state inside a meaning: nothing but registers, memory bytes, outputs and recorded events has changed. -/
structure Kept (s t : State) : Prop where
  itb : t.itb = s.itb
  itbPtr : t.itbPtr = s.itbPtr
  dtb : t.dtb = s.dtb
  control : sameControl s.csr t.csr
  priBase : t.csr.priBase = s.csr.priBase
  memWf : Memory.wf s.mem = true → Memory.wf t.mem = true
  sr : s.mode ≠ 0#2 → t.sr = s.sr
  pc : t.pc = s.pc

/-- The end of a meaning: the mode is kept, or an exception was entered. -/
structure Ordinary (s t : State) : Prop where
  itb : t.itb = s.itb
  itbPtr : t.itbPtr = s.itbPtr
  dtb : t.dtb = s.dtb
  control : sameControl s.csr t.csr
  memWf : Memory.wf s.mem = true → Memory.wf t.mem = true
  sr : s.mode ≠ 0#2 → t.sr = s.sr
  goes : t.mode = s.mode ∨ ∃ off ∈ exceptionOffsets, t.pc = s.entry off

theorem Kept.refl (s : State) : Kept s s := ⟨rfl, rfl, rfl, rfl, rfl, id, fun _ => rfl, rfl⟩

/-- Checks that leave the pc alone keep the state. -/
theorem Checked.kept {s t : State} (h : Checked s t) (hp : t.pc = s.pc) : Kept s t :=
  ⟨h.itb, h.itbPtr, h.dtb, h.control, h.priBase, h.memWf, fun _ => h.sr, hp⟩

/-- An exception of a data access ends the meaning. -/
theorem Trapped.ordinary {s t : State} (h : Trapped s t) : Ordinary s t :=
  ⟨h.1.itb, h.1.itbPtr, h.1.dtb, h.1.control, h.1.memWf, fun _ => h.1.sr, .inr h.2⟩

/-- The mode depends on the pc alone. -/
theorem mode_congr {s t : State} (h : t.pc = s.pc) : t.mode = s.mode := by unfold State.mode; rw [h]

/-- An integer register write keeps the state: outside HM it reaches no system register (R33). -/
theorem Kept.setX {s t : State} (h : Kept s t) (i : BitVec 5) (w : W64) : Kept s (t.setX i w) where
  itb := by simp [h.itb]
  itbPtr := by simp [h.itbPtr]
  dtb := by simp [h.dtb]
  control := by simpa using h.control
  priBase := by simp [h.priBase]
  memWf := fun hm => by simpa using h.memWf hm
  sr := fun hm => by
    have hs : t.shadow i = none := by
      unfold State.shadow State.inHm
      simp [mode_congr h.pc, hm]
    unfold State.setX
    rw [hs]
    exact h.sr hm
  pc := by simp [h.pc]

/-- A vector or floating register write keeps the state. -/
theorem Kept.setV {s t : State} (h : Kept s t) (i : BitVec 5) (w : V256) (n : BitVec 4) : Kept s (t.setV i w n) :=
  ⟨h.itb, h.itbPtr, h.dtb, h.control, h.priBase, h.memWf, h.sr, h.pc⟩

/-- See `Kept.setV`. -/
theorem Kept.setF {s t : State} (h : Kept s t) (i : BitVec 5) (w : W64) (b : Bool) : Kept s (t.setF i w b) := h.setV i _ _

/-- Counting keeps the state. -/
theorem count_control (s : State) (e : EventClass) :
    sameControl s.csr (s.count e).csr ∧ (s.count e).csr.priBase = s.csr.priBase := by
  unfold State.count State.addPc0
  split <;> exact ⟨rfl, rfl⟩

/-- See `count_control`. -/
theorem Kept.count {s t : State} (h : Kept s t) (e : EventClass) : Kept s (t.count e) where
  itb := by simp [h.itb]
  itbPtr := by simp [h.itbPtr]
  dtb := by simp [h.dtb]
  control := sameControl_trans h.control (count_control t e).1
  priBase := (count_control t e).2.trans h.priBase
  memWf := fun hm => by simpa using h.memWf hm
  sr := fun hm => by simpa using h.sr hm
  pc := by simp [h.pc]

/-- A read or a write keeps the state. -/
theorem Kept.accessed {s t u : State} (h : Kept s t) (hu : Accessed t u) : Kept s u := by
  obtain ⟨-, h2, -, -, h5, h6, h7, -, h9, h10⟩ := hu.checked
  exact ⟨h5.trans h.itb, h6.trans h.itbPtr, h7.trans h.dtb, sameControl_trans h.control h9, h10.trans h.priBase,
    fun hm => hu.memWf (h.memWf hm), fun hm => h2.trans (h.sr hm), hu.pc.trans h.pc⟩

/-- The instruction retires and the next in sequence follows. -/
theorem Kept.nextPc {s t : State} (h : Kept s t) : Ordinary s t.nextPc :=
  ⟨h.itb, h.itbPtr, h.dtb, h.control, h.memWf, h.sr, .inl (t.nextPc_mode.trans (mode_congr h.pc))⟩

/-- See `Kept.nextPc`. -/
theorem Kept.retire {s t : State} (h : Kept s t) (e : EventClass) : Ordinary s (t.retire e) := (h.count e).nextPc

/-- An exception taken from a kept state. -/
theorem Kept.raise {s t : State} (h : Kept s t) (off : BitVec 16) (r : BitVec 5) (b : W64) (ho : off ∈ exceptionOffsets) :
    Ordinary s (t.raise off r b) :=
  ⟨h.itb, h.itbPtr, h.dtb, sameControl_trans h.control rfl, h.memWf, h.sr, .inr ⟨off, ho, entry_congr h.priBase off⟩⟩

/-- An arithmetic trap taken from a kept state. -/
theorem Kept.raiseArith {s t : State} (h : Kept s t) (r : BitVec 5) (b : W64) : Ordinary s (t.raiseArith r b) :=
  h.raise 0xB80 r _ (by decide)

/-- What the decode stage can do, when the body ends as an ordinary instruction does. -/
theorem decodeStage_ordinary {s t : State} {legal lk : Bool} {f : FpClass}
    {body : State → Host.Outcome State Fault Refusal} (h : decodeStage s legal lk f body = .next t)
    (hb : legal = true → body s = .next t → Ordinary s t) : Ordinary s t := by
  rcases decodeStage_cases h with ⟨b, rfl⟩ | rfl | rfl | ⟨hl, h⟩
  · exact ⟨rfl, rfl, rfl, rfl, id, fun _ => rfl, .inr ⟨0xD80, by decide, rfl⟩⟩
  · exact ⟨rfl, rfl, rfl, rfl, id, fun _ => rfl, .inr ⟨0xD00, by decide, rfl⟩⟩
  · exact ⟨rfl, rfl, rfl, rfl, id, fun _ => rfl, .inr ⟨0xA80, by decide, rfl⟩⟩
  · exact hb hl h

/-- An exception of a data access taken from a kept state. -/
theorem Kept.trapped {s t u : State} (h : Kept s t) (hu : Trapped t u) : Ordinary s u := by
  obtain ⟨hc, off, hm, hp⟩ := hu
  exact ⟨hc.itb.trans h.itb, hc.itbPtr.trans h.itbPtr, hc.dtb.trans h.dtb, sameControl_trans h.control hc.control,
    fun hw => hc.memWf (h.memWf hw), fun hs => hc.sr.trans (h.sr hs),
    .inr ⟨off, hm, hp.trans (entry_congr h.priBase off)⟩⟩

/-- What a load can do: an exception, or a kept state with the value. -/
theorem Kept.doLoad {s t : State} (h : Kept s t) (a : Acc) (va : W64) :
    (∃ u, doLoad t a va = .error u ∧ Ordinary s u) ∨ ∃ n u, doLoad t a va = .ok (n, u) ∧ Kept s u := by
  rcases doLoad_cases t a va with ⟨u, hu, ht⟩ | ⟨n, u, hu, hc⟩
  · exact .inl ⟨u, hu, h.trapped ht⟩
  · exact .inr ⟨n, u, hu, h.accessed hc⟩

/-- What a store can do. -/
theorem doStore_kept (s : State) (a : Acc) (va : W64) (v : Nat) :
    (∃ u, doStore s a va v = .error u ∧ Ordinary s u) ∨ ∃ u, doStore s a va v = .ok u ∧ Kept s u := by
  unfold doStore
  rcases dataPhase_cases s { a with data := some v } va with ⟨t, h, ht⟩ | ⟨pa, t, h, -, ht⟩
  · exact .inl ⟨t, by rw [h], ht.ordinary⟩
  · exact .inr ⟨_, by rw [h], (Kept.refl s).accessed
      ((ht.accessed.trans (accessed_unlock t)).trans (performWrite_accessed ..))⟩

/-- What an atomic can do. -/
theorem doAtomic_kept (s : State) (a : Acc) (va : W64) (op : Nat → Nat) :
    (∃ u, doAtomic s a va op = .error u ∧ Ordinary s u) ∨ ∃ n u, doAtomic s a va op = .ok (n, u) ∧ Kept s u := by
  unfold doAtomic
  rcases dataPhase_cases s a va with ⟨t, h, ht⟩ | ⟨pa, t, h, -, ht⟩
  · exact .inl ⟨t, by rw [h], ht.ordinary⟩
  · exact .inr ⟨_, _, by rw [h], (Kept.refl s).accessed (((ht.accessed.trans (accessed_unlock t)).trans
      (performRead_accessed ..)).trans (touched_save ..).accessed)⟩

/-- What an integer load can do. -/
theorem loadX_ordinary {s t : State} {a : Acc} {va : W64} (h : loadX s a va = .next t) : Ordinary s t := by
  unfold loadX at h
  rcases (Kept.refl s).doLoad a va with ⟨u, hu, ho⟩ | ⟨n, u, hu, hk⟩
  all_goals
    rw [hu] at h
    injection h with h
    subst h
  · exact ho
  · exact (hk.setX ..).retire _

/-- See `loadX_ordinary`. -/
theorem loadXOr31_ordinary {s t : State} {a : Acc} {va : W64} (h : loadXOr31 s a va = .next t) : Ordinary s t := by
  unfold loadXOr31 at h
  split at h
  · injection h with h
    exact h ▸ (Kept.refl s).retire _
  · exact loadX_ordinary h

/-- What a floating load can do. -/
theorem loadF_ordinary {s t : State} {a : Acc} {va : W64} {cvt : Nat → W64} (h : loadF s a va cvt = .next t) :
    Ordinary s t := by
  unfold loadF at h
  split at h
  · injection h with h
    exact h ▸ (Kept.refl s).retire _
  · rcases (Kept.refl s).doLoad a va with ⟨u, hu, ho⟩ | ⟨n, u, hu, hk⟩
    all_goals
      rw [hu] at h
      injection h with h
      subst h
    · exact ho
    · exact (hk.setF ..).retire _

/-- What a store instruction can do. -/
theorem storeV_ordinary {s t : State} {a : Acc} {va : W64} {v : Nat} (h : storeV s a va v = .next t) :
    Ordinary s t := by
  unfold storeV at h
  rcases doStore_kept s a va v with ⟨u, hu, ho⟩ | ⟨u, hu, hk⟩
  all_goals
    rw [hu] at h
    injection h with h
    subst h
  · exact ho
  · exact hk.retire _

/-- What an atomic instruction can do. -/
theorem atomicX_ordinary {s t : State} {a : Acc} {va : W64} {o : AtomicOp} {b : Bool}
    (h : atomicX s a va o b = .next t) : Ordinary s t := by
  unfold atomicX at h
  rcases doAtomic_kept s a va (o.apply a.size) with ⟨u, hu, ho⟩ | ⟨n, u, hu, hk⟩
  all_goals
    rw [hu] at h
    injection h with h
    subst h
  · exact ho
  · have hk' := (hk.setX a.ra (loadValue a.size n)).count .read
    dsimp only
    split
    · exact hk'.raiseArith ..
    · exact hk'.nextPc

end Sys2Proof.Machine
end

