-- ==== Sys2Proof/Laws/Base.lean ====
section
/-! SUPPORT. What the shared operations of BaseISA's instructions can do, those of unaligned accesses among them: an exception
that ends the meaning, or a state `Kept`. -/

namespace Sys2Proof.Machine

/-! ### Accesses that may be cut in two -/

/-- What the checks of a second part can do. -/
theorem highPhase_cases (s : State) (a : Acc) (ea va : W64) :
    (∃ t, highPhase s a ea va = .error t ∧ Trapped s t) ∨ ∃ pa t, highPhase s a ea va = .ok (pa, t) ∧ Passed s t := by
  unfold highPhase
  split
  · rename_i t h
    obtain ⟨hc, hp⟩ := addressPhase_error h
    exact .inl ⟨_, rfl, ⟨hc.x, hc.sr, hc.v, hc.fpcr, hc.itb, hc.itbPtr, hc.dtb, hc.icache, hc.memWf, hc.par,
      sameControl_trans hc.control rfl, hc.priBase⟩, hp⟩
  · rename_i pa h
    rcases physicalPhase_cases s a va pa with ⟨t, he, ht⟩ | ⟨t, he, ht⟩
    · exact .inl ⟨t, by rw [he], ht⟩
    · exact .inr ⟨pa, t, by rw [he], ht⟩

/-- A load or a check that does not complete has taken an exception; one that does leaves a kept state. -/
def KeptOr {α : Type} (s : State) (r : Except State (α × State)) : Prop :=
  (∃ t, r = .error t ∧ Ordinary s t) ∨ ∃ x t, r = .ok (x, t) ∧ Kept s t

/-- A read that waits for its instruction to complete keeps the state. -/
theorem Kept.pendRead {s t : State} (h : Kept s t) (a : Acc) (pa : PAddr) (n : Nat) :
    Kept s (Sys2Proof.Machine.pendRead t a pa n).2 := by
  unfold Sys2Proof.Machine.pendRead
  split
  · dsimp only
    split
    · exact ⟨h.itb, h.itbPtr, h.dtb, h.control, h.priBase, h.memWf, h.sr, h.pc⟩
    · exact h
  · exact h.accessed (performRead_accessed ..)

/-- So do the I/O reads at its end. -/
theorem Kept.ioReads {s t : State} (h : Kept s t) (l : List Output) : Kept s (t.ioReads l) := by
  have key : ∀ (l : List Output) (u : State), Kept s u → Kept s (u.ioReads l) := by
    intro l
    induction l with
    | nil => exact fun u hu => hu
    | cons o r ih => exact fun u hu => ih _ ⟨hu.itb, hu.itbPtr, hu.dtb, hu.control, hu.priBase, hu.memWf, hu.sr, hu.pc⟩
  exact key l t h

/-- What an unaligned load can do before its I/O reads. -/
theorem splitRead_kept {s t : State} (h : Kept s t) (a : Acc) (va : W64) (edge n : Nat) :
    KeptOr s (splitRead t a va edge n) := by
  unfold splitRead
  dsimp only
  rcases dataPhase_cases t { a with size := lowPart va a.size edge } va with ⟨u, hu, ht⟩ | ⟨pa, u, hu, -, hp⟩
  · exact .inl ⟨u, by rw [hu], h.trapped ht⟩
  · rw [hu]
    dsimp only
    have hk := ((h.accessed hp.accessed).accessed (accessed_unlock u)).pendRead
      { a with size := lowPart va a.size edge } pa n
    split
    · exact .inr ⟨_, _, rfl, hk⟩
    · rcases highPhase_cases (Sys2Proof.Machine.pendRead u.unlock { a with size := lowPart va a.size edge } pa n).2
          { a with size := a.size - lowPart va a.size edge, align := 1 } va
          (va + BitVec.ofNat 64 (lowPart va a.size edge)) with ⟨w, hw, ht⟩ | ⟨pb, w, hw, ht⟩
      · exact .inl ⟨w, by rw [hw], hk.trapped ht⟩
      · rw [hw]
        exact .inr ⟨_, _, rfl, (hk.accessed ht.accessed).pendRead ..⟩

/-- What an unaligned load can do. -/
theorem splitLoad_kept {s t : State} (h : Kept s t) (a : Acc) (va : W64) (edge : Nat) :
    KeptOr s (splitLoad t a va edge) := by
  unfold splitLoad
  rcases splitRead_kept h a va edge 0 with ⟨u, hu, ho⟩ | ⟨r, u, hu, hk⟩
  · exact .inl ⟨u, by rw [hu]; rfl, ho⟩
  · exact .inr ⟨_, _, by rw [hu]; rfl, hk.ioReads r.2⟩

/-- What the checks of a store that may be cut can do: nothing is written yet. -/
theorem checkCut_cases (s : State) (a : Acc) (va : W64) (v edge : Nat) :
    (∃ t, checkCut s a va v edge = .error t ∧ Trapped s t) ∨ ∃ l t, checkCut s a va v edge = .ok (l, t) ∧ Passed s t := by
  unfold checkCut
  dsimp only
  split
  · rename_i t h
    exact .inl ⟨t, rfl, addressPhase_error h⟩
  · rename_i pa h
    split
    · rename_i t h
      exact .inl ⟨t, rfl, matchPhase_error h⟩
    · rcases physicalPhase_cases s { { a with data := some v } with size := lowPart va a.size edge } va pa with
        ⟨t, he, ht⟩ | ⟨t, he, ht⟩
      · exact .inl ⟨t, by rw [he], ht⟩
      · rw [he]
        dsimp only
        split
        · exact .inr ⟨_, t, rfl, ht⟩
        · rcases highPhase_cases t { a with size := a.size - lowPart va a.size edge, align := 1 } va
            (va + BitVec.ofNat 64 (lowPart va a.size edge)) with ⟨u, hu, htu⟩ | ⟨pb, u, hu, htu⟩
          · exact .inl ⟨u, by rw [hu], Trapped.of_checked ht.1 htu⟩
          · exact .inr ⟨_, u, by rw [hu], ht.trans htu⟩

/-- What the checks of a UH store can do. -/
theorem checkHigh_cases (s : State) (a : Acc) (va : W64) (v edge : Nat) :
    (∃ t, checkHigh s a va v edge = .error t ∧ Trapped s t) ∨ ∃ l t, checkHigh s a va v edge = .ok (l, t) ∧ Passed s t := by
  unfold checkHigh
  dsimp only
  split
  · split
    · rename_i t h
      rcases dataPhase_cases s _ va with ⟨t', h', ht⟩ | ⟨pa, t', h', -, ht⟩
      · rw [h'] at h
        injection h with h
        exact .inl ⟨t, rfl, h ▸ ht⟩
      · rw [h'] at h
        cases h
    · rename_i pa t h
      rcases dataPhase_cases s _ va with ⟨t', h', ht⟩ | ⟨pa', t', h', -, ht⟩
      · rw [h'] at h
        cases h
      · rw [h'] at h
        injection h with h
        injection h with h1 h2
        exact .inr ⟨_, t, rfl, h2 ▸ ht⟩
  · split
    · rename_i t h
      exact .inl ⟨t, rfl, addressPhase_error h⟩
    · split
      · rename_i t h
        exact .inl ⟨t, rfl, matchPhase_error h⟩
      · exact .inr ⟨[], s, rfl, Passed.refl s⟩

/-- What the checks of a store of BaseISA can do. -/
theorem checkStore_cases (s : State) (unit : BaseFile) (m : BaseMem) (va : W64) (v : Nat) :
    (∃ t, checkStore s unit m va v = .error t ∧ Trapped s t) ∨ ∃ l t, checkStore s unit m va v = .ok (l, t) ∧ Passed s t := by
  unfold checkStore
  dsimp only
  split
  · exact checkCut_cases ..
  · exact checkCut_cases ..
  · exact checkCut_cases ..
  · exact checkHigh_cases ..

/-- What the checks of the stores of one instruction can do. -/
theorem checkStores_cases (unit : BaseFile) (l : List (BaseMem × W64 × Nat)) (s : State) :
    (∃ t, checkStores s unit l = .error t ∧ Trapped s t) ∨ ∃ w t, checkStores s unit l = .ok (w, t) ∧ Passed s t := by
  induction l generalizing s with
  | nil => exact .inr ⟨[], s, rfl, Passed.refl s⟩
  | cons e r ih =>
    unfold checkStores
    rcases checkStore_cases s unit e.1 (maskedAddr e.1 e.2.1) e.2.2 with ⟨t, he, ht⟩ | ⟨w, t, he, ht⟩
    · exact .inl ⟨t, by rw [he], ht⟩
    · rw [he]
      dsimp only
      rcases ih t with ⟨u, hu, htu⟩ | ⟨w', u, hu, htu⟩
      · exact .inl ⟨u, by rw [hu], Trapped.of_checked ht.1 htu⟩
      · exact .inr ⟨_, u, by rw [hu], ht.trans htu⟩

/-- Writing the checked parts keeps the state. -/
theorem Kept.performAll {s t : State} (h : Kept s t) (l : List StorePart) : Kept s (t.performAll l) := by
  have key : ∀ (l : List StorePart) (u : State), Kept s u → Kept s (l.foldl (fun t e => performWrite t e.1 e.2.1 e.2.2) u) := by
    intro l
    induction l with
    | nil => exact fun u hu => hu
    | cons e r ih => exact fun u hu => ih _ (hu.accessed (performWrite_accessed ..))
  exact key l _ (h.accessed (accessed_unlock t))

/-! ### Registers and the end of an instruction -/

/-- A register write keeps the state. -/
theorem Kept.writeReg {s t : State} (h : Kept s t) (f : BaseFile) (i : BitVec 5) (w : V256) (n : BitVec 4) :
    Kept s (t.writeReg f i w n) := by
  cases f
  · exact h.setX ..
  · exact h.setF ..
  · exact h.setV ..

/-- Writing FPCR keeps the state. -/
theorem Kept.setFpcr {s t : State} (h : Kept s t) (w : W64) : Kept s { t with fpcr := w } :=
  ⟨h.itb, h.itbPtr, h.dtb, h.control, h.priBase, h.memWf, h.sr, h.pc⟩

/-- Ending a lock sequence keeps the state. -/
theorem Kept.unlock {s t : State} (h : Kept s t) : Kept s t.unlock := h.accessed (accessed_unlock t)

/-- Where `branchTo` lets an instruction go on: in its mode; else it raised IACV. -/
theorem branchTo_cases (s : State) (unit : BaseFile) (f : BaseFlow) (b : Bool) (a : W64) :
    (∃ t, branchTo s unit f b a = .error t ∧ Trapped s t) ∨
    ∃ o, branchTo s unit f b a = .ok o ∧ ∀ p ∈ o, p.extractLsb' 0 2 = s.mode := by
  have hm : (s.jumpTarget a).extractLsb' 0 2 = s.mode := by
    unfold State.jumpTarget
    apply BitVec.eq_of_getLsbD_eq
    intro i hi
    rw [BitVec.getLsbD_extractLsb', BitVec.getLsbD_append]
    simp [hi]
  have ht : ∀ n, Trapped s (s.raiseTarget (fldA s.word) n a) := fun _ =>
    ⟨⟨rfl, rfl, rfl, rfl, rfl, rfl, rfl, rfl, id, rfl, rfl, rfl⟩, 0xD00, by decide, rfl⟩
  unfold branchTo
  dsimp only
  split
  · exact .inr ⟨none, rfl, by simp⟩
  · split
    · split
      · exact .inl ⟨_, rfl, ht 34⟩
      · exact .inr ⟨_, rfl, by simpa using hm⟩
    · exact .inr ⟨none, rfl, by simp⟩
  · split
    · split
      · exact .inl ⟨_, rfl, ht 34⟩
      · exact .inr ⟨_, rfl, by simpa using hm⟩
    · exact .inl ⟨_, rfl, ht 13⟩

/-- A transfer in the mode of the instruction. -/
theorem Kept.transfer {s t : State} (h : Kept s t) (e : EventClass) (ra : BitVec 5) (link : Bool) (p : W64)
    (hp : p.extractLsb' 0 2 = s.mode) : Ordinary s (t.transfer e ra link p) := by
  have h1 : Kept s (if link then (t.unlock.count e).setX ra (t.pc + 4) else t.unlock.count e) := by
    cases link
    · exact h.unlock.count e
    · exact (h.unlock.count e).setX ..
  exact ⟨h1.itb, h1.itbPtr, h1.dtb, h1.control, h1.memWf, h1.sr, .inl hp⟩

/-- The end of an instruction whose results are written. -/
theorem Kept.finish {s t : State} (h : Kept s t) (e : EventClass) (f : BaseFlow) (link : Bool) (target : Option W64)
    (rd : BitVec 5) (bits : W64) (ht : ∀ p ∈ target, p.extractLsb' 0 2 = s.mode) :
    Ordinary s (t.finish e f link target rd bits) := by
  have hu : Kept s (if f = .next then t else t.unlock) := by
    split
    · exact h
    · exact h.unlock
  unfold State.finish
  split
  · exact (hu.count e).raiseArith ..
  · split
    · exact h.transfer _ _ _ _ (ht _ rfl)
    · exact (hu.count e).nextPc

/-! ### An instruction by its acts -/

/-- What the reads of an instruction by its acts can do. -/
theorem actReads_kept (unit : BaseFile) (n : Nat) {s : State} (q : ActsRead) (t : State) (h : Kept s t) :
    KeptOr s (actReads unit n q t) := by
  induction n generalizing q t with
  | zero => exact .inr ⟨q, t, rfl, h⟩
  | succ n ih =>
    unfold actReads
    split
    · exact .inr ⟨q, t, rfl, h⟩
    · exact ih _ _ h
    · rename_i m va _
      rcases splitRead_kept h { baseAcc t unit m with isR := true } (maskedAddr m va) (cutAt m) q.io.length with
        ⟨u, hu, ho⟩ | ⟨v, u, hu, hk⟩
      · exact .inl ⟨u, by rw [hu], ho⟩
      · rw [hu]
        exact ih _ _ hk

/-- What an instruction by its acts can do, whatever its acts are. -/
theorem baseActs_ordinary {s t : State} {unit : BaseFile} {n : Nat} (h : baseActs s unit n = .next t) : Ordinary s t := by
  unfold baseActs at h
  refine decodeStage_ordinary h (fun _ h => ?_)
  dsimp only at h
  rcases actReads_kept unit n {} s (Kept.refl s) with ⟨u, hu, ho⟩ | ⟨q, u, hu, hk⟩
  · rw [hu] at h
    injection h with h
    exact h ▸ ho
  rw [hu] at h
  dsimp only at h
  generalize Option.getD (Config.baseEnds (if q.wrong then s.freeCtr + 1 else 0) s.word s.pc (s.fpcr &&& fpcrControl)
    q.values) {} = e at h
  rcases branchTo_cases u unit e.flow e.taken e.target with ⟨w, hw, ht⟩ | ⟨o, hw, ho⟩
  · rw [hw] at h
    injection h with h
    exact h ▸ hk.trapped ht
  rw [hw] at h
  dsimp only at h
  rcases checkStores_cases unit e.stores u with ⟨w, hc, ht⟩ | ⟨l, w, hc, hp⟩
  · rw [hc] at h
    injection h with h
    exact h ▸ hk.trapped ht
  rw [hc] at h
  dsimp only at h
  have hw : Kept s (if e.stores.isEmpty then w.ioReads q.io else (w.ioReads q.io).performAll l) := by
    have := (hk.accessed hp.accessed).ioReads q.io
    split
    · exact this
    · exact this.performAll l
  have key : ∀ (ws : List BaseWrite) (r : State), Kept s r →
      Kept s (ws.foldl (fun r w => r.writeReg w.file w.i w.value (writtenInts w)) r) := by
    intro ws
    induction ws with
    | nil => exact fun r hr => hr
    | cons a l ih => exact fun r hr => ih _ (hr.writeReg ..)
  injection h with h
  exact h ▸ (key _ _ (hw.setFpcr _)).finish _ _ _ _ _ _ (fun p hp => (ho p hp).trans (mode_congr hk.pc))

end Sys2Proof.Machine
end

