-- ==== Sys2Proof/Laws/Results.lean ====
section
/-! SUPPORT. The outcome of each shared access operation when every check lets it through, and the arithmetic of lanes,
pages and slots. -/

namespace Sys2Proof.Machine

/-! ### Loads and stores that every check lets through -/

/-- An integer load: the value in the register. -/
theorem loadX_of_accessOk {s : State} {a : Acc} {va : W64} {pa : PAddr} (h : accessOk s a va pa) (hr : a.isR = true)
    (hio : isIo pa = false) :
    loadX s a va =
      .next ((s.unlock.setX a.ra (loadValue a.size (readMem s.mem (memAddr (a.base pa)) a.size))).retire .read) := by
  unfold loadX
  rw [doLoad_of_accessOk h hr hio]
  rfl

/-- See `loadX_of_accessOk`. -/
theorem loadXOr31_of_accessOk {s : State} {a : Acc} {va : W64} {pa : PAddr} (h31 : a.ra ≠ 31#5) (h : accessOk s a va pa)
    (hr : a.isR = true) (hio : isIo pa = false) :
    loadXOr31 s a va =
      .next ((s.unlock.setX a.ra (loadValue a.size (readMem s.mem (memAddr (a.base pa)) a.size))).retire .read) := by
  unfold loadXOr31
  rw [if_neg h31]
  exact loadX_of_accessOk h hr hio

/-- A floating load. -/
theorem loadF_of_accessOk {s : State} {a : Acc} {va : W64} {pa : PAddr} {cvt : Nat → W64} (h31 : a.ra ≠ 31#5)
    (h : accessOk s a va pa) (hr : a.isR = true) (hio : isIo pa = false) :
    loadF s a va cvt =
      .next ((s.unlock.setF a.ra (cvt (readMem s.mem (memAddr (a.base pa)) a.size)) s.intData).retire .read) := by
  unfold loadF
  rw [if_neg h31, doLoad_of_accessOk h hr hio]
  rfl

/-- A store: `State.write` at the address. -/
theorem storeV_of_accessOk {s : State} {a : Acc} {va : W64} {pa : PAddr} {v : Nat}
    (h : accessOk s { a with data := some v } va pa) (hr : a.isR = false) (hw : a.isW = true) (hio : isIo pa = false) :
    storeV s a va v = .next ((s.unlock.write (a.cached pa) (memAddr (a.base pa)) a.size v).retire .write) := by
  unfold storeV
  rw [doStore_of_accessOk h ⟨hr, hw⟩ hio]
  rfl

/-- An atomic that raises no INCO. -/
theorem atomicX_of_accessOk {s : State} {a : Acc} {va : W64} {pa : PAddr} {o : AtomicOp} {mt : Bool}
    (h : accessOk s a va pa) (hr : a.isR = true) (hio : isIo pa = false)
    (hq : mt = true → (s.maskSeen = true ∨ s.csr.dcCtl.getLsbD 10 = false) ∨
      o.overflows a.size (readMem s.mem (memAddr (a.base pa)) a.size) = false) :
    atomicX s a va o mt = .next ((((s.unlock.write (a.cached pa) (memAddr (a.base pa)) a.size
      (o.apply a.size (readMem s.mem (memAddr (a.base pa)) a.size) % 2 ^ (8 * a.size))).setX a.ra
        (loadValue a.size (readMem s.mem (memAddr (a.base pa)) a.size))).count .read).nextPc) := by
  unfold atomicX
  rw [doAtomic_of_accessOk h hr hio]
  have : (mt && o.overflows a.size (readMem s.mem (memAddr (a.base pa)) a.size) && !s.maskSeen && s.dcEn 10) = false := by
    cases mt
    · rfl
    · rcases hq rfl with (h1 | h1) | h1
      · rw [h1]; simp
      · unfold State.dcEn; rw [h1]; simp
      · rw [h1]; rfl
  unfold settle
  dsimp only
  rw [this]
  rfl

/-- A SIMD access that is legal goes to memory (R229). -/
theorem isIo_false_of_simd {s : State} {a : Acc} {va : W64} {pa : PAddr} (hs : a.simd = true) (h : partOk s a va pa) :
    isIo pa = false := by
  have := h.legal
  unfold Acc.typeIllegal at this
  rw [hs] at this
  simp at this
  exact this.1

/-- A vector load. -/
theorem vecLoad_of_accessOk {s : State} {a : Acc} {va : W64} {pa : PAddr} {int : Bool} {cvt : Nat → V256}
    (hr : ready s .simd) (h31 : a.ra ≠ 31#5) (hs : a.simd = true) (hR : a.isR = true) (h : accessOk s a va pa) :
    vecLoad s a va int cvt = .next ((s.unlock.setV a.ra (cvt (readMem s.mem (memAddr (a.base pa)) a.size))
      (if int || s.intData then 0b1111 else 0)).retire .read) := by
  unfold vecLoad simdStage
  rw [decodeStage_ready _ _ hr, if_neg h31, doLoad_of_accessOk h hR (isIo_false_of_simd hs h.topartOk)]
  rfl

/-- A vector store. -/
theorem vecStore_of_accessOk {s : State} {a : Acc} {va : W64} {pa : PAddr} {im : Nat} (hr : ready s .simd)
    (h : accessOk s { a with data := some im } va pa) (hR : a.isR = false) (hW : a.isW = true) (hs : a.simd = true) :
    vecStore s a va im =
      .next ((s.unlock.write (a.cached pa) (memAddr (a.base pa)) a.size im).retire .write) := by
  unfold vecStore simdStage
  rw [decodeStage_ready _ _ hr]
  exact storeV_of_accessOk h hR hW (isIo_false_of_simd (a := { a with data := some im }) hs h.topartOk)

/-- A part of a load from memory that its checks let through. -/
theorem pendRead_of_partOk {s : State} {a : Acc} {va : W64} {pa : PAddr} (h : partOk s a va pa)
    (hR : a.isR = true) (hio : isIo pa = false) (n : Nat) :
    pendRead s.unlock a pa n = ((readMem s.mem (memAddr (a.base pa)) a.size, []), s.unlock) := by
  simp [pendRead, hio, performRead_of_partOk h hR hio]

/-- The checks of the second part of an unaligned vector load. -/
theorem highPhase_of_partOk {s : State} {a : Acc} {va : W64} {pa : PAddr} (ea : W64) (h : partOk s a va pa) :
    highPhase s.unlock a ea va = .ok (pa, s.unlock) := by
  have h' : partOk s.unlock a va pa :=
    ⟨h.canon, h.aligned, h.maps, h.legal, h.noError, h.notForced, h.platform, h.ordered, h.timely, h.alone⟩
  simp [highPhase, addressPhase_of_partOk h', physicalPhase_of_partOk h']

/-- An unaligned vector load: both parts. -/
theorem splitLoad_of_accessOk {s : State} {a : Acc} {va : W64} {pa pb : PAddr} (hs : a.simd = true) (hR : a.isR = true)
    (k : Nat) (hk : k = lowPart va a.size) (hke : k ≤ a.size) (hb : a.back = 0)
    (h1 : accessOk s { a with size := k } va pa)
    (h2 : k < a.size → partOk s { a with size := a.size - k, align := 1 } (va + BitVec.ofNat 64 k) pb) :
    splitLoad s a va = .ok (readMem s.mem (memAddr pa) k + readMem s.mem (memAddr pb) (a.size - k) * 2 ^ (8 * k),
      s.unlock) := by
  have hbase : ∀ (n al : Nat) (p : PAddr), Acc.base { a with size := n, align := al } p = p := fun _ _ p =>
    Acc.base_of_back (a := { a with size := _, align := _ }) hb p
  unfold splitLoad splitRead
  dsimp only
  rw [← hk, dataPhase_of_accessOk h1]
  dsimp only
  rw [pendRead_of_partOk h1.topartOk hR (isIo_false_of_simd (a := { a with size := k }) hs h1.topartOk), hbase k a.align pa]
  by_cases he : k = a.size
  · rw [if_pos he, he]
    simp [readMem, Except.map, State.ioReads]
  · rw [if_neg he]
    have h := h2 (by omega)
    rw [highPhase_of_partOk va h]
    dsimp only
    rw [pendRead_of_partOk h hR (isIo_false_of_simd (a := { a with size := a.size - k, align := 1 }) hs h),
      hbase (a.size - k) 1 pb]
    rfl

/-! ### Accesses that an address check stops -/

/-- The address checks come first (R529). -/
theorem dataPhase_of_addressPhase_error {s : State} {a va t} (h : addressPhase s a va = .error t) :
    dataPhase s a va = .error t := by
  unfold dataPhase
  rw [h]

/-- A load that an address check stops. -/
theorem loadXOr31_of_addressPhase_error {s : State} {a : Acc} {va t} (h31 : a.ra ≠ 31#5)
    (h : addressPhase s a va = .error t) : loadXOr31 s a va = .next t := by
  unfold loadXOr31 loadX doLoad
  rw [if_neg h31, dataPhase_of_addressPhase_error h]
  rfl

/-- A store that an address check stops. -/
theorem storeV_of_addressPhase_error {s : State} {a : Acc} {va t v}
    (h : addressPhase s { a with data := some v } va = .error t) : storeV s a va v = .next t := by
  unfold storeV doStore
  rw [dataPhase_of_addressPhase_error h]
  rfl

/-! ### Lanes of a vector register -/

/-- A lane of a vector read from memory. -/
theorem lane_ofNat (m i : Nat) (hi : i < 4) : lane (BitVec.ofNat 256 m) i = BitVec.ofNat 64 (m / 2 ^ (64 * i)) := by
  apply BitVec.eq_of_getLsbD_eq
  intro j hj
  unfold lane
  rw [BitVec.getLsbD_extractLsb']
  simp only [BitVec.getLsbD_ofNat, hj, decide_true, Bool.true_and, Nat.testBit_div_two_pow]
  rw [show 64 * i + j = j + 64 * i by omega]; simp; omega

/-- The lanes of a vector put together. -/
theorem lane_ofLanes (a b c d : W64) (i : Fin 4) :
    lane (ofLanes a b c d) i.val = match i with | 0 => a | 1 => b | 2 => c | 3 => d := by
  have h : ∀ j, (ofLanes a b c d).getLsbD j = if j < 64 then a.getLsbD j else if j < 128 then b.getLsbD (j - 64)
      else if j < 192 then c.getLsbD (j - 128) else d.getLsbD (j - 192) := by
    intro j
    unfold ofLanes
    have e1 := BitVec.getLsbD_append (x := d ++ c ++ b) (y := a) (i := j)
    have e2 := BitVec.getLsbD_append (x := d ++ c) (y := b) (i := j - 64)
    have e3 := BitVec.getLsbD_append (x := d) (y := c) (i := j - 64 - 64)
    rw [show (d ++ c ++ b ++ a : BitVec 256).getLsbD j = _ from e1, e2, e3]
    by_cases h1 : j < 64
    · rw [if_pos h1, if_pos h1]
    by_cases h2 : j < 128
    · rw [if_neg h1, if_neg h1, if_pos h2, if_pos (by omega)]
    by_cases h3 : j < 192
    · rw [if_neg h1, if_neg h1, if_neg h2, if_pos h3, if_neg (by omega), if_pos (by omega), Nat.sub_sub]
    · rw [if_neg h1, if_neg h1, if_neg h2, if_neg h3, if_neg (by omega), if_neg (by omega), Nat.sub_sub, Nat.sub_sub]
  apply BitVec.eq_of_getLsbD_eq
  intro j hj
  unfold lane
  rw [BitVec.getLsbD_extractLsb', h]
  simp only [hj, decide_true, Bool.true_and]
  match i with
  | ⟨0, _⟩ => rw [if_pos (by show 64 * 0 + j < 64; omega), show 64 * (0:Nat) + j = j by omega]
  | ⟨1, _⟩ =>
    rw [if_neg (by show ¬ 64 * 1 + j < 64; omega), if_pos (by show 64 * 1 + j < 128; omega),
      show 64 * (1:Nat) + j - 64 = j by omega]
  | ⟨2, _⟩ =>
    rw [if_neg (by show ¬ 64 * 2 + j < 64; omega), if_neg (by show ¬ 64 * 2 + j < 128; omega),
      if_pos (by show 64 * 2 + j < 192; omega), show 64 * (2:Nat) + j - 128 = j by omega]
  | ⟨3, _⟩ =>
    rw [if_neg (by show ¬ 64 * 3 + j < 64; omega), if_neg (by show ¬ 64 * 3 + j < 128; omega),
      if_neg (by show ¬ 64 * 3 + j < 192; omega), show 64 * (3:Nat) + j - 192 = j by omega]

/-- Part of a wide read is a read. -/
theorem readMem_part (m : List Host.Cell) (a n o k : Nat) (h : o + k ≤ n) :
    readMem m (a + o) k = readMem m a n / 2 ^ (8 * o) % 2 ^ (8 * k) := by
  have h1 : ∀ (n a : Nat), readMem m a n < 2 ^ (8 * n) := by
    intro n; induction n with
    | zero => intro a; simp [readMem]
    | succ n ih =>
      intro a
      show _ + 256 * _ < _
      have := ih (a+1)
      have := (memGet m a).isLt
      rw [show 8 * (n + 1) = 8 + 8 * n by ring, pow_add]
      norm_num
      omega
  induction o generalizing a n with
  | zero =>
    simp only [Nat.add_zero, Nat.mul_zero, pow_zero, Nat.div_one]
    induction k generalizing a n with
    | zero => simp [readMem]; omega
    | succ k ih =>
      obtain ⟨n', rfl⟩ : ∃ n', n = n' + 1 := ⟨n - 1, by omega⟩
      show _ + 256 * _ = (_ + 256 * _) % _
      rw [ih (a + 1) n' (by omega), show 8 * (k + 1) = 8 + 8 * k by ring, pow_add, Nat.mod_mul]
      have := (memGet m a).isLt
      have e1 : ((memGet m a).toNat + 256 * readMem m (a + 1) n') % 2 ^ 8 = (memGet m a).toNat := by norm_num; omega
      have e2 : ((memGet m a).toNat + 256 * readMem m (a + 1) n') / 2 ^ 8 = readMem m (a + 1) n' := by norm_num; omega
      rw [e1, e2, show (256:Nat) = 2 ^ 8 by rfl]
  | succ o ih =>
    obtain ⟨n', rfl⟩ : ∃ n', n = n' + 1 := ⟨n - 1, by omega⟩
    rw [show a + (o + 1) = (a + 1) + o by omega, ih (a + 1) n' (by omega)]
    show _ = (_ + 256 * _) / _ % _
    rw [show 8 * (o + 1) = 8 + 8 * o by ring, pow_add, ← Nat.div_div_eq_div_mul]
    have := (memGet m a).isLt
    have e : readMem m (a + 1) n' = ((memGet m a).toNat + 256 * readMem m (a + 1) n') / 2 ^ 8 := by norm_num; omega
    rw [← e]

/-! ### Translation -/

/-- No entry hits the address: the lookup finds none. -/
theorem dtbLookup_none {s : State} {va : W64} (h : ∀ x ∈ s.dtb, dtbHits s.csr va x = false) : dtbLookup s va = none := by
  unfold dtbLookup
  have : s.dtb.filter (dtbHits s.csr va) = [] := by
    rw [List.filter_eq_nil_iff]
    intro x hx
    rw [h x hx]
    simp
  rw [this]
  rfl

/-- One entry hits: the lookup finds it. -/
theorem dtbLookup_one (s : State) (e : DtbEntry) (va : W64) (h : s.dtb.filter (dtbHits s.csr va) = [e]) :
    dtbLookup s va = some e := by
  unfold dtbLookup; rw [h]; simp [Nat.mod_one]

/-- The flags of a denied access, bit by bit (R313). -/
theorem denyFlags_getLsbD (e : DtbEntry) (m r w n) :
    (denyFlags e m r w).getLsbD n = (decide (n = 1) && ((r && !e.readable m) || (w && !e.writable m))
      || decide (n = 2) && (r && e.faultOnRead) || decide (n = 3) && (w && e.faultOnWrite)) := by
  unfold denyFlags orBit setBit
  generalize ((r && !e.readable m) || (w && !e.writable m)) = a
  generalize (r && e.faultOnRead) = b
  generalize (w && e.faultOnWrite) = c
  by_cases h : n < 4
  · interval_cases n <;> revert a b c <;> decide
  · have : n ≠ 1 ∧ n ≠ 2 ∧ n ≠ 3 := by omega
    cases a <;> cases b <;> cases c <;> simp [BitVec.getLsbD_twoPow, this, Ne.symm this.1, Ne.symm this.2.1, Ne.symm this.2.2]

/-- An access is denied when some check of R310 step 5 fails. -/
theorem denyFlags_eq_zero (e : DtbEntry) (m r w) :
    denyFlags e m r w = 0 ↔ ((r && !e.readable m) || (w && !e.writable m)) = false ∧ (r && e.faultOnRead) = false ∧
      (w && e.faultOnWrite) = false := by
  unfold denyFlags orBit setBit
  generalize ((r && !e.readable m) || (w && !e.writable m)) = a
  generalize (r && e.faultOnRead) = b
  generalize (w && e.faultOnWrite) = c
  revert a b c; decide

/-- The physical address as a number (R314). -/
theorem joinPage_toNat (gh : BitVec 2) (f v : PAddr) :
    joinPage gh f v = BitVec.ofNat 48 (f.toNat / 2 ^ (13 + 5 * gh.toNat) * 2 ^ (13 + 5 * gh.toNat)
      + v.toNat % 2 ^ (13 + 5 * gh.toNat)) := by
  have hg := gh.isLt
  unfold joinPage
  dsimp only
  generalize hk : 13 + 5 * gh.toNat = k
  have hk48 : k ≤ 48 := by omega
  apply BitVec.eq_of_getLsbD_eq
  intro i hi
  rw [BitVec.getLsbD_or, BitVec.getLsbD_and, BitVec.getLsbD_shiftLeft, BitVec.getLsbD_ushiftRight,
    BitVec.getLsbD_ushiftRight, BitVec.getLsbD_allOnes, BitVec.getLsbD_ofNat]
  rw [Nat.mul_comm, Nat.testBit_two_pow_mul_add _ (Nat.mod_lt _ (by positivity))]
  by_cases h : i < k
  · simp [h, hi, show 48 - k + i < 48 by omega, BitVec.getLsbD]
  · simp [h, hi, BitVec.getLsbD, Nat.testBit_div_two_pow, Nat.add_comm]
    intros; omega

/-- The slot of the pc (R757). -/
theorem State.slot_eq (s : State) : s.slot = s.pc.toNat / 4 % 4 := by
  unfold State.slot; simp [BitVec.extractLsb'_toNat, Nat.shiftRight_eq_div_pow]

end Sys2Proof.Machine
end

