-- ==== Sys2Proof/Laws/Outcomes.lean ====
section
/-! SUPPORT. What the small operations that end a meaning leave behind, in the terms of Safety: one register written, or
nothing, or one store, then the retirement; and the two exceptions of the decode stage. -/

namespace Sys2Proof.Machine

/-! ### One integer register -/

/-- No system register stands behind R31. -/
@[simp] theorem State.shadow_31 (s : State) : s.shadow 31#5 = none := by
  unfold State.shadow
  rw [show srSlot 31#5 = none from rfl]
  simp

/-- Two register numbers name two system registers (R33). -/
theorem srSlot_inj {i j : BitVec 5} {k : Fin 10} (h1 : srSlot i = some k) (h2 : srSlot j = some k) : i = j := by
  revert k i j
  decide +revert

/-- The value of an integer register, by what stands behind its number. -/
theorem State.getX_eq (s : State) (i : BitVec 5) :
    s.getX i = match s.shadow i with | some k => s.sr[k] | none => (s.x[i.toNat]?).getD 0 := rfl

/-- A state whose integer and system registers are those after `setX`, under the same register view. -/
theorem writesOnlyX_of {s t : State} {i w} (hx : t.x = (s.setX i w).x) (hs : t.sr = (s.setX i w).sr)
   (hm : t.mode = s.mode) (hc : t.csr.isCtl = s.csr.isCtl)
   (hu : t.oldValues 0x11 = s.oldValues 0x11) (hf : t.freeCtr = s.freeCtr) : writesOnlyX s t i w := by
  have hsh := fun j => State.shadow_congr (s := s) (t := t) hm hc hu hf j
  have inj : ∀ j k, s.shadow i = some k → s.shadow j = some k → i = j := by
    intro j k h1 h2
    unfold State.shadow at h1 h2
    split at h1
    · split at h2
      · exact srSlot_inj h1 h2
      · cases h2
    · cases h1
  unfold writesOnlyX
  cases hk : s.shadow i with
  | some k =>
    have e1 : (s.setX i w).x = s.x := by simp [State.setX, hk]
    have e2 : (s.setX i w).sr = s.sr.set k w := by simp [State.setX, hk]
    rw [e1] at hx; rw [e2] at hs
    have hne : i ≠ 31#5 := by rintro rfl; rw [State.shadow_31] at hk; cases hk
    refine ⟨?_, ?_, hx, ?_⟩
    · rw [if_neg hne, State.getX_eq, hsh, hk, hs]; simp
    · intro j hj
      rw [State.getX_eq, State.getX_eq, hsh]
      cases hj' : s.shadow j with
      | some k' =>
        have : k ≠ k' := by rintro rfl; exact hj (inj j k hk hj').symm
        simp only [hs]
        have h2 : k.val ≠ k'.val := fun h => this (Fin.ext h)
        simp [h2]
      | none => simp only [hx]
    · intro j hj
      have h2 : k.val ≠ j.val := fun h => hj (Fin.ext h.symm)
      simp [hs, h2]
  | none =>
    have e1 : (s.setX i w).x = s.x.setIfInBounds i.toNat w := by simp [State.setX, hk]
    have e2 : (s.setX i w).sr = s.sr := by simp [State.setX, hk]
    rw [e1] at hx; rw [e2] at hs
    have hi := i.isLt
    refine ⟨?_, ?_, hs, ?_⟩
    · rw [State.getX_eq, hsh, hk, hx]
      by_cases h31 : i = 31#5
      · subst h31; simp
      · have : i.toNat < 31 := by
          have h : i.toNat ≠ 31 := fun h => h31 (by apply BitVec.eq_of_toNat_eq; simpa using h)
          omega
        simp [h31, this]
    · intro j hj
      rw [State.getX_eq, State.getX_eq, hsh]
      cases hj' : s.shadow j with
      | some k' => simp only [hs]
      | none =>
        have h2 : i.toNat ≠ j.toNat := fun h => hj (BitVec.eq_of_toNat_eq h.symm)
        simp [hx, h2]
    · intro j hj
      have h2 : i.toNat ≠ j.val := fun h => hj h.symm
      simp [hx, h2]

/-- An instruction that writes one integer register and retires. -/
theorem resultX_retire (s : State) (e rd w) : resultX s ((s.setX rd w).retire e) e rd w := by
  refine ⟨writesOnlyX_of (by simp) (by simp) (by simp [State.mode]) (by rw [State.retire_csr, State.count_csr]; simp)
    (by simp) (by simp), ⟨by simp, ?_⟩, ?_, ?_⟩
  · simp; exact State.count_csr_congr (by simp) (by simp [State.mode]) (by simp) (by simp) e
  · intro a; simp
  · unfold State.setX State.retire State.count; split <;> split <;> rfl

/-- An instruction that only retires. -/
theorem resultNone_retire (s : State) (e) : resultNone s (s.retire e) e := by
  refine ⟨⟨by simp, by simp⟩, fun a => by simp, ?_⟩
  unfold State.retire State.count; split <;> rfl

/-! ### One floating or vector register -/

/-- An instruction that writes one floating register and retires. -/
theorem resultF_retire (s : State) (e fd w) (b : Bool) : resultF s ((s.setF fd w b).retire e) e fd w := by
  have hv : ∀ j, ((s.setF fd w b).retire e).getV j = (s.setF fd w b).getV j := by intro j; unfold State.getV; simp
  refine ⟨⟨?_, ?_⟩, ⟨by simp, ?_⟩, ?_, ?_⟩
  · unfold State.getF; rw [hv]
    unfold State.setF State.setV State.getV
    split
    · rename_i h; subst h; simp [lane]
    · rename_i h
      have : fd.toNat < 31 := by
        have h1 := fd.isLt
        have h2 : fd.toNat ≠ 31 := fun hh => h (BitVec.eq_of_toNat_eq hh)
        omega
      simp [this, lane]
      apply BitVec.eq_of_getLsbD_eq
      intro i hi
      have := BitVec.getLsbD_append (x := Config.highBits s.freeCtr fd) (y := w) (i := i)
      rw [BitVec.getLsbD_extractLsb']
      simp only [hi, decide_true, Bool.true_and, Nat.zero_add]
      rw [this]; simp [hi]
  · intro j hj
    rw [State.retire_v]
    unfold State.setF State.setV
    simp [Ne.symm hj]
  · rw [State.retire_csr]; exact State.count_csr_congr (by simp) (by simp [State.mode]) (by simp) (by simp) e
  · intro a; simp
  · unfold State.setF State.setV State.retire State.count; split <;> rfl

/-- An instruction that writes one vector register and retires. -/
theorem resultV_retire (s : State) (e fd w) (n : BitVec 4) :
    resultV s ((s.setV fd w n).retire e) e fd (fun i => lane w i.val) := by
  have hv : ∀ j, ((s.setV fd w n).retire e).getV j = (s.setV fd w n).getV j := by intro j; unfold State.getV; simp
  refine ⟨⟨?_, ?_⟩, ⟨by simp, ?_⟩, ?_, ?_⟩
  · intro i; rw [hv]
    unfold State.setV State.getV
    split
    · rename_i h; subst h; simp [lane]
    · rename_i h
      have : fd.toNat < 31 := by
        have h1 := fd.isLt
        have h2 : fd.toNat ≠ 31 := fun hh => h (BitVec.eq_of_toNat_eq hh)
        omega
      simp [this]
  · intro j hj
    rw [State.retire_v]
    unfold State.setV
    simp [Ne.symm hj]
  · rw [State.retire_csr]; exact State.count_csr_congr (by simp) (by simp [State.mode]) (by simp) (by simp) e
  · intro a; simp
  · unfold State.setV State.retire State.count; split <;> rfl

/-! ### Memory -/

/-- A byte after one byte is written. -/
theorem memGet_memSet_wf {m : List Host.Cell} (h : Memory.wf m = true) (a v x) :
    memGet (memSet m a v) x = if x = a then v else memGet m x := by
  have := memGet_memSet m a v 0 h x
  simpa using this

/-- A byte after a write. -/
theorem memGet_write (m : List Host.Cell) (a n v : Nat) (h : Memory.wf m = true) : ∀ x, memGet (writeMem m a n v) x =
    if a ≤ x ∧ x < a + n then BitVec.ofNat 8 (v / 2 ^ (8 * (x - a))) else memGet m x := by
  induction n generalizing m a v with
  | zero => intro x; rw [if_neg (by omega)]; rfl
  | succ n ih =>
    intro x
    show memGet (writeMem (memSet m a (BitVec.ofNat 8 v)) (a + 1) n (v / 256)) x = _
    rw [ih _ _ _ (memSet_wf _ _ h), memGet_memSet_wf h]
    by_cases h1 : x = a
    · subst h1; simp
    · by_cases h2 : a ≤ x ∧ x < a + (n + 1)
      · rw [if_pos (by omega), if_pos h2]
        rw [Nat.div_div_eq_div_mul, show 256 = 2 ^ 8 by rfl, ← pow_add, show 8 + 8 * (x - (a + 1)) = 8 * (x - a) by omega]
      · rw [if_neg (by omega), if_neg h2, if_neg h1]

/-- The number that the bytes read stand for (R224). -/
theorem readMem_of {m : List Host.Cell} (a n v) (h : ∀ j, j < n → memGet m (a + j) = BitVec.ofNat 8 (v / 2 ^ (8 * j))) :
    readMem m a n = v % 2 ^ (8 * n) := by
  induction n generalizing a v with
  | zero => simp [readMem]; omega
  | succ n ih =>
    show _ + 256 * _ = _
    rw [ih (a + 1) (v / 256) ?_]
    · have := h 0 (by omega)
      simp only [Nat.add_zero, Nat.mul_zero, pow_zero, Nat.div_one] at this
      rw [this, BitVec.toNat_ofNat, show 8 * (n + 1) = 8 + 8 * n by ring, pow_add]
      rw [Nat.mod_mul, show (256:Nat) = 2 ^ 8 by rfl]
    · intro j hj
      have := h (j + 1) (by omega)
      rw [show a + 1 + j = a + (j + 1) by omega, this, Nat.div_div_eq_div_mul, show 256 = 2 ^ 8 by rfl, ← pow_add,
        show 8 + 8 * j = 8 * (j + 1) by omega]

/-- A write is read back. -/
theorem readMem_write (m : List Host.Cell) (a n v : Nat) (h : Memory.wf m = true) :
    readMem (writeMem m a n v) a n = v % 2 ^ (8 * n) :=
  readMem_of _ _ _ fun j hj => by rw [memGet_write _ _ _ _ h, if_pos (by omega), Nat.add_sub_cancel_left]

/-- An instruction that stores and retires. -/
theorem resultStore_retire (s : State) (c : Bool) (a n v : Nat) (h : Memory.wf s.mem = true) (he : c = true ∨ s.track.hasEarly a n = false) :
    resultStore s ((s.write c a n v).retire .write) a n v := by
  refine ⟨?_, ?_, ⟨by simp, ?_⟩,
    by rw [State.retire_icache, State.write_icache v he], by rw [State.retire_unsynced, State.write_unsynced v he], ?_⟩
  · rw [State.retire_mem, State.write_mem v he]
    exact readMem_write s.mem a n v h
  · intro x hx
    rw [State.retire_mem, State.write_mem v he, memGet_write _ _ _ _ h, if_neg (by omega)]
  · rw [State.retire_csr]
    exact State.count_csr_congr (by simp) (by simp [State.mode]) (by simp) (by simp) _
  · rw [State.write_of_ordered v he]
    unfold State.retire State.count
    split <;> rfl

/-! ### The exceptions of the decode stage -/

/-- Without bits of its own EXC_SUM holds REG alone. -/
theorem excSumOf_zero (r : BitVec 5) : excSumOf r 0 = (r.setWidth 64 <<< 8) ||| 0 := by simp [excSumOf]

/-- IGL_INST with LOCK_IGL (R552). -/
theorem iglInst_append (b : Bool) (w : W32) :
    (0#31 ++ BitVec.ofBool b ++ w : BitVec (31 + 1 + 32)) = ((if b then 1#32 else 0#32) ++ w : BitVec 64) := by
  apply BitVec.eq_of_toNat_eq
  cases b <;> simp

/-- OPCDEC (R552). -/
theorem raiseOpcdec_spec (s : State) (b : Bool) : let t := s.raiseOpcdec b
    faultsTo s t 0xD80 ∧ t.csr.iglInst = (if b then 1#32 else 0#32) ++ s.word ∧ (∃ r, excSumIs t r 0) ∧
      t.csr.dsStat = s.csr.dsStat ∧ t.csr.dva = s.csr.dva ∧ t.csr.iva = s.csr.iva :=
  ⟨⟨rfl, rfl⟩, iglInst_append b s.word, ⟨s.freeReg, excSumOf_zero _⟩, rfl, rfl, rfl⟩

/-- FEN (R541). -/
theorem raiseFen_spec (s : State) : let t := s.raiseFen
    faultsTo s t 0xA80 ∧ t.csr.iglInst = 0#32 ++ s.word ∧ ∃ r, excSumIs t r 0 :=
  ⟨⟨rfl, rfl⟩, rfl, s.freeReg, excSumOf_zero _⟩

/-- An instruction the decode stage finds illegal. -/
theorem decodeStage_illegal {s : State} (lk : Bool) (f : FpClass) (body : State → Host.Outcome State Fault Refusal)
    (h : unimplemented s = false ∨ lk = false) : decodeStage s false lk f body = .next (s.raiseOpcdec lk) := by
  rcases h with h | h <;> simp [decodeStage, h]

/-- A privileged instruction outside HM (R418). -/
theorem privStage_outsideHm {s : State} (body : State → Host.Outcome State Fault Refusal) (h : s.mode ≠ 0#2) :
    privStage s body = .next (s.raiseOpcdec false) := by
  have : s.inHm = false := by simp [State.inHm, h]
  unfold privStage
  rw [this, decodeStage_illegal _ _ _ (.inr rfl)]

/-- A floating instruction whose unit is off. -/
theorem decodeStage_fen {s : State} {f : FpClass} (lk : Bool) (body : State → Host.Outcome State Fault Refusal)
    (hu : unimplemented s = false) (hi : iaHit s = false) (hf : fpEnabled s.csr f = false) :
    decodeStage s true lk f body = .next s.raiseFen := by
  simp [decodeStage, hu, hi, hf]

end Sys2Proof.Machine
end

