-- ==== Sys2Proof/Laws/PerInstr.lean ====
section
/-! SUPPORT. What is stated per instruction: every instruction the encoder gives a word is well formed. -/

namespace Sys2Proof.Laws.EncodableWellFormed

/-- An instruction that has a word is well formed: the encoder reaches no term that `Instr.wellFormed` refuses. -/
def Statement (i : Instr) : Prop := (encode i).isSome = true → i.wellFormed = true

theorem sysCall (fn : BitVec 25) : Statement (.sysCall fn) := fun _ => rfl
theorem sysCallB (fn : BitVec 25) : Statement (.sysCallB fn) := fun _ => rfl
theorem call (ra : BitVec 5) (rb : BitVec 5) (hint : BitVec 16) : Statement (.call ra rb hint) := fun _ => rfl
theorem ret (ra : BitVec 5) (rb : BitVec 5) (hint : BitVec 16) : Statement (.ret ra rb hint) := fun _ => rfl
theorem jmp (ra : BitVec 5) (rb : BitVec 5) (hint : BitVec 16) : Statement (.jmp ra rb hint) := fun _ => rfl
theorem bsr (ra : BitVec 5) (disp : BitVec 21) : Statement (.bsr ra disp) := fun _ => rfl
theorem memb : Statement (.memb) := fun _ => rfl
theorem imemb : Statement (.imemb) := fun _ => rfl
theorem rtc (ra : BitVec 5) (rb : BitVec 5) : Statement (.rtc ra rb) := fun _ => rfl
theorem rcid (ra : BitVec 5) : Statement (.rcid ra) := fun _ => rfl
theorem halt : Statement (.halt) := fun _ => rfl
theorem rdF (ra : BitVec 5) : Statement (.rdF ra) := fun _ => rfl
theorem wrF (ra : BitVec 5) : Statement (.wrF ra) := fun _ => rfl
theorem rtid (ra : BitVec 5) : Statement (.rtid ra) := fun _ => rfl
theorem priRcsr (ra : BitVec 5) (idx : BitVec 8) : Statement (.priRcsr ra idx) := fun _ => rfl
theorem priWcsr (ra : BitVec 5) (idx : BitVec 8) : Statement (.priWcsr ra idx) := fun _ => rfl
theorem priRet (ra : BitVec 5) : Statement (.priRet ra) := fun _ => rfl
theorem priRetB (ra : BitVec 5) : Statement (.priRetB ra) := fun _ => rfl
theorem lldw (ra : BitVec 5) (rb : BitVec 5) (disp : BitVec 12) : Statement (.lldw ra rb disp) := fun _ => rfl
theorem lldl (ra : BitVec 5) (rb : BitVec 5) (disp : BitVec 12) : Statement (.lldl ra rb disp) := fun _ => rfl
theorem ldwInc (ra : BitVec 5) (rb : BitVec 5) (disp : BitVec 12) : Statement (.ldwInc ra rb disp) := fun _ => rfl
theorem ldlInc (ra : BitVec 5) (rb : BitVec 5) (disp : BitVec 12) : Statement (.ldlInc ra rb disp) := fun _ => rfl
theorem ldwDec (ra : BitVec 5) (rb : BitVec 5) (disp : BitVec 12) : Statement (.ldwDec ra rb disp) := fun _ => rfl
theorem ldlDec (ra : BitVec 5) (rb : BitVec 5) (disp : BitVec 12) : Statement (.ldlDec ra rb disp) := fun _ => rfl
theorem ldwSet (ra : BitVec 5) (rb : BitVec 5) (disp : BitVec 12) : Statement (.ldwSet ra rb disp) := fun _ => rfl
theorem ldlSet (ra : BitVec 5) (rb : BitVec 5) (disp : BitVec 12) : Statement (.ldlSet ra rb disp) := fun _ => rfl
theorem lstw (ra : BitVec 5) (rb : BitVec 5) (disp : BitVec 12) : Statement (.lstw ra rb disp) := fun _ => rfl
theorem lstl (ra : BitVec 5) (rb : BitVec 5) (disp : BitVec 12) : Statement (.lstl ra rb disp) := fun _ => rfl
theorem ldwNc (ra : BitVec 5) (rb : BitVec 5) (disp : BitVec 12) : Statement (.ldwNc ra rb disp) := fun _ => rfl
theorem ldlNc (ra : BitVec 5) (rb : BitVec 5) (disp : BitVec 12) : Statement (.ldlNc ra rb disp) := fun _ => rfl
theorem lddNc (fa : BitVec 5) (rb : BitVec 5) (disp : BitVec 12) : Statement (.lddNc fa rb disp) := fun _ => rfl
theorem stwNc (ra : BitVec 5) (rb : BitVec 5) (disp : BitVec 12) : Statement (.stwNc ra rb disp) := fun _ => rfl
theorem stlNc (ra : BitVec 5) (rb : BitVec 5) (disp : BitVec 12) : Statement (.stlNc ra rb disp) := fun _ => rfl
theorem stdNc (fa : BitVec 5) (rb : BitVec 5) (disp : BitVec 12) : Statement (.stdNc fa rb disp) := fun _ => rfl
theorem addw (ra : BitVec 5) (rb : BitVec 5) (rc : BitVec 5) : Statement (.addw ra rb rc) := fun _ => rfl
theorem mulw (ra : BitVec 5) (rb : BitVec 5) (rc : BitVec 5) : Statement (.mulw ra rb rc) := fun _ => rfl
theorem mull (ra : BitVec 5) (rb : BitVec 5) (rc : BitVec 5) : Statement (.mull ra rb rc) := fun _ => rfl
theorem umulh (ra : BitVec 5) (rb : BitVec 5) (rc : BitVec 5) : Statement (.umulh ra rb rc) := fun _ => rfl
theorem cmpeq (ra : BitVec 5) (rb : BitVec 5) (rc : BitVec 5) : Statement (.cmpeq ra rb rc) := fun _ => rfl
theorem bis (ra : BitVec 5) (rb : BitVec 5) (rc : BitVec 5) : Statement (.bis ra rb rc) := fun _ => rfl
theorem xor (ra : BitVec 5) (rb : BitVec 5) (rc : BitVec 5) : Statement (.xor ra rb rc) := fun _ => rfl
theorem addwLit (ra : BitVec 5) (lit : BitVec 8) (rc : BitVec 5) : Statement (.addwLit ra lit rc) := fun _ => rfl
theorem mulwLit (ra : BitVec 5) (lit : BitVec 8) (rc : BitVec 5) : Statement (.mulwLit ra lit rc) := fun _ => rfl
theorem mullLit (ra : BitVec 5) (lit : BitVec 8) (rc : BitVec 5) : Statement (.mullLit ra lit rc) := fun _ => rfl
theorem umulhLit (ra : BitVec 5) (lit : BitVec 8) (rc : BitVec 5) : Statement (.umulhLit ra lit rc) := fun _ => rfl
theorem cmpeqLit (ra : BitVec 5) (lit : BitVec 8) (rc : BitVec 5) : Statement (.cmpeqLit ra lit rc) := fun _ => rfl
theorem bisLit (ra : BitVec 5) (lit : BitVec 8) (rc : BitVec 5) : Statement (.bisLit ra lit rc) := fun _ => rfl
theorem xorLit (ra : BitVec 5) (lit : BitVec 8) (rc : BitVec 5) : Statement (.xorLit ra lit rc) := fun _ => rfl
theorem faddd (fa : BitVec 5) (fb : BitVec 5) (fc : BitVec 5) : Statement (.faddd fa fb fc) := fun _ => rfl
theorem rfpcr (fa : BitVec 5) : Statement (.rfpcr fa) := fun _ => rfl
theorem wfpcr (fa : BitVec 5) : Statement (.wfpcr fa) := fun _ => rfl
theorem setfpec0 : Statement (.setfpec0) := fun _ => rfl
theorem setfpec1 : Statement (.setfpec1) := fun _ => rfl
theorem setfpec2 : Statement (.setfpec2) := fun _ => rfl
theorem setfpec3 : Statement (.setfpec3) := fun _ => rfl
theorem ldbu (ra : BitVec 5) (rb : BitVec 5) (disp : BitVec 16) : Statement (.ldbu ra rb disp) := fun _ => rfl
theorem ldhu (ra : BitVec 5) (rb : BitVec 5) (disp : BitVec 16) : Statement (.ldhu ra rb disp) := fun _ => rfl
theorem ldw (ra : BitVec 5) (rb : BitVec 5) (disp : BitVec 16) : Statement (.ldw ra rb disp) := fun _ => rfl
theorem ldl (ra : BitVec 5) (rb : BitVec 5) (disp : BitVec 16) : Statement (.ldl ra rb disp) := fun _ => rfl
theorem ldlU (ra : BitVec 5) (rb : BitVec 5) (disp : BitVec 16) : Statement (.ldlU ra rb disp) := fun _ => rfl
theorem flds (fa : BitVec 5) (rb : BitVec 5) (disp : BitVec 16) : Statement (.flds fa rb disp) := fun _ => rfl
theorem fldd (fa : BitVec 5) (rb : BitVec 5) (disp : BitVec 16) : Statement (.fldd fa rb disp) := fun _ => rfl
theorem stb (ra : BitVec 5) (rb : BitVec 5) (disp : BitVec 16) : Statement (.stb ra rb disp) := fun _ => rfl
theorem sth (ra : BitVec 5) (rb : BitVec 5) (disp : BitVec 16) : Statement (.sth ra rb disp) := fun _ => rfl
theorem stw (ra : BitVec 5) (rb : BitVec 5) (disp : BitVec 16) : Statement (.stw ra rb disp) := fun _ => rfl
theorem stl (ra : BitVec 5) (rb : BitVec 5) (disp : BitVec 16) : Statement (.stl ra rb disp) := fun _ => rfl
theorem fsts (fa : BitVec 5) (rb : BitVec 5) (disp : BitVec 16) : Statement (.fsts fa rb disp) := fun _ => rfl
theorem fstd (fa : BitVec 5) (rb : BitVec 5) (disp : BitVec 16) : Statement (.fstd fa rb disp) := fun _ => rfl
theorem ldi (ra : BitVec 5) (rb : BitVec 5) (disp : BitVec 16) : Statement (.ldi ra rb disp) := fun _ => rfl
theorem beq (ra : BitVec 5) (disp : BitVec 21) : Statement (.beq ra disp) := fun _ => rfl
theorem bne (ra : BitVec 5) (disp : BitVec 21) : Statement (.bne ra disp) := fun _ => rfl
theorem priLdwP (ra : BitVec 5) (rb : BitVec 5) (disp : BitVec 12) : Statement (.priLdwP ra rb disp) := fun _ => rfl
theorem priLdlP (ra : BitVec 5) (rb : BitVec 5) (disp : BitVec 12) : Statement (.priLdlP ra rb disp) := fun _ => rfl
theorem priLdwIncP (ra : BitVec 5) (rb : BitVec 5) (disp : BitVec 12) : Statement (.priLdwIncP ra rb disp) := fun _ => rfl
theorem priLdlIncP (ra : BitVec 5) (rb : BitVec 5) (disp : BitVec 12) : Statement (.priLdlIncP ra rb disp) := fun _ => rfl
theorem priLdwDecP (ra : BitVec 5) (rb : BitVec 5) (disp : BitVec 12) : Statement (.priLdwDecP ra rb disp) := fun _ => rfl
theorem priLdlDecP (ra : BitVec 5) (rb : BitVec 5) (disp : BitVec 12) : Statement (.priLdlDecP ra rb disp) := fun _ => rfl
theorem priLdwSetP (ra : BitVec 5) (rb : BitVec 5) (disp : BitVec 12) : Statement (.priLdwSetP ra rb disp) := fun _ => rfl
theorem priLdlSetP (ra : BitVec 5) (rb : BitVec 5) (disp : BitVec 12) : Statement (.priLdlSetP ra rb disp) := fun _ => rfl
theorem priLdwV (ra : BitVec 5) (rb : BitVec 5) (disp : BitVec 12) : Statement (.priLdwV ra rb disp) := fun _ => rfl
theorem priLdlV (ra : BitVec 5) (rb : BitVec 5) (disp : BitVec 12) : Statement (.priLdlV ra rb disp) := fun _ => rfl
theorem priLdwVpte (ra : BitVec 5) (rb : BitVec 5) (disp : BitVec 12) : Statement (.priLdwVpte ra rb disp) := fun _ => rfl
theorem priLdlVpte (ra : BitVec 5) (rb : BitVec 5) (disp : BitVec 12) : Statement (.priLdlVpte ra rb disp) := fun _ => rfl
theorem priStwP (ra : BitVec 5) (rb : BitVec 5) (disp : BitVec 12) : Statement (.priStwP ra rb disp) := fun _ => rfl
theorem priStlP (ra : BitVec 5) (rb : BitVec 5) (disp : BitVec 12) : Statement (.priStlP ra rb disp) := fun _ => rfl
theorem priStwV (ra : BitVec 5) (rb : BitVec 5) (disp : BitVec 12) : Statement (.priStwV ra rb disp) := fun _ => rfl
theorem priStlV (ra : BitVec 5) (rb : BitVec 5) (disp : BitVec 12) : Statement (.priStlV ra rb disp) := fun _ => rfl
theorem fetchd (rb : BitVec 5) (disp : BitVec 16) : Statement (.fetchd rb disp) := fun h => nomatch h
theorem fetchdE (rb : BitVec 5) (disp : BitVec 16) : Statement (.fetchdE rb disp) := fun h => nomatch h
theorem flushd (rb : BitVec 5) (disp : BitVec 16) : Statement (.flushd rb disp) := fun h => nomatch h
theorem evictdl (rb : BitVec 5) (disp : BitVec 16) : Statement (.evictdl rb disp) := fun h => nomatch h
theorem evictdg (rb : BitVec 5) (disp : BitVec 16) : Statement (.evictdg rb disp) := fun h => nomatch h
theorem vlddNc (fa : BitVec 5) (rb : BitVec 5) (disp : BitVec 16) : Statement (.vlddNc fa rb disp) := fun h => nomatch h
theorem vstdNc (fa : BitVec 5) (rb : BitVec 5) (disp : BitVec 16) : Statement (.vstdNc fa rb disp) := fun h => nomatch h
theorem vlds (fa : BitVec 5) (rb : BitVec 5) (disp : BitVec 16) : Statement (.vlds fa rb disp) := fun h => nomatch h
theorem vldd (fa : BitVec 5) (rb : BitVec 5) (disp : BitVec 16) : Statement (.vldd fa rb disp) := fun h => nomatch h
theorem ldwe (fa : BitVec 5) (rb : BitVec 5) (disp : BitVec 16) : Statement (.ldwe fa rb disp) := fun h => nomatch h
theorem ldse (fa : BitVec 5) (rb : BitVec 5) (disp : BitVec 16) : Statement (.ldse fa rb disp) := fun h => nomatch h
theorem ldde (fa : BitVec 5) (rb : BitVec 5) (disp : BitVec 16) : Statement (.ldde fa rb disp) := fun h => nomatch h
theorem vldwU (fa : BitVec 5) (rb : BitVec 5) (disp : BitVec 16) : Statement (.vldwU fa rb disp) := fun h => nomatch h
theorem vldsU (fa : BitVec 5) (rb : BitVec 5) (disp : BitVec 16) : Statement (.vldsU fa rb disp) := fun h => nomatch h
theorem vlddU (fa : BitVec 5) (rb : BitVec 5) (disp : BitVec 16) : Statement (.vlddU fa rb disp) := fun h => nomatch h
theorem vsts (fa : BitVec 5) (rb : BitVec 5) (disp : BitVec 16) : Statement (.vsts fa rb disp) := fun h => nomatch h
theorem vstd (fa : BitVec 5) (rb : BitVec 5) (disp : BitVec 16) : Statement (.vstd fa rb disp) := fun h => nomatch h
theorem vstwUl (fa : BitVec 5) (rb : BitVec 5) (disp : BitVec 16) : Statement (.vstwUl fa rb disp) := fun h => nomatch h
theorem vstwUh (fa : BitVec 5) (rb : BitVec 5) (disp : BitVec 16) : Statement (.vstwUh fa rb disp) := fun h => nomatch h
theorem vstsUl (fa : BitVec 5) (rb : BitVec 5) (disp : BitVec 16) : Statement (.vstsUl fa rb disp) := fun h => nomatch h
theorem vstsUh (fa : BitVec 5) (rb : BitVec 5) (disp : BitVec 16) : Statement (.vstsUh fa rb disp) := fun h => nomatch h
theorem vstdUl (fa : BitVec 5) (rb : BitVec 5) (disp : BitVec 16) : Statement (.vstdUl fa rb disp) := fun h => nomatch h
theorem vstdUh (fa : BitVec 5) (rb : BitVec 5) (disp : BitVec 16) : Statement (.vstdUh fa rb disp) := fun h => nomatch h
theorem vaddd (fa : BitVec 5) (fb : BitVec 5) (fc : BitVec 5) : Statement (.vaddd fa fb fc) := fun h => nomatch h
theorem vinsf (fa : BitVec 5) (fb : BitVec 5) (lit : BitVec 8) (fc : BitVec 5) : Statement (.vinsf fa fb lit fc) :=
  fun h => nomatch h
theorem vinsw (fa : BitVec 5) (fb : BitVec 5) (lit : BitVec 8) (fc : BitVec 5) : Statement (.vinsw fa fb lit fc) :=
  fun h => nomatch h
theorem vcpyf (fa : BitVec 5) (fc : BitVec 5) : Statement (.vcpyf fa fc) := fun h => nomatch h
theorem vextf (fa : BitVec 5) (lit : BitVec 8) (fc : BitVec 5) : Statement (.vextf fa lit fc) := fun h => nomatch h
theorem vextw (fa : BitVec 5) (lit : BitVec 8) (fc : BitVec 5) : Statement (.vextw fa lit fc) := fun h => nomatch h
theorem fimov (w : MoveWidth) (fa : BitVec 5) (rc : BitVec 5) : Statement (.fimov w fa rc) := fun h => nomatch h
theorem ifmov (w : MoveWidth) (ra : BitVec 5) (fc : BitVec 5) : Statement (.ifmov w ra fc) := fun h => nomatch h
theorem jsr (ra : BitVec 5) (rb : BitVec 5) : Statement (.jsr ra rb) := fun h => nomatch h
theorem nop : Statement (.nop) := fun h => nomatch h

end Sys2Proof.Laws.EncodableWellFormed
end

