-- ==== Sys2Proof/Laws/Reset.lean ====
section
/-! SUPPORT. What the resets leave: memory, the buffers, the lock state, the pc, the CSRs (R711–R721, R630). -/

namespace Sys2Proof.Machine

@[simp] theorem State.clearCore_mem (s : State) : s.clearCore.mem = s.mem := by simp only [State.clearCore]
@[simp] theorem State.clearCore_csr (s : State) : s.clearCore.csr = s.csr := by simp only [State.clearCore]
@[simp] theorem State.clearCore_itb (s : State) : s.clearCore.itb = Vector.replicate 32 none := by
  simp only [State.clearCore]
@[simp] theorem State.clearCore_dtb (s : State) : s.clearCore.dtb = [] := by simp only [State.clearCore]
@[simp] theorem State.clearCore_icache (s : State) :
    s.clearCore.icache = Vector.replicate 64 ⟨Vector.replicate 4 none, 0⟩ := by simp only [State.clearCore]
@[simp] theorem State.clearCore_power (s : State) : s.clearCore.power = .running := by simp only [State.clearCore]
@[simp] theorem State.clearCore_par (s : State) : s.clearCore.par = s.par := by simp only [State.clearCore]

/-- The wake-up before what the system interface held back arrives. -/
theorem State.wakeReset_cases (s : State) :
    (s.wakeReset).csr = { s.csr.wake (Config.resetWord s.freeCtr) with
      ii0 := (s.wakeReset).csr.ii0, ii1 := (s.wakeReset).csr.ii1 } ∧
    (s.inten = false ∨ s.heldIntr = 0 → (s.wakeReset).csr.ii0 = s.csr.ii0 ∧ (s.wakeReset).csr.ii1 = s.csr.ii1) := by
  have hi : s.clearCore.inten = s.inten := by simp only [State.clearCore]
  have hh : s.clearCore.heldIntr = s.heldIntr := by simp only [State.clearCore]
  unfold State.wakeReset
  dsimp only
  rw [hi]
  cases hb : s.inten
  · exact ⟨rfl, fun _ => ⟨rfl, rfl⟩⟩
  · refine ⟨rfl, ?_⟩
    rintro (h | h)
    · cases h
    · simp [State.deliverHeld, hh, h, Csrs.wake]
@[simp] theorem State.wakeReset_mem (s : State) : s.wakeReset.mem = s.mem := by
  unfold State.wakeReset
  dsimp only
  split <;> simp only [State.deliverHeld, State.clearCore_mem]
@[simp] theorem State.wakeReset_itb (s : State) : s.wakeReset.itb = Vector.replicate 32 none := by
  unfold State.wakeReset
  dsimp only
  split <;> simp only [State.deliverHeld, State.clearCore_itb]
@[simp] theorem State.wakeReset_dtb (s : State) : s.wakeReset.dtb = [] := by
  unfold State.wakeReset
  dsimp only
  split <;> simp only [State.deliverHeld, State.clearCore_dtb]
@[simp] theorem State.wakeReset_icache (s : State) : s.wakeReset.icache = Vector.replicate 64 ⟨Vector.replicate 4 none, 0⟩ := by
  unfold State.wakeReset
  dsimp only
  split <;> simp only [State.deliverHeld, State.clearCore_icache]
@[simp] theorem State.wakeReset_power (s : State) : s.wakeReset.power = .running := by
  unfold State.wakeReset
  dsimp only
  split <;> simp only [State.deliverHeld, State.clearCore_power]
@[simp] theorem State.wakeReset_par (s : State) : s.wakeReset.par = s.par := by
  unfold State.wakeReset
  dsimp only
  split <;> simp only [State.deliverHeld, State.clearCore_par]
@[simp] theorem State.wakeReset_pc (s : State) :
    s.wakeReset.pc = 0#17 ++ s.csr.priBase.extractLsb' 16 31 ++ 0x1000#16 := by
  unfold State.wakeReset
  dsimp only
  split <;> simp only [State.deliverHeld, State.entry, Csrs.wake] <;> rfl

@[simp] theorem State.coldReset_mem (s : State) (m : List Host.Cell) : (s.coldReset m).mem = imageOf m := by
  simp only [State.coldReset]
@[simp] theorem State.coldReset_csr (s : State) (m : List Host.Cell) : (s.coldReset m).csr = s.csr.cold s.par := by
  simp only [State.coldReset]
@[simp] theorem State.coldReset_itb (s : State) (m : List Host.Cell) :
    (s.coldReset m).itb = Vector.replicate 32 none := by simp only [State.coldReset, State.clearCore_itb]
@[simp] theorem State.coldReset_dtb (s : State) (m : List Host.Cell) : (s.coldReset m).dtb = [] := by
  simp only [State.coldReset, State.clearCore_dtb]
@[simp] theorem State.coldReset_par (s : State) (m : List Host.Cell) : (s.coldReset m).par = s.par := by
  simp only [State.coldReset, State.clearCore_par]
@[simp] theorem State.coldReset_pc (s : State) (m : List Host.Cell) : (s.coldReset m).pc = 0x1000 := by
  simp only [State.coldReset]

@[simp] theorem State.powerOnReset_mem (s : State) (m : List Host.Cell) : (s.powerOnReset m).mem = imageOf m := by
  simp only [State.powerOnReset]
@[simp] theorem State.powerOnReset_csr (s : State) (m : List Host.Cell) :
    (s.powerOnReset m).csr = { Csrs.reset with cpCtl := s.par.cpCtlScan.setWidth 64 } := by
  simp only [State.powerOnReset]
@[simp] theorem State.powerOnReset_itb (s : State) (m : List Host.Cell) :
    (s.powerOnReset m).itb = Vector.replicate 32 none := by simp only [State.powerOnReset, State.reset]
@[simp] theorem State.powerOnReset_dtb (s : State) (m : List Host.Cell) : (s.powerOnReset m).dtb = [] := by
  simp only [State.powerOnReset, State.reset]
@[simp] theorem State.powerOnReset_par (s : State) (m : List Host.Cell) : (s.powerOnReset m).par = s.par := by
  simp only [State.powerOnReset]

end Sys2Proof.Machine
end

