-- ==== Sys2Proof/Tests/Slice0.lean ====
section
/-! SUPPORT. The model's own tests: the well-formedness smoke tests, decoding, single steps, and for every obligation with
hypotheses a state and operands that meet them together (`witness_…`). Words of the decode tests are written out from
the match words and fields of spec/opcode_table.json. -/

namespace Sys2Proof.Tests

open Sys2Proof Sys2Proof.Machine

-- The kernel checks of this file run one after the other: each is small, and many at once need a thread each.
set_option Elab.async false

/-! ### Well-formedness: each check refuses an ill-formed term -/

theorem test_wf_vinsf : (Instr.vinsf 1 2 4 3).wellFormed = false ∧ (Instr.vinsf 1 2 3 3).wellFormed = true := by decide
theorem test_wf_vinsw : (Instr.vinsw 1 2 8 3).wellFormed = false ∧ (Instr.vinsw 1 2 7 3).wellFormed = true := by decide
theorem test_wf_vextf : (Instr.vextf 1 4 3).wellFormed = false ∧ (Instr.vextf 1 3 3).wellFormed = true := by decide
theorem test_wf_vextw : (Instr.vextw 1 8 3).wellFormed = false ∧ (Instr.vextw 1 7 3).wellFormed = true := by decide

/-! ### Decoding: one word for every row of the table with a known encoding -/

theorem test_decode_syscall :
    decodeWord 0x02A5CD68 = .ok (.sysCall 0xA5CD68) ∧
    decodeWord 0x004D3C1A = .ok (.sysCallB 0x4D3C1A) := by decide

theorem test_decode_memory_1 :
    decodeWord 0x0681128B = .ok (.call 20 1 0x128B) ∧
    decodeWord 0x0A235D9D = .ok (.ret 17 3 0x5D9D) ∧
    decodeWord 0x0C3D81E7 = .ok (.jmp 1 29 0x81E7) ∧
    decodeWord 0x81E22A96 = .ok (.ldbu 15 2 0x2A96) ∧
    decodeWord 0x85914720 = .ok (.ldhu 12 17 0x4720) ∧
    decodeWord 0x889A6E36 = .ok (.ldw 4 26 0x6E36) ∧
    decodeWord 0x8E28B4D6 = .ok (.ldl 17 8 0xB4D6) ∧
    decodeWord 0x90EBAEC6 = .ok (.ldlU 7 11 0xAEC6) ∧
    decodeWord 0x999E3B12 = .ok (.flds 12 30 0x3B12) ∧
    decodeWord 0x9C4526BB = .ok (.fldd 2 5 0x26BB) ∧
    decodeWord 0xA2A70316 = .ok (.stb 21 7 0x316) ∧
    decodeWord 0xA7522EAE = .ok (.sth 26 18 0x2EAE) := by decide

theorem test_decode_memory_2 :
    decodeWord 0xA920254B = .ok (.stw 9 0 0x254B) ∧
    decodeWord 0xAE2B9C1C = .ok (.stl 17 11 0x9C1C) ∧
    decodeWord 0xB95E2020 = .ok (.fsts 10 30 0x2020) ∧
    decodeWord 0xBF70F341 = .ok (.fstd 27 16 0xF341) ∧
    decodeWord 0xFA95BD62 = .ok (.ldi 20 21 0xBD62) := by decide

theorem test_decode_branch :
    decodeWord 0x1422C014 = .ok (.bsr 1 0x2C014) ∧
    decodeWord 0xC1DCC8F9 = .ok (.beq 14 0x1CC8F9) ∧
    decodeWord 0xC71E75DA = .ok (.bne 24 0x1E75DA) := by decide

theorem test_decode_misc :
    decodeWord 0x1B0D0000 = .ok (.memb) ∧
    decodeWord 0x19E20001 = .ok (.imemb) ∧
    decodeWord 0x18E20020 = .ok (.rtc 7 2) ∧
    decodeWord 0x19A10040 = .ok (.rcid 13) ∧
    decodeWord 0x1BAC0080 = .ok (.halt) ∧
    decodeWord 0x1A511000 = .ok (.rdF 18) ∧
    decodeWord 0x1BC61020 = .ok (.wrF 30) ∧
    decodeWord 0x1A9F1040 = .ok (.rtid 20) := by decide

theorem test_decode_csr :
    decodeWord 0x1A56FEF2 = .ok (.priRcsr 18 0xF2) ∧
    decodeWord 0x1A4CFF95 = .ok (.priWcsr 18 0x95) := by decide

theorem test_decode_priret :
    decodeWord 0x1C2BDACC = .ok (.priRet 1) ∧
    decodeWord 0x1CFCD7B0 = .ok (.priRetB 7) := by decide

theorem test_decode_memory_function_1 :
    decodeWord 0x223B0221 = .ok (.lldw 17 27 0x221) ∧
    decodeWord 0x21A418A6 = .ok (.lldl 13 4 0x8A6) ∧
    decodeWord 0x224928F6 = .ok (.ldwInc 18 9 0x8F6) ∧
    decodeWord 0x22A531A6 = .ok (.ldlInc 21 5 0x1A6) ∧
    decodeWord 0x22544301 = .ok (.ldwDec 18 20 0x301) ∧
    decodeWord 0x20715B64 = .ok (.ldlDec 3 17 0xB64) ∧
    decodeWord 0x224169E7 = .ok (.ldwSet 18 1 0x9E7) ∧
    decodeWord 0x21F57881 = .ok (.ldlSet 15 21 0x881) ∧
    decodeWord 0x230A8773 = .ok (.lstw 24 10 0x773) ∧
    decodeWord 0x23AE95C9 = .ok (.lstl 29 14 0x5C9) ∧
    decodeWord 0x20F9A2E0 = .ok (.ldwNc 7 25 0x2E0) ∧
    decodeWord 0x2307B14F = .ok (.ldlNc 24 7 0x14F) := by decide

theorem test_decode_memory_function_2 :
    decodeWord 0x2130C7EB = .ok (.lddNc 9 16 0x7EB) ∧
    decodeWord 0x2157D72E = .ok (.stwNc 10 23 0x72E) ∧
    decodeWord 0x2267E12B = .ok (.stlNc 19 7 0x12B) ∧
    decodeWord 0x220DF2A3 = .ok (.stdNc 16 13 0x2A3) ∧
    decodeWord 0x96B908F2 = .ok (.priLdwP 21 25 0x8F2) ∧
    decodeWord 0x958C164E = .ok (.priLdlP 12 12 0x64E) ∧
    decodeWord 0x95F42668 = .ok (.priLdwIncP 15 20 0x668) ∧
    decodeWord 0x94C23FC1 = .ok (.priLdlIncP 6 2 0xFC1) ∧
    decodeWord 0x95C541C2 = .ok (.priLdwDecP 14 5 0x1C2) ∧
    decodeWord 0x966151A3 = .ok (.priLdlDecP 19 1 0x1A3) ∧
    decodeWord 0x96446895 = .ok (.priLdwSetP 18 4 0x895) ∧
    decodeWord 0x97CB79D1 = .ok (.priLdlSetP 30 11 0x9D1) := by decide

theorem test_decode_memory_function_3 :
    decodeWord 0x945B8353 = .ok (.priLdwV 2 27 0x353) ∧
    decodeWord 0x95849A26 = .ok (.priLdlV 12 4 0xA26) ∧
    decodeWord 0x97CBA9A2 = .ok (.priLdwVpte 30 11 0x9A2) ∧
    decodeWord 0x95E3B1D8 = .ok (.priLdlVpte 15 3 0x1D8) ∧
    decodeWord 0xB5E70FA5 = .ok (.priStwP 15 7 0xFA5) ∧
    decodeWord 0xB5EF14FD = .ok (.priStlP 15 15 0x4FD) ∧
    decodeWord 0xB4838BFE = .ok (.priStwV 4 3 0xBFE) ∧
    decodeWord 0xB6E897A8 = .ok (.priStlV 23 8 0x7A8) := by decide

theorem test_decode_operate_register :
    decodeWord 0x4144001D = .ok (.addw 10 4 29) ∧
    decodeWord 0x41A1021E = .ok (.mulw 13 1 30) ∧
    decodeWord 0x40580311 = .ok (.mull 2 24 17) ∧
    decodeWord 0x433C033A = .ok (.umulh 25 28 26) ∧
    decodeWord 0x4156050B = .ok (.cmpeq 10 22 11) ∧
    decodeWord 0x41F20759 = .ok (.bis 15 18 25) ∧
    decodeWord 0x405A0782 = .ok (.xor 2 26 2) := by decide

theorem test_decode_operate_literal :
    decodeWord 0x490F2016 = .ok (.addwLit 8 0x79 22) ∧
    decodeWord 0x4841E217 = .ok (.mulwLit 2 0xF 23) ∧
    decodeWord 0x4934A312 = .ok (.mullLit 9 0xA5 18) ∧
    decodeWord 0x4ABA432E = .ok (.umulhLit 21 0xD2 14) ∧
    decodeWord 0x4ACC451C = .ok (.cmpeqLit 22 0x62 28) ∧
    decodeWord 0x4960A75E = .ok (.bisLit 11 0x5 30) ∧
    decodeWord 0x49656793 = .ok (.xorLit 11 0x2B 19) := by decide

theorem test_decode_fp_operate :
    decodeWord 0x61E10026 = .ok (.faddd 15 1 6) ∧
    decodeWord 0x613C0A0F = .ok (.rfpcr 9) ∧
    decodeWord 0x62E30A23 = .ok (.wfpcr 23) ∧
    decodeWord 0x61DC0A90 = .ok (.setfpec0) ∧
    decodeWord 0x60150ABC = .ok (.setfpec1) ∧
    decodeWord 0x62B40AD2 = .ok (.setfpec2) ∧
    decodeWord 0x63150AF0 = .ok (.setfpec3) := by decide
/-- Words that stand for nothing (R390): a reserved opcode, reserved functions, a non-zero field [15:13] (R401). -/
theorem test_decode_reserved :
    decodeWord 0x24000000 = .error (.reservedOpcode 0x09) ∧
    decodeWord 0x18000002 = .error (.reservedFunction 0x06 2) ∧
    decodeWord 0x9400C000 = .error (.reservedFunction 0x25 0xC000) ∧
    decodeWord 0xB4002000 = .error (.reservedFunction 0x2D 0x2000) ∧
    decodeWord 0x40430020 = .error (.reservedFunction 0x10 0x20) := by decide

/-- A row of unknown encoding decodes to what the parameter BaseISA gives its word; BR, STL_U and LDIH are words of BaseISA
alone (R404, OPEN-1). -/
theorem test_decode_parameter :
    decodeFetched { Params.default with extEnc := [(0xFC000000, .vldd 1 2 0)] } 0xFC000000 = .ok (.vldd 1 2 0) ∧
    decodeFetched Params.default 0xFC000000 = .error (.baseInstruction 0x3F) ∧
    decodeFetched Params.default 0x10000000 = .error (.baseInstruction 0x04) ∧
    decodeFetched Params.default 0xB0000000 = .error (.baseInstruction 0x2C) := by decide

/-- The host's numbering: bit 0 is the lowest bit of the first byte (R380). -/
theorem test_table_word : decodeTableWord 32 0x40430003 = some (.addw 2 3 3) ∧
    decode [0x03, 0x00, 0x43, 0x40, 0x99] = .ok (.addw 2 3 3, [0x99]) ∧ decode [0x03, 0x00, 0x43] = .error .tooFewBytes := by
  decide

/-! ### States -/

/-- VM on a superpage page: addresses below 2^52 are physical (R294). -/
def vm : State := { State.reset with pc := 0x2001, env := [[]] }
/-- KM and UM, and HM with nothing passing at the boundary. -/
def km : State := { State.reset with pc := 0x2002, env := [[]] }
def um : State := { State.reset with pc := 0x2003, env := [[]] }
def hm : State := { State.reset with env := [[]] }

/-- The state after one step, and the reset state where there is none. -/
def after (s : State) : State :=
  match step s with
  | .next t => t
  | _ => State.reset

/-- One instruction word run in a state. -/
def run (s : State) (w : Nat) : State := after (s.withFetchWord 32 w)

/-- A load word that writes nothing free: a DTB entry mapping page `n` to itself for HM, KM and UM. -/
def mapped (n : BitVec 35) : DtbEntry :=
  ⟨n.setWidth 40, n, 0, true, true, true, true, true, true, true, true, false, false, false, 0, 0⟩

/-! ### Single steps: results worked out by hand from the rules -/

/-- ADDW wraps at 32 bits and sign-extends (R866): 0x7FFFFFFF + 1. -/
theorem test_addw_wraps : (run ((hm.setX 9 0x7FFFFFFF).setX 3 1) 0x41230003).x[3] = 0xFFFFFFFF80000000 := by decide +kernel

/-- UMULH (R872): (2^64 - 1)^2 has the high half 2^64 - 2. -/
theorem test_umulh : (run (hm.setX 9 0xFFFFFFFFFFFFFFFF) 0x41290323).x[3] = 0xFFFFFFFFFFFFFFFE := by decide +kernel

/-- CMPEQ with the literal 200, unsigned (R867, R802), source and destination the same register. -/
theorem test_cmpeq_literal : (run (hm.setX 9 200) 0x49390509).x[9] = 1 := by decide +kernel

/-- LDI sign-extends its displacement (R863): R9 - 1. -/
theorem test_ldi_negative : (run (hm.setX 9 0) 0xF869FFFF).x[3] = 0xFFFFFFFFFFFFFFFF := by decide +kernel

/-- LDIH, a row of BaseISA (R404): R9 plus the displacement shifted left by 16. -/
theorem test_ldih : (run (hm.setX 9 5) 0xFC690002).x[3] = 0x20005 := by decide +kernel

/-- A write to R31 is dropped (R31). -/
theorem test_write_r31 : (run (hm.setX 9 5) 0x4129001F).x = (hm.setX 9 5).x := by decide +kernel

/-- STW stores the low word, little-endian (R821, R224), at the top of a page. -/
theorem test_stw : let t := run ((vm.setX 9 0x4FFC).setX 3 0x1122334455667788) 0xA8690000
    readMem t.mem 0x4FFC 4 = 0x55667788 ∧ memGet t.mem 0x4FFC = 0x88 ∧ memGet t.mem 0x5000 = 0 := by decide +kernel

/-- LDW sign-extends the word (R817). -/
theorem test_ldw_sign : (run ({ vm with mem := writeMem [] 0x4000 4 0x80000001 }.setX 9 0x4000) 0x88690000).x[3]
    = 0xFFFFFFFF80000001 := by decide +kernel

/-- A misaligned LDL raises UNALIGN (R544): entry 0xB00 in HM, EXC_PC keeps the mode, DVA the address, REG = 3. -/
theorem test_unalign : let t := run (vm.setX 9 0x4004) 0x8C690000
    t.pc = 0xB00 ∧ t.csr.excPc = 0x2001 ∧ t.csr.dva = 0x4004 ∧ t.csr.excSum = 0x300 ∧ t.csr.dsStat = 0x230 := by
  decide +kernel

/-- BEQ taken: pc + 4 - 4 in the same mode (R806); not taken: pc + 4. -/
theorem test_beq : (run vm 0xC13FFFFF).pc = 0x2001 ∧ (run (vm.setX 9 1) 0xC13FFFFF).pc = 0x2005 := by decide +kernel

/-- BSR links with the mode in the low bits (R808, R39). -/
theorem test_bsr : let t := run vm 0x14600002
    t.pc = 0x200D ∧ t.x[3] = 0x2005 := by decide +kernel

/-- CALL keeps the mode and drops the low bits of the target (R805, R809). -/
theorem test_call : (run (vm.setX 9 0x5002) 0x04690000).pc = 0x5001 := by decide +kernel

/-- SYS_CALL of R411's example: function 0x83 in UM with PRI_BASE = 0x900000 goes to 0x906180 (95_test_vectors.md 1.1). -/
theorem test_sys_call :
    let t := enterSysCall { um with csr := { um.csr with priBase := 0x900000 } } 0x83
    t.pc = 0x906180 ∧ t.sr[9] = 0x2007 := by decide +kernel

/-- PRI_RET in HM loads the mode from the register; outside HM it raises OPCDEC (R415, R418). -/
theorem test_pri_ret : (run (hm.setX 9 0x7003) 0x1D200000).pc = 0x7003 ∧ (run (vm.setX 9 0x7003) 0x1D200000).pc = 0xD80 := by
  decide +kernel

/-- PRI_WCSR and PRI_RCSR of PRI_BASE (R110): the reserved bits read 0. -/
theorem test_pri_base : let t := run (hm.setX 9 0xFFFFFFFFFFFFFFFF) 0x193FFF10
    t.csr.priBase = 0x00007FFFFFFF0000 ∧ (run { t with env := [[]] } 0x187FFE10).x[3] = 0x00007FFFFFFF0000 := by decide +kernel

/-- LDW_INC returns the old word and stores the next (R464). -/
theorem test_ldw_inc : let t := run ({ vm with mem := writeMem [] 0x4000 4 7 }.setX 9 0x4000) 0x20692000
    t.x[3] = 7 ∧ readMem t.mem 0x4000 4 = 8 := by decide +kernel

/-- LLDL sets lock_valid and the longword granularity (R457). -/
theorem test_lldl : let t := run (vm.setX 9 0x4000) 0x20691000
    t.lock.valid = true ∧ t.lock.long = true ∧ t.lock.addr = 0x4000 := by decide +kernel

/-- FADDD and VADDD: 1.5 + 2.25 = 3.75, exactly (R875, R876). -/
theorem test_faddd : addElement 0 0 0 false 0x3FF8000000000000 0x4002000000000000 = { value := 0x400E000000000000 } := by
  decide +kernel

/-- The largest double doubled overflows (R565): infinity to nearest, the largest double towards zero. -/
theorem test_overflow :
    (addElement 0 0x0800000000000000 0 false 0x7FEFFFFFFFFFFFFF 0x7FEFFFFFFFFFFFFF).value = 0x7FF0000000000000 ∧
    (addElement 0 0 0 false 0x7FEFFFFFFFFFFFFF 0x7FEFFFFFFFFFFFFF).value = 0x7FEFFFFFFFFFFFFF ∧
    (addElement 0 0 0 false 0x7FEFFFFFFFFFFFFF 0x7FEFFFFFFFFFFFFF).ovf = true := by decide +kernel

/-- Rounding of 1 + 2^-53 (R200): a tie goes to the even 1.0, and with DYN = 3 up to the next double; INE is raised. -/
theorem test_round : let dyn : W64 := 0x0C00000000000000
    (addElement 0 0x0800000000000000 0 false 0x3FF0000000000000 0x3CA0000000000000).value = 0x3FF0000000000000 ∧
    (addElement 0 dyn 0 false 0x3FF0000000000000 0x3CA0000000000000).value = 0x3FF0000000000001 ∧
    (addElement 0 dyn 0 false 0x3FF0000000000000 0x3CA0000000000000).ine = true := by decide +kernel

/-- The single 1.0 widens to the double 1.0 and narrows back (R823, R825). -/
theorem test_single : singleToReg 0x3F800000 = 0x3FF0000000000000 ∧ regToSingle 0x3FF0000000000000 = 0x3F800000 := by
  decide

/-- An ITB miss at an address with bit 52 = 0 (R533): entry 0x980. -/
theorem test_itb_miss : (after um).pc = 0x980 ∧ (after um).csr.excPc = 0x2003 := by decide +kernel

/-- R245: a non-cacheable store seen early is seen by a cacheable load of its byte and by no non-cacheable one. -/
theorem test_early_store_seen : ((vm.pushEarly 0x4000 1 7).load false 0x4000 1).1 = 7 ∧
    ((vm.pushEarly 0x4000 1 7).load true 0x4000 1).1 = 0 := by decide +kernel

/-- R245: a non-cacheable store keeps the place in which it was seen early, under a cacheable store that came after that. -/
theorem test_early_store_place :
    memGet (((vm.pushEarly 0x4000 1 7).write true 0x4000 1 9).write false 0x4000 1 7).mem 0x4000 = 9 ∧
    memGet ((vm.pushEarly 0x4000 1 7).write false 0x4000 1 7).mem 0x4000 = 7 := by decide +kernel

/-! ### Witnesses -/

/-- The hypotheses of `ready` as a computation. -/
def readyB (s : State) (f : FpClass) : Bool := !unimplemented s && !iaHit s && fpEnabled s.csr f

theorem ready_of {s : State} {f : FpClass} (h : readyB s f = true) : ready s f := by
  simpa [readyB, ready, Bool.and_eq_true, and_assoc] using h

/-- The hypotheses of `partOk` as a computation. -/
def partB (s : State) (a : Acc) (va : W64) (pa : PAddr) : Bool :=
  (decide (a.form = .phys) || canonical va) && decide (va.toNat % a.align = 0)
    && decide (translateD s a.form a.isR a.isW va = .page pa) && !a.typeIllegal pa
    && decide (s.armedData = none) && !s.par.fpga && platformOk s (a.base pa) (a.isW && !a.isR) a.size
    && (!(a.isR && !isIo pa) || noRace s (a.uncached pa) (memAddr (a.base pa)) a.size)
    && (!(a.isW && !isIo pa && !a.cached pa) || !s.track.hasEarly (memAddr (a.base pa)) a.size)
    && (decide (a.size ≤ 8) || decide (s.midWrites = []))

theorem partOk_of {s : State} {a : Acc} {va : W64} {pa : PAddr} (h : partB s a va pa = true) : partOk s a va pa := by
  simp only [partB, Bool.and_eq_true, Bool.or_eq_true, decide_eq_true_eq, Bool.not_eq_true'] at h
  obtain ⟨⟨⟨⟨⟨⟨⟨⟨⟨h1, h2⟩, h3⟩, h4⟩, h5⟩, h6⟩, h7⟩, h8⟩, h9⟩, h10⟩ := h
  refine ⟨h1, h2, h3, h4, h5, h6, h7, fun hr hio => ?_, fun hw hio hc => ?_, h10⟩
  · simpa [hr, hio] using h8
  · simpa [hw, hio, hc] using h9

/-- The hypotheses of `accessOk` as a computation. -/
def accessB (s : State) (a : Acc) (va : W64) (pa : PAddr) : Bool :=
  partB s a va pa && (match matchPhase s a va pa with | .ok _ => true | .error _ => false)

theorem accessOk_of {s : State} {a : Acc} {va : W64} {pa : PAddr} (h : accessB s a va pa = true) : accessOk s a va pa := by
  rw [accessB, Bool.and_eq_true] at h
  refine ⟨partOk_of h.1, ?_⟩
  have h5 := h.2
  split at h5
  · rename_i u hu
    exact hu
  · exact absurd h5 (by decide)

/-- No write of the CSR waits for a barrier, as a computation. -/
theorem settled_of {s : State} {n : BitVec 8} (h : s.unsynced = []) : settledCsr s n := by
  intro e he
  rw [h] at he
  cases he

/-- A state with one CSR file. -/
def withCsr (s : State) (f : Csrs → Csrs) : State := { s with csr := f s.csr }

theorem witness_DecodeEncode : encode (.ldw 1 2 8) = some 0x88220008 := by decide

theorem witness_ReservedWordRaisesOpcdec : let s : State := { hm with fgroup := 0x24000000 }
    decodeFetched s.par s.word = .error (.reservedOpcode 0x09) ∧ ∀ r ∈ s.par.base, s.word &&& r.mask ≠ r.value := by
  decide +kernel
theorem witness_ReservedWordRaisesOpcdec_base :
    let word : BitVec 128 → State := fun g => { hm with fgroup := g }
    (∀ g, (word g).par.base = baseRows ∧ (word g).par.extEnc = []) ∧ (word 0x10000000).opcode = 0x04 ∧
    (word 0xB0000000).opcode = 0x2C ∧ (word 0xFC000000).opcode = 0x3F ∧ ready (word 0xFC000000) .none :=
  ⟨fun _ => ⟨rfl, rfl⟩, by decide +kernel, by decide +kernel, by decide +kernel, ready_of (by decide +kernel)⟩

theorem witness_StepRunsDecoded : let s := hm.withFetchWord 32 0x40430003
    (boundary s).power = .running ∧ pendingEntry (boundary s) = none ∧
    ∃ t, fetch (boundary s) = .ok t ∧ decodeFetched t.par t.word = .ok (.addw 2 3 3) := by
  refine ⟨by decide +kernel, by decide +kernel, ?_⟩
  have h : (match fetch (boundary (hm.withFetchWord 32 0x40430003)) with
      | .ok t => decodeFetched t.par t.word
      | .error _ => .error .tooFewBytes) = .ok (.addw 2 3 3) := by decide +kernel
  split at h
  · rename_i t ht
    exact ⟨t, ht, h⟩
  · cases h

/-- HM with a BaseISA row, asked before the table, for the word of ADDW, and the word in the latched group. -/
def ownRow : State :=
  { hm.withFetchWord 32 0x40430003 with par := { hm.par with base := [⟨0xFC00FFE0, 0x40000000, .operate false false⟩] } }

theorem witness_StepRunsDecoded_base : (boundary ownRow).power = .running ∧ pendingEntry (boundary ownRow) = none ∧
    ∃ t, fetch (boundary ownRow) = .ok t ∧ (∀ e ∈ t.par.extEnc, e.1 ≠ t.word) ∧
      baseRow t.par t.word = some ⟨0xFC00FFE0, 0x40000000, .operate false false⟩ := by
  refine ⟨by decide +kernel, by decide +kernel, ?_⟩
  have h : (match fetch (boundary ownRow) with
      | .ok t => decide (t.par.extEnc = []) && decide (baseRow t.par t.word = some ⟨0xFC00FFE0, 0x40000000, .operate false false⟩)
      | .error _ => false) = true := by decide +kernel
  split at h
  · rename_i t ht
    simp only [Bool.and_eq_true, decide_eq_true_eq] at h
    exact ⟨t, ht, by simp [h.1], h.2⟩
  · cases h

/-- No row of BaseISA takes a privileged encoding (R6): PRI_WCSR stays what it is under a row that names every word. -/
theorem test_privileged_rows : baseRow { hm.par with base := [⟨0, 0, .hint⟩] } 0x187FFF20 = none ∧
    baseRow { hm.par with base := [⟨0, 0, .hint⟩] } 0x40430003 = some ⟨0, 0, .hint⟩ := by decide +kernel

/-- STL_U at 0x1007 with the low three bits ignored goes to 0x1000 (R404); a store of 8 bytes at 0x1FFE without an alignment
rule has 2 bytes in the first page; VSTW_U at 0x101C has 4 below the 32-byte boundary (R848). -/
theorem test_base_address : maskedAddr { access := .store, size := 8, align := 1, clear := 3 } 0x1007 = 0x1000 ∧
    lowPart 0x1FFE 8 (cutAt { access := .store, size := 8, align := 1 }) = 2 ∧
    lowPart 0x101C 32 (cutAt { access := .store, part := .cut, size := 32, align := 1 }) = 4 := by decide +kernel

/-- A read of I/O space that waits shows nothing outside; performed, it shows one read (R256 item 3). -/
theorem test_pending_io : let r := pendRead hm (loadAcc 3 4) 0x800000000010
    r.2.out = hm.out ∧ (r.2.ioReads r.1.2).out = .ioRead 0x10 4 (ioValue hm 0x10 4) :: hm.out := ⟨rfl, rfl⟩

/-- What IFMOVD brings is integer data where the environment says so (R882, R884). -/
theorem test_ifmov_mark : ∀ b : Bool, (match exec (.ifmov .d 9 1) { vm with intData := b } with
    | .next t => t.getInts 1 | _ => 15#4) = (if b then 1 else 0) := by decide +kernel

theorem witness_FetchedWord_miss :
    hm.icache[hm.icSet].ways = Vector.replicate 4 none ∧ (∀ e ∈ hm.unsynced, e.cache = none) ∧ hm.armedFetch = none ∧
    translateI hm hm.pc = .page 0x1000 true hm.csr.vpn hm.csr.upn ∧ memAddr 0x1000 / 4 * 4 + 4 ≤ hm.par.memSize ∧
    memAddr 0x1000 % 128 = hm.pc.toNat % 128 := by decide +kernel

theorem witness_FetchedWord_ecc :
    let s := withCsr { hm with armedFetch := some .multiEcc } (fun c => { c with scCtl := 0x1010FF &&& ~~~0x10000 })
    s.icache[s.icSet].ways = Vector.replicate 4 none ∧ (∀ e ∈ s.unsynced, e.cache = none) ∧
    s.armedFetch = some .multiEcc ∧ translateI s s.pc = .page 0x1000 true s.csr.vpn s.csr.upn ∧
    memAddr 0x1000 / 4 * 4 + 4 ≤ s.par.memSize ∧ s.csr.scCtl.getLsbD 16 = false ∧ s.csr.scCtl.getLsbD 12 = true := by
  decide +kernel

/-- A line that holds the reset pc's 128 bytes. -/
def line : IcLine := ⟨0, 0, 0, true, 0, 32, 0x40430003, false, false⟩
/-- HM with that line in the instruction cache. -/
def cached : State := { hm with icache := hm.icache.set 32 ⟨#v[some line, none, none, none], 0⟩ }

theorem witness_FetchedWord_hit : icLookup cached = some line ∧
    (∀ w : Fin 4, ∀ x, (cached.icache[cached.icSet]).ways[w] = some x → x.badTag = false) ∧ line.badTag = false ∧
    line.badData = false := by
  refine ⟨by decide +kernel, ?_, rfl, rfl⟩
  intro w x h
  have hx : ∀ w : Fin 4, ((cached.icache[cached.icSet]).ways[w]).all (fun x => !x.badTag) = true := by decide +kernel
  have := hx w
  rw [h] at this
  simpa using this

/-- An ITB entry for page 1, the page of `um`'s pc, that forbids UM. -/
def deniesUm : ItbEntry := ⟨1, 1, 0, false, true, true, false, 0, 0⟩

/-- UM fetching with an empty ITB, and with one entry that hits and forbids the mode. -/
theorem witness_FetchMisses :
    (∀ s ∈ [um, { um with itb := um.itb.set 5 (some deniesUm) }],
      let u := boundary s
      u.power = .running ∧ pendingEntry u = none ∧ u.icache[u.icSet].ways = Vector.replicate 4 none ∧
      (∀ e ∈ u.unsynced, e.cache = none) ∧ u.mode = 3#2 ∧ u.itb = s.itb ∧
      (deniesUm.va >>> (5 * deniesUm.gh.toNat) = u.pc.extractLsb' 13 40 >>> (5 * deniesUm.gh.toNat) ∧
        deniesUm.vpn = u.csr.vpcr.extractLsb' 44 2 ∧ deniesUm.upn = u.csr.upcr.extractLsb' 39 8)) ∧
    (∀ k : Fin 32, um.itb[k] = none) ∧ deniesUm.uee = false := by decide +kernel

/-- A state in UM with the requests `r`, all enabled, and INT_VEC as after reset. -/
def asked (r : BitVec 256) : State :=
  withCsr um (fun c => { c with raw := r, ier := BitVec.allOnes 256, iiEr := 7 })

theorem witness_InterruptEntries_priority :
    um.mode ≠ 0#2 ∧ hm.mode = 0#2 ∧ um.csr.mchkVec = 0xFE ∧ um.csr.sleepVec = 0xFF ∧
    pendingEntry (asked (BitVec.twoPow 256 0xFE ||| BitVec.twoPow 256 0xFF ||| 1)) = some 0xF80 ∧
    pendingEntry (asked (BitVec.twoPow 256 0xFF ||| 1)) = some 0xF00 ∧
    pendingEntry (asked 1) = some 0xE80 ∧ pendingEntry (asked (BitVec.twoPow 256 0xFD)) = some 0xE80 ∧
    pendingEntry (withCsr (asked 0) (fun c => { c with ii0 := 0x8000 })) = some 0xE00 ∧
    pendingEntry (withCsr (asked 0) (fun c => { c with ii1 := 1 })) = some 0xE00 ∧
    pendingEntry (withCsr (asked 0) (fun c => { c with iiMail := 0x1F })) = some 0xE00 ∧
    pendingEntry (withCsr (asked 0) (fun c => { c with iiMail := 0x20 })) = none ∧
    pendingEntry (asked 0) = none := by decide +kernel

theorem witness_InterruptEntries_settled : settledInterrupts (asked 1) := by
  intro e he
  cases he
theorem witness_InterruptEntries_entry : (asked 1).power = .running ∧ pendingEntry (asked 1) = some 0xE80 := by
  decide +kernel

theorem witness_MemoryLaws :
    Memory.wf [(4, 1), (9, 2)] = true ∧ ∀ a, memGet [((4 : Nat), (1 : BitVec 8))] a = memGet [(4, 1)] a :=
  ⟨by decide, fun _ => rfl⟩

theorem witness_InvariantKept : StateInv hm ∧ ∃ t, step hm = .next t := by
  refine ⟨⟨rfl, ?_, Nat.zero_le _⟩, ?_⟩
  · intro i j _ a b ha
    simp [hm, State.reset] at ha
  · have h : (match step hm with | .next _ => true | _ => false) = true := by decide +kernel
    split at h
    · rename_i t ht
      exact ⟨t, ht⟩
    · cases h

theorem witness_ModeChanges : ∃ t, exec .nop vm = .next t := ⟨_, rfl⟩
theorem witness_ModeChanges_return : ∃ t, exec (.priRet 9) hm = .next t := ⟨_, rfl⟩
theorem witness_ControlStateProtected : vm.mode ≠ 0#2 ∧ ∃ t, exec (.sysCall 0x80) vm = .next t :=
  ⟨by decide +kernel, _, rfl⟩

/-- HM with the system registers in view (IS_CTL[SRE] = 1). -/
def sre : State := withCsr hm (fun c => { c with isCtl := 0x10001 })

theorem witness_RegisterFiles : settledCsr sre 0x11 ∧ settledCsr hm 0x11 ∧ sre.mode = 0#2 ∧ sre.csr.isCtl.getLsbD 0 = true ∧
    3#5 ∉ [1#5, 2#5, 4#5, 5#5, 6#5, 7#5, 20#5, 21#5, 22#5, 23#5] ∧ hm.csr.isCtl.getLsbD 0 = false ∧ vm.mode ≠ 0#2 := by
  refine ⟨settled_of rfl, settled_of rfl, ?_⟩
  decide +kernel

theorem witness_PrivilegedOutsideHm : vm.mode ≠ 0#2 ∧ km.mode ≠ 0#2 ∧ um.mode ≠ 0#2 := by decide +kernel

/-- VM with the floating enables in UPCR[2:0]. -/
def fp (u : W64) : State := withCsr vm (fun c => { c with upcr := u })

theorem witness_FloatingDisabled :
    (unimplemented (fp 5) = false ∧ iaHit (fp 5) = false ∧ (fp 5).csr.upcr.getLsbD 1 = false) ∧
    (unimplemented (fp 6) = false ∧ iaHit (fp 6) = false ∧ (fp 6).csr.upcr.getLsbD 0 = false) := by decide +kernel
theorem witness_FloatingDisabled_simd :
    unimplemented (fp 3) = false ∧ iaHit (fp 3) = false ∧ (fp 3).csr.upcr.getLsbD 2 = false := by decide +kernel

/-- A state whose pc, UPN and VPN match IA_MATCH under a full IA_MASK. -/
def watched : State := withCsr vm (fun c => { c with iaMatch := 0x8000000000002001 })

theorem witness_AddressMatchStops :
    settledCsr watched 0x1A ∧ settledCsr watched 0x1B ∧
    legalHere watched (.addw 1 2 3) = true ∧ unimplemented watched = false ∧ watched.csr.iaMatch.getLsbD 63 = true ∧
    (∀ n, n < 53 → watched.csr.iaMask.getLsbD n = true → watched.csr.iaMatch.getLsbD n = watched.pc.getLsbD n) ∧
    (∀ n, n < 8 → watched.csr.iaMask.getLsbD (53 + n) = true →
      watched.csr.iaMatch.getLsbD (53 + n) = watched.csr.upcr.getLsbD (39 + n)) ∧
    (∀ n, n < 2 → watched.csr.iaMask.getLsbD (61 + n) = true →
      watched.csr.iaMatch.getLsbD (61 + n) = watched.csr.vpcr.getLsbD (44 + n)) := by
  refine ⟨settled_of rfl, settled_of rfl, ?_⟩
  decide +kernel

/-- Each kind is legal somewhere: in VM the SYS_CALL and the HALT, RD_F to R31, the evicts of the default CP_CTL; in HM the
privileged ones; in its pair a lock store and an RD_F. -/
theorem witness_AddressMatchStops_legal :
    (∀ i ∈ [Instr.sysCall 0x80, .sysCallB 0x40, .halt, .rdF 31, .flushd 1 0, .evictdl 1 0, .evictdg 1 0],
      legalHere watched i = true) ∧
    (∀ i ∈ [Instr.priRcsr 1 0, .priWcsr 1 0, .priRet 1, .priLdwP 1 2 0, .priStlV 1 2 0], legalHere hm i = true) ∧
    (let s : State := { watched with fgroup := 0x18231000#32 ++ 0x20229004#32 ++ 0x18231000#32 ++ 0x20229004#32 }
     legalHere s (.lstw 1 2 4) = true ∧ legalHere s (.lstl 1 2 4) = true ∧
       legalHere { s with pc := s.pc + 4 } (.rdF 1) = true) := by decide +kernel

theorem witness_EvictsDisabled : let s := withCsr vm (fun c => { c with cpCtl := 0 })
    s.csr.cpCtl.getLsbD 4 = false ∧ s.csr.cpCtl.getLsbD 3 = false := by decide +kernel

theorem witness_IntegerOperate : ready vm .none := ready_of (by decide +kernel)

theorem witness_ConditionalBranches :
    ready vm .none ∧ vm.getX 9 = 0 ∧ (vm.setX 9 1).getX 9 ≠ 0 ∧ idaHit vm (vm.pc + 4 + 4 * (8#21).signExtend 64) = false :=
  ⟨ready_of (by decide +kernel), by decide +kernel, by decide +kernel, by decide +kernel⟩

theorem witness_JumpsAndLinks :
    ready vm .none ∧ canonical (vm.getX 9) = true ∧ idaHit vm (vm.getX 9) = false ∧
    idaHit vm (vm.pc + 4 + 4 * (8#21).signExtend 64) = false :=
  ⟨ready_of (by decide +kernel), by decide +kernel, by decide +kernel, by decide +kernel⟩

/-- VM with IDA_MATCH at 0x4000 in VM mode, R9 pointing there, and R10 no canonical address. -/
def caught : State := withCsr ((vm.setX 9 0x4000).setX 10 0x20000000000000) (fun c => { c with idaMatch := 0x20000000004001 })

theorem witness_JumpTargetChecks :
    ready caught .none ∧ caught.getX 10 ≠ ((caught.getX 10).setWidth 53).signExtend 64 ∧
    canonical (caught.getX 9) = true ∧ idaHit caught (caught.getX 9) = true ∧
    idaHit caught (caught.pc + 4 + 4 * (0x7FF#21).signExtend 64) = true :=
  ⟨ready_of (by decide +kernel), by decide +kernel, by decide +kernel, by decide +kernel, by decide +kernel⟩

theorem witness_SysCallEnters :
    ready vm .none ∧ ready km .none ∧ ready um .none ∧ ready hm .none ∧ hm.mode = 0#2 ∧ (0xFF#25).toNat < 256 ∧
    um.mode ≠ 0#2 ∧ (0x80 ≤ (0xBF#25).toNat ∧ (0xBF#25).toNat < 0xC0) ∧ ((0x3F#25).toNat < 0x40 ∧ km.mode = 2#2) ∧
    (0x40 ≤ (0x7F#25).toNat ∧ (0x7F#25).toNat < 0x80 ∧ vm.mode = 1#2) := by
  refine ⟨ready_of ?_, ready_of ?_, ready_of ?_, ready_of ?_, ?_⟩ <;> decide +kernel

theorem witness_SysCallEntryAddress :
    (sysCallEntry hm 0).toNat = 0x4000 ∧ (sysCallEntry hm 0x3F).toNat = 0x5F80 ∧ (sysCallEntry hm 0x40).toNat = 0x2000 ∧
    (sysCallEntry hm 0x7F).toNat = 0x3F80 ∧ (sysCallEntry hm 0x80).toNat = 0x6000 ∧ (sysCallEntry hm 0xBF).toNat = 0x7F80 := by
  decide +kernel

theorem witness_IllegalSysCall :
    256 ≤ (0x100#25).toNat ∧ (um.mode ≠ 0#2 ∧ 0xC0 ≤ (0xC0#25).toNat) ∧ (um.mode = 3#2 ∧ (0x3F#25).toNat < 0x40) ∧
    (km.mode ≠ 1#2 ∧ 0x40 ≤ (0x40#25).toNat ∧ (0x7F#25).toNat < 0x80) := by decide +kernel

/-- Byte 4 that only a cacheable store wrote since the last MEMB, and byte 8 that a late non-cacheable store wrote too. -/
theorem witness_BarriersAndReads :
    let s : State := { vm with track := ⟨[⟨.cached, 8, 1, 1⟩, ⟨.cached, 4, 1, 7⟩], [⟨8, 1, 2⟩], [(8, 0)], []⟩ }
    ready s .none ∧ Memory.wf s.mem = true ∧ (withCsr s (fun c => { c with cpCtl := 0x20 })).csr.cpCtl.getLsbD 5 = true ∧
    (∀ e ∈ s.track.late, e.byte 4 = none) ∧ (∃ e ∈ s.track.late, e.byte 8 = some 2) ∧
    (∃ e ∈ s.track.stream, e.kind ≠ .early ∧ e.byte 8 = some 1) ∧
    (withCsr s (fun c => { c with scCtl := 0xFF })).csr.scCtl.getLsbD 20 = false :=
  ⟨ready_of (by decide +kernel), rfl, by decide +kernel, by decide +kernel, by decide +kernel, by decide +kernel,
    by decide +kernel⟩

theorem witness_HaltAndSleep :
    (ready vm .none ∧ vm.mode ≠ 0#2) ∧ (ready hm .none ∧ hm.mode = 0#2 ∧ hm.par.haltInHmIsOpcdec = true) ∧
    (let s : State := { hm with par := { Params.default with haltInHmIsOpcdec := false } }
     ready s .none ∧ s.mode = 0#2 ∧ s.par.haltInHmIsOpcdec = false) ∧
    pendingEntry { asked 0 with power := .shallowSleep } = none ∧
    pendingEntry { asked 1 with power := .shallowSleep } = some 0xE80 := by
  refine ⟨⟨ready_of ?_, ?_⟩, ⟨ready_of ?_, ?_⟩, ⟨ready_of ?_, ?_⟩, ?_⟩ <;> decide +kernel

theorem witness_CsrRead : ready hm .none ∧ hm.mode = 0#2 := ⟨ready_of (by decide +kernel), by decide +kernel⟩

theorem witness_CsrWrites : let s := (hm.setX 9 0x1001).setX 10 0x3
    ready s .none ∧ s.mode = 0#2 ∧ (s.getX 9).extractLsb' 0 4 ∈ [15#4, 1#4, 2#4, 4#4, 8#4] ∧
    (s.getX 9).extractLsb' 0 8 ∈ [255#8, 1#8, 2#8, 4#8, 8#8, 16#8, 32#8, 64#8, 128#8] ∧
    (s.getX 10).extractLsb' 0 4 ∉ [15#4, 1#4, 2#4, 4#4, 8#4] ∧
    (s.getX 10).extractLsb' 0 8 ∉ [255#8, 1#8, 2#8, 4#8, 8#8, 16#8, 32#8, 64#8, 128#8] := by
  refine ⟨ready_of ?_, ?_⟩ <;> decide +kernel

/-- Every write but those of the way enables is taken with every datum; those two with all ways enabled. -/
theorem witness_CsrWriteReadsBack :
    ∀ i ∈ [0x10#8, 0x08, 0x09, 0x19, 0x1A, 0x1B, 0x1F, 0x24, 0x25, 0x27, 0x29, 0x2A, 0x2B, 0x3C, 0x47, 0x49, 0x4A, 0x4C,
        0x4D, 0x50, 0x52, 0x53, 0x80, 0x84, 0xC1, 0xC2, 0xC3, 0xC5, 0xC6, 0xC7, 0xD0, 0xFF, 0x38, 0x3B, 0x17, 0x11, 0xC4,
        0x26, 0x14, 0x4B, 0x81, 0x48, 0x20, 0x21, 0x22, 0x23, 0x13, 0x82],
      (match writeCsr hm i 0x12FF with | .ok _ => true | .error _ => false) = true := by decide +kernel
/-- An INT_REQ still to be sent (U15), and a SOFT_ERR that rises. -/
theorem witness_CsrWriteReadsBack_open :
    (withCsr hm (fun c => { c with intReq := 0x2000001 })).csr.intReq.getLsbD 25 = true ∧ hm.csr.intReq.getLsbD 25 = false ∧
    hm.csr.softErr.getLsbD 0 = false ∧ (0x12FF#64).getLsbD 0 = true := by decide +kernel

/-- A core that has an INT_REQ of kind `k` to send to itself. -/
def sending (k : BitVec 2) : State := withCsr vm (fun c => { c with intReq := (1#39 ++ k ++ 0#7 ++ 1#16) })

theorem witness_InterruptRequests : ∀ k : Fin 4,
    (match writeCsr (asked 1) (BitVec.ofNat 8 (0x34 + k.val)) 1 with | .ok _ => true | .error _ => false) = true := by
  decide +kernel
theorem witness_InterruptRequests_cleared :
    (match writeCsr hm 0x0F 0x10001 with | .ok _ => true | .error _ => false) = true ∧ (0x10001#64).getLsbD (16 + 0) = true := by
  decide +kernel
theorem witness_InterruptRequests_sending :
    (vm.csr.intReq.getLsbD 25 = false) ∧
    (∀ k ∈ [0#2, 1, 2, 3], (sending k).csr.intReq.getLsbD 25 = true ∧
      (sending k).csr.intReq.getLsbD (sending k).par.coreId.toNat = true ∧ (sending k).csr.intReq.extractLsb' 23 2 = k ∧
      (sending k).online = true ∧ (sending k).inten = true ∧ (sending k).heldIntr = 0 ∧ (sending k).power ≠ .deepSleep ∧
      ({ sending k with inten := false } : State).inten = false ∧
      ({ sending k with online := false } : State).online = false) := by decide +kernel
/-- The count carries at its next error, and does not; the time counter reaches its own carry. -/
theorem witness_InterruptRequests_corrected : let at' : Nat → Nat := fun k => 2 ^ (k + if vm.par.carryOut then 1 else 0)
    let s : State := { withCsr vm (fun c => { c with hserrCnt := BitVec.ofNat 64 (at' 3 - 1), hserrTh := 0x184 }) with
      hserrTime := BitVec.ofNat 64 (at' 4 - 1) }
    ((s.csr.hserrCnt.extractLsb' 0 32).toNat + 1) % at' (s.csr.hserrTh.extractLsb' 7 5).toNat = 0 ∧
    ((vm.csr.hserrCnt.extractLsb' 0 32).toNat + 1) % at' 3 ≠ 0 ∧
    s.csr.hserrTh.getLsbD 6 = false ∧ s.hserrTime.toNat / at' (s.csr.hserrTh.extractLsb' 0 6).toNat <
      (s.hserrTime.toNat + 1) / at' (s.csr.hserrTh.extractLsb' 0 6).toNat ∧
    ¬s.hserrTime.toNat / at' (s.csr.hserrTh.extractLsb' 0 6).toNat <
      (s.hserrTime.toNat + 0) / at' (s.csr.hserrTh.extractLsb' 0 6).toNat ∧
    (withCsr vm (fun c => { c with hserrTh := 0x40 })).csr.hserrTh.getLsbD 6 = true := by decide +kernel

theorem witness_PriRetReturns : ready hm .none ∧ hm.mode = 0#2 := ⟨ready_of (by decide +kernel), by decide +kernel⟩

/-- VM with memory, R2 pointing to it and an aligned lock. -/
def ld : State := { vm with mem := writeMem [] 0x4000 8 0x8877665544332211 }.setX 2 0x4000

theorem witness_ScalarLoads :
    ready ld .none ∧ ready ld .scalar ∧ isIo 0x4000 = false ∧
    (∀ n ∈ [1, 2, 4, 8], accessOk ld (loadAcc 3 n) (ld.ea16 2 0) 0x4000) ∧
    (∀ n ∈ [4, 8], accessOk ld { loadAcc 3 n with nc := true } (ld.ea12 2 0) 0x4000) ∧
    accessOk ld (loadAcc 3 8) (if ld.par.ldlUChecksAlignment then ld.ea16 2 0 else ld.ea16 2 0 &&& ~~~7) 0x4000 := by
  refine ⟨ready_of (by decide +kernel), ready_of (by decide +kernel), by decide +kernel, ?_, ?_,
    accessOk_of (by decide +kernel)⟩
  all_goals
    intro n hn
    simp only [List.mem_cons, List.not_mem_nil, or_false] at hn
  · rcases hn with rfl | rfl | rfl | rfl <;> exact accessOk_of (by decide +kernel)
  · rcases hn with rfl | rfl <;> exact accessOk_of (by decide +kernel)

theorem witness_LoadsTo31 : ready vm .none ∧ ready vm .scalar ∧ ready vm .simd := by
  refine ⟨ready_of ?_, ready_of ?_, ready_of ?_⟩ <;> decide +kernel

/-- VM with R2 in I/O space (PA[47] = 1), and HM with R2 there and one byte above. -/
def io : State := vm.setX 2 0x800000000100
def ioHm (k : W64) : State := hm.setX 2 (0x800000000100 + k)

theorem witness_IoAccesses :
    ready io .none ∧ ready io .scalar ∧ isIo 0x800000000100 = true ∧
    (∀ n ∈ [1, 2, 4, 8], accessOk io (loadAcc 3 n) (io.ea16 2 0) 0x800000000100) ∧
    accessOk io (loadAcc 3 8) (if io.par.ldlUChecksAlignment then io.ea16 2 0 else io.ea16 2 0 &&& ~~~7) 0x800000000100 ∧
    (∀ n ∈ [1, 2, 4, 8], accessOk io { storeAcc 3 n with data := some (io.getX 3).toNat } (io.ea16 2 0) 0x800000000100) ∧
    accessOk io { storeAcc 3 4 with data := some (regToSingle (io.getF 3)).toNat } (io.ea16 2 0) 0x800000000100 ∧
    accessOk io { storeAcc 3 8 with data := some (io.getF 3).toNat } (io.ea16 2 0) 0x800000000100 := by
  refine ⟨ready_of (by decide +kernel), ready_of (by decide +kernel), by decide +kernel, ?_, accessOk_of (by decide +kernel),
    ?_, accessOk_of (by decide +kernel), accessOk_of (by decide +kernel)⟩
  all_goals
    intro n hn
    simp only [List.mem_cons, List.not_mem_nil, or_false] at hn
    rcases hn with rfl | rfl | rfl | rfl <;> exact accessOk_of (by decide +kernel)

/-- The privileged forms without translation, aligned and not. -/
theorem witness_IoAccesses_privileged :
    (ready (ioHm 0) .none ∧ (ioHm 0).mode = 0#2 ∧ ((ioHm 0).ea12 2 0).toNat % 8 = 0 ∧
     (∀ n ∈ [4, 8], accessOk (ioHm 0) (priLoadAcc 3 .phys n) ((ioHm 0).ea12 2 0) 0x800000000100) ∧
     ∀ n ∈ [4, 8], accessOk (ioHm 0) { priStoreAcc 3 .phys n with data := some ((ioHm 0).getX 3).toNat }
       ((ioHm 0).ea12 2 0) 0x800000000100) ∧
    (ready (ioHm 1) .none ∧ ((ioHm 1).ea12 2 0).toNat % 4 = 1 ∧ ((ioHm 1).ea12 2 0).toNat % 8 = 1 ∧
     (∀ n ∈ [4, 8], accessOk (ioHm 1) { priLoadAcc 3 .phys n with back := 1 } ((ioHm 1).ea12 2 0) 0x800000000101) ∧
     ∀ b, accessOk (ioHm 1) { priStoreAcc 3 .phys 8 with back := 1, data := some b } ((ioHm 1).ea12 2 0)
       0x800000000101) := by
  refine ⟨⟨ready_of (by decide +kernel), by decide +kernel, by decide +kernel, ?_, ?_⟩,
    ready_of (by decide +kernel), by decide +kernel, by decide +kernel, ?_, fun b => ?_⟩
  · intro n hn
    simp only [List.mem_cons, List.not_mem_nil, or_false] at hn
    rcases hn with rfl | rfl <;> exact accessOk_of (by decide +kernel)
  · intro n hn
    simp only [List.mem_cons, List.not_mem_nil, or_false] at hn
    rcases hn with rfl | rfl <;> exact accessOk_of (by decide +kernel)
  · intro n hn
    simp only [List.mem_cons, List.not_mem_nil, or_false] at hn
    rcases hn with rfl | rfl <;> exact accessOk_of (by decide +kernel)
  · have h : partOk (ioHm 1) { priStoreAcc 3 .phys 8 with back := 1, data := some 0 }
        ((ioHm 1).ea12 2 0) 0x800000000101 := partOk_of (by decide +kernel)
    exact ⟨⟨h.canon, h.aligned, h.maps, h.legal, h.noError, h.notForced, h.platform, h.ordered, h.timely, h.alone⟩, rfl⟩

theorem witness_ScalarStores :
    ready ld .none ∧ ready ld .scalar ∧ Memory.wf ld.mem = true ∧
    (∀ n ∈ [1, 2, 4, 8], accessOk ld { storeAcc 3 n with data := some (ld.getX 3).toNat } (ld.ea16 2 0) 0x4000) ∧
    (∀ n ∈ [4, 8], accessOk ld { storeAcc 3 n with data := some (ld.getX 3).toNat, nc := true } (ld.ea12 2 0) 0x4000) ∧
    accessOk ld { storeAcc 3 4 with data := some (regToSingle (ld.getF 3)).toNat } (ld.ea16 2 0) 0x4000 ∧
    accessOk ld { storeAcc 3 8 with data := some (ld.getF 3).toNat, nc := true } (ld.ea12 2 0) 0x4000 := by
  refine ⟨ready_of (by decide +kernel), ready_of (by decide +kernel), by decide +kernel, ?_, ?_,
    accessOk_of (by decide +kernel), accessOk_of (by decide +kernel)⟩
  all_goals
    intro n hn
    simp only [List.mem_cons, List.not_mem_nil, or_false] at hn
  · rcases hn with rfl | rfl | rfl | rfl <;> exact accessOk_of (by decide +kernel)
  · rcases hn with rfl | rfl <;> exact accessOk_of (by decide +kernel)

theorem witness_AddressFaults :
    (let s := vm.setX 2 0x4FFF
     ready s .none ∧ settledCsr s 0x48 ∧ (Instr.stl 3 2 0, s.ea16 2 0, 8, some true) ∈ scalarAccesses s 3 2 0 0 ∧
     s.ea16 2 0 = ((s.ea16 2 0).setWidth 53).signExtend 64 ∧ (∀ n ∈ [2, 4, 8], (s.ea16 2 0).toNat % n ≠ 0)) ∧
    ((vm.setX 2 0x10000000000000).ea16 2 0 ≠ (((vm.setX 2 0x10000000000000).ea16 2 0).setWidth 53).signExtend 64) ∧
    (let s := vm.setX 2 0x4010
     ready s .simd ∧ settledCsr s 0x48 ∧ (Instr.vldd 3 2 0, 32, 8, false) ∈ vectorAccesses 3 2 0 ∧
     (s.ea16 2 0).toNat % 32 ≠ 0 ∧ (s.ea16 2 0).toNat % 8 = 0) ∧
    ((vm.setX 2 0x4FFC).ea16 2 0).toNat % 16 ≠ 0 ∧ ((vm.setX 2 0x4FFC).ea16 2 0).toNat % 4 = 0 ∧
    ((vm.setX 2 0x4FFE).ea16 2 0).toNat % 4 ≠ 0 := by
  refine ⟨⟨ready_of ?_, settled_of rfl, ?_⟩, ?_, ⟨ready_of ?_, settled_of rfl, ?_⟩, ?_⟩ <;> decide +kernel

/-- UM with a DTB entry for page 2 in each way that does not hit page 3: another page, another UPN, another VPN. -/
def missing : State :=
  { um with dtb := [mapped 2, { mapped 3 with ks := false, upn := 1 }, { mapped 3 with vpn := 1 }] }

theorem witness_TlbMisses : let s := missing.setX 2 0x6000
    let misses : State → W64 → Prop := fun s ea => ∀ x ∈ s.dtb,
      ¬(x.va >>> (5 * x.gh.toNat) = ea.extractLsb' 13 40 >>> (5 * x.gh.toNat) ∧ x.vpn = s.csr.dtbPcr.extractLsb' 62 2 ∧
        (x.ks = true ∨ x.upn = s.csr.dtbPcr.extractLsb' 54 8))
    (ready s .none ∧ ready s .simd ∧ settledCsr s 0x48 ∧ misses s 0x6000 ∧ s.ea16 2 0 = 0x6000 ∧ s.ea12 2 0 = 0x6000 ∧
      canonical 0x6000 = true ∧ (∀ n ∈ [1, 2, 4, 8, 16, 32], (0x6000#64).toNat % n = 0) ∧ s.mode ≠ 1#2 ∧
      (0x6000#64).getLsbD 52 = false) ∧
    (let s := missing.setX 2 0xFFF0000000006000
     misses s (s.ea16 2 0) ∧ canonical (s.ea16 2 0) = true ∧ (s.ea16 2 0).getLsbD 52 = true) ∧
    (let s := { missing.setX 2 0x6004 with pc := 0x1000 }
     ready s .none ∧ settledCsr s 0x48 ∧ s.mode = 0#2 ∧ misses s (s.ea12 2 0) ∧ canonical (s.ea12 2 0) = true) := by
  refine ⟨⟨ready_of ?_, ready_of ?_, settled_of rfl, ?_⟩, ?_, ⟨ready_of ?_, settled_of rfl, ?_⟩⟩ <;> decide +kernel

/-- A state whose one DTB entry maps page 2 (addresses 0x4000 to 0x5FFF). -/
def paged (s : State) : State := { s with dtb := [mapped 2] }

/-- Page 2 for HM alone, with FOW. -/
def strict : DtbEntry :=
  { mapped 2 with vre := false, vwe := false, kre := false, kwe := false, ure := false, uwe := false, faultOnWrite := true }

theorem witness_PermissionCheck :
    (∀ s ∈ [paged hm, paged km, paged um], s.dtb.filter (dtbHits s.csr 0x4000) = [mapped 2] ∧ s.mode ≠ 1#2) ∧
    (let e := { mapped 2 with va := (0x10000000004000#64).extractLsb' 13 40 }
     let s := { vm with dtb := [mapped 2, e] }
     s.mode = 1#2 ∧ (0x10000000004000#64).getLsbD 52 = true ∧ s.dtb.filter (dtbHits s.csr 0x10000000004000) = [e]) := by
  decide +kernel
/-- UM and HM at page 2, which `strict` forbids UM altogether and HM to write. -/
theorem witness_PermissionCheck_stopped :
    (let s := { um.setX 2 0x4000 with dtb := [strict] }
     ready s .none ∧ ready s .simd ∧ settledCsr s 0x48 ∧ s.mode = 3#2 ∧ s.ea16 2 0 = 0x4000 ∧ canonical 0x4000 = true ∧
     (0x4000#64).toNat % 32 = 0 ∧ s.dtb.filter (dtbHits s.csr 0x4000) = [strict] ∧ strict.ure = false ∧ strict.uwe = false) ∧
    (let s := { hm.setX 2 0x4000 with dtb := [strict] }
     ready s .none ∧ settledCsr s 0x48 ∧ s.mode = 0#2 ∧ s.ea12 2 0 = 0x4000 ∧ s.csr.dtbPcr.extractLsb' 0 2 = 0#2 ∧
     s.dtb.filter (dtbHits s.csr 0x4000) = [strict] ∧ strict.hwe = true ∧ strict.faultOnWrite = true) := by
  refine ⟨⟨ready_of ?_, ready_of ?_, settled_of rfl, ?_⟩, ready_of ?_, settled_of rfl, ?_⟩ <;> decide +kernel

/-- VM storing and loading at 0x4000 with the address match on, the value match on, and neither. -/
theorem witness_DataMatches :
    let s := (vm.setX 2 0x4000).setX 3 0x77
    let a := withCsr s (fun c => { c with daMatch := 0x60000000004000, daMask := 0x1FFFFFFFFFFFFF })
    let v := withCsr s (fun c => { c with dcCtl := c.dcCtl ||| 0x80000, dvMatch := 0x77, dvMask := 0xFF })
    let V : State → Prop := fun s => s.csr.dcCtl.getLsbD 19 = true ∧
      (∀ n, n < 64 → s.csr.dvMask.getLsbD n = true → 0 ≤ n / 8 ∧ n / 8 < 0 + 1) ∧
      ((s.getX 3 <<< (8 * 0)) ^^^ s.csr.dvMatch) &&& s.csr.dvMask = 0
    (ready s .none ∧ settledCsr s 0x48 ∧ canonical (s.ea16 2 0) = true ∧ (s.ea16 2 0).toNat % 8 = 0 ∧
      (∀ w, translateD s .normal (!w) w (s.ea16 2 0) = .page 0x4000)) ∧
    (a.csr.dcCtl.getLsbD 20 = false ∧ a.csr.daMatch.getLsbD 54 = true ∧ a.csr.daMatch.extractLsb' 53 2 = 3#2 ∧
      (∀ n, n < 53 → a.csr.daMask.getLsbD n = true →
        (a.csr.daMatchMode.getLsbD n = true ↔ a.csr.daMatch.getLsbD n = (a.ea16 2 0).getLsbD n)) ∧ ¬V a) ∧
    (V v ∧ v.csr.dcCtl.getLsbD 20 = false ∧ v.csr.daMatch.extractLsb' 53 2 = 0#2) ∧
    (withCsr v (fun c => { c with dcCtl := c.dcCtl ||| 0x100000 })).csr.dcCtl.getLsbD 20 = true ∧
    (let h := hm.setX 2 0x4000
     ready h .none ∧ h.mode = 0#2 ∧ translateD h .phys true false (h.ea12 2 0) = .page 0x4000) := by
  refine ⟨⟨ready_of ?_, settled_of rfl, ?_⟩, ?_, ?_, ?_, ready_of ?_, ?_⟩ <;> decide +kernel

/-- VM's superpage reaches every physical address: I/O space, non-cacheable memory, and memory that is not there. -/
theorem witness_AccessViolations :
    let big := { Params.default with memSize := 0x10000, iorMap := [] }
    (∀ n ∈ [0x800000004000, 0x400000004000],
      let s := vm.setX 2 (BitVec.ofNat 64 n)
      canonical (s.ea12 2 0) = true ∧ (s.ea12 2 0).toNat % 32 = 0 ∧
      ∀ r w, translateD s .normal r w (s.ea12 2 0) = .page (BitVec.ofNat 48 n)) ∧
    (0x800000004000 : PAddr).getLsbD 47 = true ∧ (0x400000004000 : PAddr).getLsbD 46 = true ∧
    (let s := vm.setX 2 0x800000004000; ready s .none ∧ ready s .simd ∧ settledCsr s 0x48) ∧
    (∀ n ∈ [0x20000, 0x400000020000, 0x800000000100],
      let s := { vm.setX 2 (BitVec.ofNat 64 n) with par := big }
      let pa : PAddr := BitVec.ofNat 48 n
      s.armedData = none ∧ s.par.fpga = false ∧
      (match addressPhase s (loadAcc 3 8) (s.ea16 2 0) with | .ok q => decide (q = pa) | .error _ => false) = true ∧
      (match matchPhase s (loadAcc 3 8) (s.ea16 2 0) pa with | .ok _ => true | .error _ => false) = true ∧
      (if isIo pa then ioLegal s true (ioAddr pa) 8 = false else s.par.memSize < memAddr pa + 8)) := by
  refine ⟨?_, ?_, ?_, ⟨ready_of ?_, ready_of ?_, settled_of rfl⟩, ?_⟩ <;> decide +kernel

theorem witness_TlbFills : let s := withCsr km (fun c => { c with dtbTag := 0x4000, itbTag := 0x4000 })
    s.mode ≠ 1#2 ∧ 2 ≤ s.mode.toNat ∧ s.dtb = [] ∧
    (0x5FFF#64).extractLsb' 13 40 = s.csr.dtbTag.extractLsb' 13 40 ∧ ((0#64).extractLsb' 5 2).toNat = 0 ∧
    ((0xFFFFFFF#64).extractLsb' 13 40) >>> 15 = (s.csr.dtbTag.extractLsb' 13 40) >>> 15 ∧
    ((0x60#64).extractLsb' 5 2).toNat = 3 ∧
    s.csr.itbTag = s.csr.dtbTag ∧ s.mode = 2#2 ∧ (0x400#64).getLsbD 10 = true ∧ (0#64).getLsbD 10 = false ∧
    um.mode = 3#2 ∧ (0x800#64).getLsbD 11 = true := by decide +kernel

theorem witness_TlbFills_tags : ∀ i ∈ [0x00#8, 0x40],
    (match writeCsr hm i 0x4000 with | .ok _ => true | .error _ => false) = true := by decide +kernel

theorem paged_hits (s : State) (a : W64) (f : AccForm) (r w : Bool) (hf : f ≠ .phys) (hm : s.mode ≠ 1#2)
    (h : (paged s).dtb.filter (dtbHits (paged s).csr a) = [mapped 2]) :
    translateD (paged s) f r w a = (if denyFlags (mapped 2) ((paged s).checkMode f) r w = 0
      then .page (joinPage 0 ((2#35) ++ 0#13) (a.extractLsb' 0 48))
      else .denied (denyFlags (mapped 2) ((paged s).checkMode f) r w) (joinPage 0 ((2#35) ++ 0#13) (a.extractLsb' 0 48))) := by
  have hm' : (paged s).mode ≠ 1#2 := hm
  unfold translateD
  rw [dtbLookup_one _ _ _ h]
  simp [hf, hm', mapped]

/-- Through the DTB in HM the access is checked for the mode DTB_PCR[PM] = 0. -/
theorem paged_maps {f : AccForm} (hf : f = .virt ∨ f = .vpte) (r w : Bool) :
    translateD (paged hm) f r w 0x4000 = .page 0x4000 := by
  rw [paged_hits hm 0x4000 f r w (by rintro rfl; rcases hf with h | h <;> cases h) (by decide +kernel) (by decide +kernel)]
  rcases hf with rfl | rfl <;> cases r <;> cases w <;> decide +kernel

/-- UM at the end of page 2: the second part of an unaligned vector load stands on page 3, which no entry hits. -/
def edge : State := paged (um.setX 2 0x5FF8)

theorem witness_TlbMisses_second : let ea := edge.ea16 2 0
    let high := ea + BitVec.ofNat 64 8
    ready edge .none ∧ ready edge .simd ∧ settledCsr edge 0x48 ∧ 32 - ea.toNat % 32 = 8 ∧
    (∀ p ∈ [(32, 4), (16, 4), (32, 8)], accessOk edge { vecLoadAcc 3 p.1 p.2 0 with size := 8 } ea 0x5FF8) ∧
    canonical high = true ∧ edge.mode ≠ 1#2 ∧
    ∀ x ∈ edge.dtb, ¬x.va >>> (5 * x.gh.toNat) = high.extractLsb' 13 40 >>> (5 * x.gh.toNat) := by
  refine ⟨ready_of (by decide +kernel), ready_of (by decide +kernel), settled_of rfl, by decide +kernel, ?_,
    by decide +kernel, by decide +kernel, by decide +kernel⟩
  have h : edge.ea16 2 0 = 0x5FF8 := by decide +kernel
  rw [h]
  intro p hp
  simp only [List.mem_cons, List.not_mem_nil, or_false] at hp
  have hm : translateD edge .normal true false 0x5FF8 = .page 0x5FF8 := by
    rw [edge, paged_hits _ _ _ _ _ (by decide) (by decide +kernel) (by decide +kernel)]
    decide +kernel
  rcases hp with rfl | rfl | rfl <;>
    exact ⟨⟨by decide +kernel, by decide +kernel, hm, rfl, rfl, rfl, by decide +kernel,
      fun _ _ => rfl, fun _ _ _ => rfl, .inl (by decide)⟩, rfl⟩

theorem witness_PrivilegedAccesses :
    (ready hm .none ∧ hm.mode = 0#2 ∧ isIo 0x4000 = false ∧ Memory.wf hm.mem = true) ∧
    (∀ n ∈ [4, 8], let s := hm.setX 2 0x4000
      accessOk s (priLoadAcc 3 .phys n) (s.ea12 2 0) 0x4000 ∧
      accessOk s { priStoreAcc 3 .phys n with data := some (s.getX 3).toNat } (s.ea12 2 0) 0x4000) ∧
    (accessOk (paged hm) (priLoadAcc 3 .virt 4) 0x4000 0x4000 ∧ accessOk (paged hm) (priLoadAcc 3 .vpte 8) 0x4000 0x4000 ∧
      accessOk (paged hm) { priStoreAcc 3 .virt 8 with data := some 0 } 0x4000 0x4000) ∧
    (let s := hm.setX 2 0x4001
     (s.ea12 2 0).toNat % 4 = 1 ∧ (s.ea12 2 0).toNat % 8 = 1 ∧
     (∀ n ∈ [4, 8], accessOk s { priLoadAcc 3 .phys n with back := 1 } (s.ea12 2 0) 0x4001) ∧
     ∀ b, accessOk s { priStoreAcc 3 .phys 8 with back := 1, data := some b } (s.ea12 2 0) 0x4001) := by
  refine ⟨⟨ready_of (by decide +kernel), by decide +kernel, by decide +kernel, by decide +kernel⟩, ?_, ⟨?_, ?_, ?_⟩,
    by decide +kernel, by decide +kernel, ?_, fun b => ?_⟩
  · intro n hn
    simp only [List.mem_cons, List.not_mem_nil, or_false] at hn
    rcases hn with rfl | rfl <;> exact ⟨accessOk_of (by decide +kernel), accessOk_of (by decide +kernel)⟩
  · exact ⟨⟨by decide +kernel, by decide +kernel, paged_maps (.inl rfl) _ _, rfl, rfl, rfl, by decide +kernel,
      fun _ _ => rfl, fun _ _ _ => rfl, .inl (by decide)⟩, rfl⟩
  · exact ⟨⟨by decide +kernel, by decide +kernel, paged_maps (.inr rfl) _ _, rfl, rfl, rfl, by decide +kernel,
      fun _ _ => rfl, fun _ _ _ => rfl, .inl (by decide)⟩, rfl⟩
  · exact ⟨⟨by decide +kernel, by decide +kernel, paged_maps (.inl rfl) _ _, rfl, rfl, rfl, by decide +kernel,
      fun _ _ => rfl, fun _ _ _ => rfl, .inl (by decide)⟩, rfl⟩
  · intro n hn
    simp only [List.mem_cons, List.not_mem_nil, or_false] at hn
    rcases hn with rfl | rfl <;> exact accessOk_of (by decide +kernel)
  · have h : partOk (hm.setX 2 0x4001) { priStoreAcc 3 .phys 8 with back := 1, data := some 0 }
        ((hm.setX 2 0x4001).ea12 2 0) 0x4001 := partOk_of (by decide +kernel)
    exact ⟨⟨h.canon, h.aligned, h.maps, h.legal, h.noError, h.notForced, h.platform, h.ordered, h.timely, h.alone⟩, rfl⟩

theorem witness_Atomics :
    ready ld .none ∧ settledCsr ld 0xC3 ∧ Memory.wf ld.mem = true ∧ isIo 0x4000 = false ∧ ld.csr.dcCtl.getLsbD 10 = false ∧
    (withCsr ld (fun c => { c with dcCtl := 0x40F })).csr.dcCtl.getLsbD 10 = true ∧
    readMem ld.mem (memAddr 0x4000) 4 ≠ 2 ^ 31 - 1 ∧
    accessOk ld (atomicAcc 3 4) (ld.ea12 2 0) 0x4000 ∧ accessOk ld (atomicAcc 3 8) (ld.ea12 2 0) 0x4000 ∧
    (let s := hm.setX 2 0x4000
     s.mode = 0#2 ∧ (s.ea12 2 0).toNat % 4 = 0 ∧ (s.ea12 2 0).toNat % 8 = 0 ∧
     accessOk s { atomicAcc 3 4 with form := .phys, align := 1 } (s.ea12 2 0) 0x4000 ∧
     accessOk s { atomicAcc 3 8 with form := .phys, align := 1 } (s.ea12 2 0) 0x4000) := by
  refine ⟨ready_of ?_, settled_of rfl, ?_, ?_, ?_, ?_, ?_, accessOk_of ?_, accessOk_of ?_, ?_, ?_, ?_, accessOk_of ?_,
    accessOk_of ?_⟩ <;>
    decide +kernel

theorem witness_Atomics_misaligned : let s := hm.setX 2 0x4001
    s.mode = 0#2 ∧ ready s .none ∧ (s.ea12 2 0).toNat % 4 = 1 ∧ (s.ea12 2 0).toNat % 8 = 1 ∧
    ∀ n ∈ [4, 8], accessOk s { atomicAcc 3 n with form := .phys, align := 1, back := 1 } (s.ea12 2 0) 0x4001 := by
  refine ⟨by decide +kernel, ready_of (by decide +kernel), by decide +kernel, by decide +kernel, fun n hn => ?_⟩
  simp only [List.mem_cons, List.not_mem_nil, or_false] at hn
  rcases hn with rfl | rfl <;> exact accessOk_of (by decide +kernel)

/-- VM with the longword `v` at the address in R2 and DC_CTL[ATOP_OVF_EN] = 1. -/
def holds (v : Nat) : State :=
  withCsr ({ vm with mem := writeMem [] 0x4000 8 v }.setX 2 0x4000) (fun c => { c with dcCtl := 0x40F })

theorem witness_AtomicOverflow :
    ∀ p ∈ [(4, 2 ^ 31 - 1), (4, 2 ^ 31), (8, 2 ^ 63 - 1), (8, 2 ^ 63)],
      ready (holds p.2) .none ∧ settledCsr (holds p.2) 0xC3 ∧ Memory.wf (holds p.2).mem = true ∧
      (holds p.2).csr.icr.getLsbD 0 = false ∧
      (holds p.2).csr.dcCtl.getLsbD 10 = true ∧ accessOk (holds p.2) (atomicAcc 3 p.1) ((holds p.2).ea12 2 0) 0x4000 ∧
      readMem (holds p.2).mem (memAddr 0x4000) p.1 = p.2 := by
  intro p hp
  simp only [List.mem_cons, List.not_mem_nil, or_false] at hp
  rcases hp with rfl | rfl | rfl | rfl <;>
    exact ⟨ready_of (by decide +kernel), settled_of rfl, by decide +kernel, by decide +kernel, by decide +kernel,
      accessOk_of (by decide +kernel), by decide +kernel⟩

theorem witness_LockLoads :
    ready ld .none ∧ accessOk ld { loadAcc 3 4 with lock := true } (ld.ea12 2 0) 0x4000 ∧
    accessOk ld { loadAcc 3 8 with lock := true } (ld.ea12 2 0) 0x4000 := by
  refine ⟨ready_of ?_, accessOk_of ?_, accessOk_of ?_⟩ <;> decide +kernel

/-- VM in slot 0 of a group LSTL R3, 0(R2) and RD_F R4, with the lock held on 0x4000. -/
def locked : State :=
  { ld with
    pc := 0x2001
    fgroup := 0x189F1000206290000000#128 >>> 16
    lock := ⟨true, true, false, 0x4000, true, true, 16⟩ }

theorem witness_LockStores :
    ready locked .none ∧ Memory.wf locked.mem = true ∧ lstPaired locked = true ∧
    accessOk locked { storeAcc 3 8 with lock := true, data := some (locked.getX 3).toNat } (locked.ea12 2 0) 0x4000 ∧
    (locked.lock.valid = true ∧ locked.lock.flag = true ∧ locked.lock.addr = 0x4000 ∧ locked.lock.long = true ∧
      locked.lock.line = true ∧ locked.lock.steps ≤ 16) ∧
    ¬({ locked.lock with steps := 17 } : Lock).steps ≤ 16 ∧
    accessOk locked { storeAcc 3 4 with lock := true, data := some (locked.getX 3).toNat } (locked.ea12 2 0) 0x4000 ∧
    locked.lock.long ≠ false := by
  refine ⟨ready_of ?_, ?_, ?_, accessOk_of ?_, ?_, ?_, accessOk_of ?_, ?_⟩ <;> decide +kernel

theorem witness_LockFlagAccess :
    ready locked .none ∧ (let s : State := { locked with pc := 0x2005 }; ready s .none ∧ rdFPaired s = true) := by
  refine ⟨ready_of ?_, ready_of ?_, ?_⟩ <;> decide +kernel

theorem witness_LockPairing :
    unimplemented locked = false ∧ (0x2005#64).toNat / 4 % 4 % 2 = 1 ∧ (0x2001#64).toNat / 4 % 4 % 2 = 0 ∧
    (∀ k, k < 4 → isRdF (vm.groupInstr k) = false ∧ isLst (vm.groupInstr k) = false) := by decide +kernel

theorem witness_CacheOperations : let s := vm.setX 2 0x4011
    ready s .none ∧ isIo 0x4000 = false ∧ (0x4000 : PAddr).getLsbD 46 = false ∧ memAddr 0x4000 + 128 ≤ s.par.memSize ∧
    canonical (s.ea16 2 0 &&& ~~~0x7F) = true ∧
    (∀ r w, translateD s .normal r w (s.ea16 2 0 &&& ~~~0x7F) = .page 0x4000) ∧
    (∀ r w, (match matchPhase s { ra := s.word.extractLsb' 21 5, isR := r, isW := w, size := 1, align := 1 }
      (s.ea16 2 0 &&& ~~~0x7F) 0x4000 with | .ok _ => true | .error _ => false) = true) ∧
    s.armedData = none ∧ s.csr.cpCtl.getLsbD 3 = true ∧ s.csr.cpCtl.getLsbD 4 = true ∧ s.mode ≠ 0#2 := by
  refine ⟨ready_of ?_, ?_⟩ <;> decide +kernel
theorem witness_CacheOperations_physical : let s := hm.setX 2 0x4011
    ready s .none ∧ s.armedData = none ∧ s.csr.cpCtl.getLsbD 3 = true ∧ s.mode = 0#2 ∧ s.csr.daMatch.extractLsb' 53 2 = 0 ∧
    (0x4000 : PAddr) = (s.ea16 2 0 &&& ~~~0x7F).setWidth 48 := by
  refine ⟨ready_of ?_, ?_⟩ <;> decide +kernel
theorem witness_CacheOperations_uncached :
    ∀ n ∈ [0x800000004000, 0x400000004000], let s := vm.setX 2 (BitVec.ofNat 64 n)
      ready s .none ∧ canonical (s.ea16 2 0 &&& ~~~0x7F) = true ∧
      (∀ r w, translateD s .normal r w (s.ea16 2 0 &&& ~~~0x7F) = .page (BitVec.ofNat 48 n)) ∧
      (isIo (BitVec.ofNat 48 n) = true ∨ (BitVec.ofNat 48 n).getLsbD 46 = true) := by
  intro n hn
  simp only [List.mem_cons, List.not_mem_nil, or_false] at hn
  rcases hn with rfl | rfl <;> exact ⟨ready_of (by decide +kernel), by decide +kernel⟩
theorem witness_CacheOperations_uncachedPhysical :
    ∀ n ∈ [0x800000004000, 0x400000004000], let s := hm.setX 2 (BitVec.ofNat 64 n)
      ready s .none ∧ s.csr.cpCtl.getLsbD 3 = true ∧ s.mode = 0#2 ∧
      BitVec.ofNat 48 n = (s.ea16 2 0 &&& ~~~0x7F).setWidth 48 ∧
      (isIo (BitVec.ofNat 48 n) = true ∨ (BitVec.ofNat 48 n).getLsbD 46 = true) := by
  intro n hn
  simp only [List.mem_cons, List.not_mem_nil, or_false] at hn
  rcases hn with rfl | rfl <;> exact ⟨ready_of (by decide +kernel), by decide +kernel⟩
theorem witness_CacheOperations_dropped :
    (ready um .none ∧ canonical (um.ea16 2 0 &&& ~~~0x7F) = true ∧
      (∀ r w, translateD um .normal r w (um.ea16 2 0 &&& ~~~0x7F) = .miss) ∧ um.csr.dcCtl.getLsbD 16 = false ∧
      um.csr.dcCtl.getLsbD 5 = false) ∧
    (let s := withCsr um (fun c => { c with dcCtl := 0x1002F })
     ready s .none ∧ s.csr.dcCtl.getLsbD 16 = true ∧ s.csr.dcCtl.getLsbD 5 = true ∧
     ∀ r w, translateD s .normal r w (s.ea16 2 0 &&& ~~~0x7F) = .miss) ∧
    (let s := um.setX 2 0x20000000000000
     ready s .none ∧ settledCsr s 0x48 ∧ canonical (s.ea16 2 0 &&& ~~~0x7F) = false) := by
  refine ⟨⟨ready_of ?_, ?_⟩, ⟨ready_of ?_, ?_⟩, ready_of ?_, settled_of rfl, ?_⟩ <;> decide +kernel

theorem witness_VectorLoads :
    ready ld .simd ∧ accessOk ld (vecLoadAcc 3 32 32 8) (ld.ea16 2 0) 0x4000 ∧
    accessOk ld { vecLoadAcc 3 32 32 8 with nc := true } (ld.ea16 2 0) 0x4000 ∧
    accessOk ld (vecLoadAcc 3 16 16 4) (ld.ea16 2 0) 0x4000 ∧ accessOk ld (vecLoadAcc 3 8 8 0) (ld.ea16 2 0) 0x4000 ∧
    accessOk ld (vecLoadAcc 3 4 4 0) (ld.ea16 2 0) 0x4000 := by
  refine ⟨ready_of ?_, accessOk_of ?_, accessOk_of ?_, accessOk_of ?_, accessOk_of ?_, accessOk_of ?_⟩ <;> decide +kernel

/-- The two parts of a vector of 32 bytes at 0x4008, of one of 16 bytes at 0x4014, and the one part at 0x4000. -/
theorem witness_VectorLoads_unaligned :
    (let s := vm.setX 2 0x4008
     ready s .simd ∧ min 32 (32 - (s.ea16 2 0).toNat % 32) = 24 ∧
     accessOk s { vecLoadAcc 3 32 4 0 with size := 24 } (s.ea16 2 0) 0x4008 ∧
     partOk s { vecLoadAcc 3 32 4 0 with size := 8, align := 1 } (s.ea16 2 0 + BitVec.ofNat 64 24) 0x4020 ∧
     accessOk s { vecLoadAcc 3 32 8 0 with size := 24 } (s.ea16 2 0) 0x4008 ∧
     partOk s { vecLoadAcc 3 32 8 0 with size := 8, align := 1 } (s.ea16 2 0 + BitVec.ofNat 64 24) 0x4020) ∧
    (let s := vm.setX 2 0x4014
     min 16 (32 - (s.ea16 2 0).toNat % 32) = 12 ∧ accessOk s { vecLoadAcc 3 16 4 0 with size := 12 } (s.ea16 2 0) 0x4014 ∧
     partOk s { vecLoadAcc 3 16 4 0 with size := 4, align := 1 } (s.ea16 2 0 + BitVec.ofNat 64 12) 0x4020) ∧
    (min 32 (32 - (ld.ea16 2 0).toNat % 32) = 32 ∧
     accessOk ld { vecLoadAcc 3 32 4 0 with size := 32 } (ld.ea16 2 0) 0x4000) := by
  refine ⟨⟨ready_of ?_, ?_, accessOk_of ?_, partOk_of ?_, accessOk_of ?_, partOk_of ?_⟩,
    ⟨?_, accessOk_of ?_, partOk_of ?_⟩, ?_, accessOk_of ?_⟩ <;> decide +kernel

/-- Aligned stores, a UL part of 24 bytes, a UH part of 8 bytes, and UH forms with nothing above the boundary. -/
theorem witness_VectorStores :
    (ready ld .simd ∧ Memory.wf ld.mem = true ∧
     accessOk ld { vecStoreAcc 3 32 32 8 with data := some (ld.getV 3).toNat, nc := false } (ld.ea16 2 0) 0x4000 ∧
     accessOk ld { vecStoreAcc 3 32 32 8 with data := some (ld.getV 3).toNat, nc := true } (ld.ea16 2 0) 0x4000 ∧
     accessOk ld { vecStoreAcc 3 16 16 4 with data := some (vecToSingles (ld.getV 3)) } (ld.ea16 2 0) 0x4000) ∧
    (let s := vm.setX 2 0x4008
     min 32 (32 - (s.ea16 2 0).toNat % 32) = 24 ∧
     accessOk s { vecStoreAcc 3 32 8 0 with size := 24, data := some (s.getV 3).toNat } (s.ea16 2 0) 0x4008) ∧
    (let s := vm.setX 2 0x4028
     (s.ea16 2 0).toNat % 32 = 8 ∧
     accessOk s { vecStoreAcc 3 32 8 0 with size := 8, data := some ((s.getV 3).toNat / 2 ^ (8 * (32 - 8))), back := 8 }
       (s.ea16 2 0) 0x4028) ∧
    (∀ n ∈ [0x4000, 0x4010], let s := vm.setX 2 (BitVec.ofNat 64 n)
      ((s.ea16 2 0).toNat % 32 = 0 ∨ 16 ≤ (s.ea16 2 0).toNat % 32) ∧
      (match addressPhase s (vecStoreAcc 3 16 4 0) (s.ea16 2 0) with
        | .ok q => decide (q = BitVec.ofNat 48 n) | .error _ => false) = true ∧
      (match matchPhase s (vecStoreAcc 3 16 4 0) (s.ea16 2 0) (BitVec.ofNat 48 n) with
        | .ok _ => true | .error _ => false) = true) := by
  refine ⟨⟨ready_of ?_, ?_, accessOk_of ?_, accessOk_of ?_, accessOk_of ?_⟩, ⟨?_, accessOk_of ?_⟩,
    ⟨?_, accessOk_of ?_⟩, ?_⟩ <;> decide +kernel

theorem witness_RegisterMoves :
    ready vm .simd ∧ (3#8).toNat < 4 ∧ (7#8).toNat < 8 ∧ ready vm (moveClass vm.par) ∧
    (let s : State := { vm with par := { Params.default with fpMovesNeedFpe := false } }; ready s (moveClass s.par)) := by
  refine ⟨ready_of ?_, ?_, ?_, ready_of ?_, ready_of ?_⟩ <;> decide +kernel

theorem witness_FpcrAccess : ready vm .scalar := ready_of (by decide +kernel)

/-- 1.5 + 2.25 = 3.75; a rounded sum, an overflow and an underflow (units of 2^-1074); an infinity and a denormal. -/
theorem witness_FloatingAdds :
    (let a : W64 := 0x3FF8000000000000
     let b : W64 := 0x4002000000000000
     let w : W64 := 0x400E000000000000
     expField a ≠ 0x7FF ∧ expField b ≠ 0x7FF ∧ isDenormal a = false ∧ isDenormal b = false ∧ expField w ≠ 0 ∧
       expField w ≠ 0x7FF ∧ exactValue a + exactValue b = exactValue w) ∧
    (exactValue 0x3FF0000000000000 + exactValue 0x3CA0000000000000).natAbs % 2 ^ (1074 - 52) ≠ 0 ∧
    (2 : Int) ^ 2098 ≤ exactValue 0x7FEFFFFFFFFFFFFF + exactValue 0x7FEFFFFFFFFFFFFF ∧
    (let m := (exactValue 0x0010000000000001 + exactValue 0x8010000000000000).natAbs
     0 < m ∧ m < 2 ^ 52) ∧
    expField 0x7FF0000000000000 = 0x7FF ∧ isDenormal 1 = true ∧ vm.fpcr.getLsbD 48 = false ∧
    (0x0001000000000000#64).getLsbD 48 = true ∧ (0x0001000000000000#64).getLsbD 1 = false ∧
    (0x0001000000000002#64).getLsbD 1 = true := by decide +kernel
theorem witness_FloatingAdds_registers : let v : V256 := ofLanes 0x3FF8000000000000 0x3FF8000000000000 1 1
    let s := vm.setV 1 v 0
    ready s .scalar ∧ ready s .simd ∧ s.getInts 1 = 0 ∧ s.getF 1 = 0x3FF8000000000000 ∧
    lane (s.getV 1) 1 = 0x3FF8000000000000 ∧ isDenormal (lane (s.getV 1) 2) = true := by
  refine ⟨ready_of ?_, ready_of ?_, ?_⟩ <;> decide +kernel

/-- The largest double in every lane: the sum of two such overflows; integer data. -/
theorem witness_FloatingTraps : let s := vm.setV 1 (ofLanes 0x7FEFFFFFFFFFFFFF 1 0x7FEFFFFFFFFFFFFF 1) 0
    ready s .scalar ∧ ready s .simd ∧ s.getInts 1 = 0 ∧ (vm.setV 1 5 0xF).getInts 1 = 0xF ∧
    (addElement 0 s.fpcr 0 false (s.getF 1) (s.getF 1)).ovf = true := by
  refine ⟨ready_of ?_, ready_of ?_, ?_⟩ <;> decide +kernel

/-- VM with counter 0 counting every instruction at its last value before the overflow. -/
def counting : State := withCsr vm (fun c => { c with isCtl := 0x14400, pc0Cr := 0x03FFFFFFFFFFFFFF })

theorem witness_CountersAndTimer :
    (EventClass.plain.counts (counting.csr.pc0Cr.extractLsb' 60 4).toNat = true ∧ counting.csr.isCtl.getLsbD 14 = true ∧
      counting.csr.isCtl.getLsbD 10 = true ∧ (counting.csr.pc0Cr.extractLsb' 0 58).toNat = 2 ^ 58 - 1) ∧
    (let s := withCsr vm (fun c => { c with isCtl := 0x18400, pc1Cr := 0x03FFFFFFFFFFFFFF })
     s.csr.isCtl.getLsbD 15 = true ∧ 2 ^ 58 ≤ (s.csr.pc1Cr.extractLsb' 0 58).toNat + 1) ∧
    vm.csr.isCtl.getLsbD 14 = false ∧ vm.csr.pc0Sel ≠ 8 ∧ vm.csr.timerCtl.getLsbD 0 = false ∧
    (let s := withCsr vm (fun c => { c with timerCtl := 1, timerTh := 10 })
     s.csr.timerCtl.getLsbD 0 = true ∧ s.csr.timerTh.toNat ≤ s.timer.toNat + 10 ∧ s.timer.toNat + 9 < s.csr.timerTh.toNat) ∧
    (match writeCsr vm 0x2A 1 with | .ok _ => true | .error _ => false) = true := by decide +kernel
theorem witness_CountersAndTimer_settled : settledCsr counting 0x11 ∧ settledCsr vm 0x11 :=
  ⟨settled_of rfl, settled_of rfl⟩

theorem witness_StoreCoherence : (0x1000 + 120) % 128 + 8 ≤ 128 ∧ vm.csr.scCtl.getLsbD 20 = true ∧
    (withCsr vm (fun c => { c with scCtl := 0xFF })).csr.scCtl.getLsbD 20 = false := by decide +kernel

theorem witness_InitialisedCsrs : hm.par.chipId = 0x3F ∧ hm.par.bistFail = false ∧ readCsr State.reset 0x11 = 0x101F8 := by
  decide +kernel

theorem witness_ResetAndWakeUp : let s : State := { hm with power := .deepSleep, inten := false, heldIntr := 1 }
    s.power = .deepSleep ∧ (s.inten = false ∨ s.heldIntr = 0) ∧ s.online = true ∧
    ({ s with online := false } : State).online = false := by decide +kernel

end Sys2Proof.Tests
end

/-! The flushes of the translation buffers (R83–R87, R143–R147). What a flush leaves in a buffer is said once for each
buffer; each of the ten registers then needs only what its predicate selects. -/

namespace Sys2Proof.Machine

/-- R87: the page comparison at the entry's granularity. -/
@[simp] theorem pageMatch_iff (gh : BitVec 2) (a b : BitVec 40) :
    pageMatch gh a b = true ↔ a >>> (5 * gh.toNat) = b >>> (5 * gh.toNat) :=
  decide_eq_true_iff

/-- R85, R145: an entry of the machine `w` that is not shared. -/
theorem flushSelects_private_iff (v w : BitVec 2) (ks : Bool) :
    (decide (v = w) && !ks) = true ↔ v = w ∧ ks = false := by
  simp only [Bool.and_eq_true, decide_eq_true_eq, Bool.not_eq_true']

/-- R86, R146: an entry of the process `y` of the machine `w` that is not shared. -/
theorem flushSelects_process_iff (v w : BitVec 2) (u y : BitVec 8) (ks : Bool) :
    (decide (v = w) && decide (u = y) && !ks) = true ↔ v = w ∧ u = y ∧ ks = false := by
  simp only [Bool.and_eq_true, decide_eq_true_eq, Bool.not_eq_true', and_assoc]

/-- R87, R147: an entry of the page `b` that the process `y` of the machine `w` matches. The model's test leaves out
that `ks` is clear where the process agrees, which only matters where `ks` is set, and there the entry matches anyway. -/
theorem flushSelects_page_iff (gh : BitVec 2) (a b : BitVec 40) (v w : BitVec 2) (u y : BitVec 8) (ks : Bool) :
    (pageMatch gh a b && decide (v = w) && (ks || decide (u = y))) = true ↔
      a >>> (5 * gh.toNat) = b >>> (5 * gh.toNat) ∧ v = w ∧ ((ks = false ∧ u = y) ∨ ks = true) := by
  simp only [Bool.and_eq_true, pageMatch_iff, decide_eq_true_eq, and_assoc]
  cases ks <;> simp

/-- R283: an ITB flush keeps every slot whose entry its predicate does not select, and empties the others. -/
theorem itbFlush_getElem (s : State) (p : ItbEntry → Bool) (k : Fin 32) :
    (itbFlush s p).itb[k] = (s.itb[k]).filter (fun e => !p e) := by
  have hmap : (itbFlush s p).itb[k] = if (s.itb[k]).any p then none else s.itb[k] := Vector.getElem_map _ _
  rw [hmap]
  cases s.itb[k] with
  | none => rfl
  | some e => cases hp : p e <;> simp [Option.filter_some, hp]

/-- The entries an ITB flush leaves, where `P` says what its predicate selects. -/
theorem itbFlush_some_iff (s : State) {p : ItbEntry → Bool} {P : ItbEntry → Prop} (hP : ∀ e, p e = true ↔ P e)
    (k : Fin 32) (e : ItbEntry) : (itbFlush s p).itb[k] = some e ↔ s.itb[k] = some e ∧ ¬P e := by
  rw [itbFlush_getElem, Option.filter_eq_some_iff, Bool.not_eq_true', ← hP, Bool.not_eq_true]

/-- The entries a DTB flush leaves, where `P` says what its predicate selects (R288). -/
theorem mem_dtbFlush_iff (s : State) {p : DtbEntry → Bool} {P : DtbEntry → Prop} (hP : ∀ e, p e = true ↔ P e)
    (e : DtbEntry) : e ∈ (dtbFlush s p).dtb ↔ e ∈ s.dtb ∧ ¬P e := by
  rw [← hP, Bool.not_eq_true, ← Bool.not_eq_true']
  exact List.mem_filter

/-- R83: ITB_IA selects every entry. -/
theorem itbFlush_all (s : State) (k : Fin 32) : (itbFlush s (fun _ => true)).itb[k] = none := by
  rw [itbFlush_getElem]
  cases s.itb[k] <;> rfl

/-- R143: DTB_IA selects every entry. -/
theorem dtbFlush_all (s : State) : (dtbFlush s (fun _ => true)).dtb = [] :=
  List.filter_eq_nil_iff.2 fun _ _ => Bool.false_ne_true

/-- Settles O42: each write is the flush of its predicate (by evaluation of `writeCsr`), and the predicate selects the
entries the rule names. -/
theorem tlbFlushes : Obligations.TlbFlushes := by
  intro s d
  refine ⟨?itbIa, ?itbIv, ?itbIvp, ?itbIu, ?itbIs, ?dtbIa, ?dtbIv, ?dtbIvp, ?dtbIu, ?dtbIs⟩
  case itbIa => exact ⟨_, rfl, itbFlush_all s⟩
  case itbIv => exact ⟨_, rfl, itbFlush_some_iff s fun _ => decide_eq_true_iff⟩
  case itbIvp => exact ⟨_, rfl, itbFlush_some_iff s fun _ => flushSelects_private_iff ..⟩
  case itbIu => exact ⟨_, rfl, itbFlush_some_iff s fun _ => flushSelects_process_iff ..⟩
  case itbIs => exact ⟨_, rfl, itbFlush_some_iff s fun _ => flushSelects_page_iff ..⟩
  case dtbIa => exact ⟨_, rfl, dtbFlush_all s⟩
  case dtbIv => exact ⟨_, rfl, mem_dtbFlush_iff s fun _ => decide_eq_true_iff⟩
  case dtbIvp => exact ⟨_, rfl, mem_dtbFlush_iff s fun _ => flushSelects_private_iff ..⟩
  case dtbIu => exact ⟨_, rfl, mem_dtbFlush_iff s fun _ => flushSelects_process_iff ..⟩
  case dtbIs => exact ⟨_, rfl, mem_dtbFlush_iff s fun _ => flushSelects_page_iff ..⟩

end Sys2Proof.Machine

/-! The privileged instructions outside HM (R418). All of them pass one decode stage, so what they do there does not
depend on what they do in HM. -/

namespace Sys2Proof.Machine

/-- A privileged load outside HM (R418). -/
theorem priLoad_outsideHm {s : State} (ra rb : BitVec 5) (d : BitVec 12) (f : AccForm) (n : Nat)
    (hmode : s.mode ≠ 0#2) : priLoad s ra rb d f n = .next (s.raiseOpcdec false) := privStage_outsideHm _ hmode

/-- A privileged store outside HM (R418). -/
theorem priStore_outsideHm {s : State} (ra rb : BitVec 5) (d : BitVec 12) (f : AccForm) (n : Nat)
    (hmode : s.mode ≠ 0#2) : priStore s ra rb d f n = .next (s.raiseOpcdec false) := privStage_outsideHm _ hmode

/-- A privileged atomic outside HM (R418). -/
theorem priAtomic_outsideHm {s : State} (ra rb : BitVec 5) (d : BitVec 12) (n : Nat) (o : AtomicOp)
    (hmode : s.mode ≠ 0#2) : priAtomic s ra rb d n o = .next (s.raiseOpcdec false) := privStage_outsideHm _ hmode

/-- PRI_RET outside HM (R418). -/
theorem priReturn_outsideHm {s : State} (ra : BitVec 5) (hmode : s.mode ≠ 0#2) :
    priReturn s ra = .next (s.raiseOpcdec false) := privStage_outsideHm _ hmode

/-- Settles O14: outside HM the decode stage of a privileged instruction answers before its body, and what it answers is
OPCDEC without LOCK_IGL. -/
theorem privilegedOutsideHm : Obligations.PrivilegedOutsideHm := by
  intro s ra rb d idx hmode i hi
  have hexec : exec i s = .next (s.raiseOpcdec false) := by
    revert i
    simp only [List.forall_mem_cons]
    refine ⟨?rcsr, ?wcsr, ?ret, ?retB, ?ldwP, ?ldlP, ?ldwIncP, ?ldlIncP, ?ldwDecP, ?ldlDecP, ?ldwSetP, ?ldlSetP, ?ldwV,
      ?ldlV, ?ldwVpte, ?ldlVpte, ?stwP, ?stlP, ?stwV, ?stlV, ?noOther⟩
    case rcsr => exact (privStage_outsideHm _ hmode : execPriRcsr ra idx s = _)
    case wcsr => exact (privStage_outsideHm _ hmode : execPriWcsr ra idx s = _)
    case ret => exact priReturn_outsideHm ra hmode
    case retB => exact (privStage_outsideHm _ hmode : execPriRetB ra s = _)
    case ldwP | ldlP | ldwV | ldlV | ldwVpte | ldlVpte => exact priLoad_outsideHm ra rb d _ _ hmode
    case ldwIncP | ldlIncP | ldwDecP | ldlDecP | ldwSetP | ldlSetP => exact priAtomic_outsideHm ra rb d _ _ hmode
    case stwP | stlP | stwV | stlV => exact priStore_outsideHm ra rb d _ _ hmode
    case noOther => exact fun _ h => nomatch h
  exact ⟨s.raiseOpcdec false, hexec, raiseOpcdec_spec s false⟩

end Sys2Proof.Machine

/-! The entry address of a SYS_CALL function (R412): the number that its bit fields make, then the number of each block
of 0x40 functions. -/

namespace Sys2Proof.Machine

/-- Bits put below others add to their multiple. -/
theorem toNat_append_eq_add {m n : Nat} (x : BitVec m) (y : BitVec n) : (x ++ y).toNat = x.toNat * 2 ^ n + y.toNat := by
  rw [BitVec.toNat_append, ← Nat.shiftLeft_add_eq_or_of_lt y.isLt, Nat.shiftLeft_eq]

/-- R412: PRI_BASE[46:16] selects 0x10000 bytes, the level 0x2000 of them, fn[5:0] 0x80 of these. -/
theorem sysCallEntry_toNat (s : State) (fn : BitVec 25) : (sysCallEntry s fn).toNat =
    (s.csr.priBase.extractLsb' 16 31).toNat * 2 ^ 16 + 0x2000 * (sysCallLevel (fn.extractLsb' 6 2)).toNat +
      0x80 * (fn.toNat % 0x40) := by
  have hoffset : (fn.extractLsb' 0 6).toNat = fn.toNat % 0x40 := by rw [BitVec.extractLsb'_toNat, Nat.shiftRight_zero]
  simp only [sysCallEntry, toNat_append_eq_add, hoffset, BitVec.toNat_ofNat]
  omega

/-- The block of 0x40 functions that a function lies in is fn[7:6]. -/
theorem sysCallBlock_eq {fn : BitVec 25} {l : BitVec 2} (hlo : 0x40 * l.toNat ≤ fn.toNat)
    (hhi : fn.toNat < 0x40 * l.toNat + 0x40) : fn.extractLsb' 6 2 = l := by
  apply BitVec.eq_of_toNat_eq
  rw [BitVec.extractLsb'_toNat, Nat.shiftRight_eq_div_pow]
  omega

/-- R412: the entry of a function of the block `l` lies in the block of the level that `l` stands for, as far from its
start as the function from the block's first, at 0x80 bytes each. -/
theorem sysCallEntry_toNat_of_block (s : State) {fn : BitVec 25} (l : BitVec 2) (hlo : 0x40 * l.toNat ≤ fn.toNat)
    (hhi : fn.toNat < 0x40 * l.toNat + 0x40) : (sysCallEntry s fn).toNat =
      (s.csr.priBase.extractLsb' 16 31).toNat * 2 ^ 16 + 0x2000 * (sysCallLevel l).toNat +
        0x80 * (fn.toNat - 0x40 * l.toNat) := by
  have hfirst : fn.toNat % 0x40 = fn.toNat - 0x40 * l.toNat := by omega
  rw [sysCallEntry_toNat, sysCallBlock_eq hlo hhi, hfirst]

/-- Settles O23: the blocks 0, 1 and 2 of functions are the kernel's, the virtual machine's and the user's. -/
theorem sysCallEntryAddress : Obligations.SysCallEntryAddress := by
  intro s fn
  refine ⟨?kernel, ?virtualMachine, ?user⟩
  case kernel => exact fun hhi => sysCallEntry_toNat_of_block s 0#2 (Nat.zero_le _) hhi
  case virtualMachine => exact fun hlo hhi => sysCallEntry_toNat_of_block s 1#2 hlo hhi
  case user => exact fun hlo hhi => sysCallEntry_toNat_of_block s 2#2 hlo hhi

end Sys2Proof.Machine

/-! What an instruction that does not control the mode, the translation buffers or the CSRs can do: it ends as `Ordinary`
says. The predicate `EndsOrdinary` says it of an outcome, so that the meanings are followed through their stages; the shared
operations of each group of instructions come first, every instruction last (`exec_endsOrdinary`). -/

namespace Sys2Proof.Machine

/-- The outcome of a meaning that starts in `s`, where it has one, is an ordinary end. -/
structure EndsOrdinary (s : State) (o : Host.Outcome State Fault Refusal) : Prop where
  ordinary : ∀ t, o = .next t → Ordinary s t

theorem EndsOrdinary.next {s t : State} (h : Ordinary s t) : EndsOrdinary s (.next t) :=
  ⟨by rintro _ ⟨⟩; exact h⟩

/-- The exceptions of the decode stage are ordinary ends, so only the body matters. -/
theorem EndsOrdinary.decodeStage {s : State} {legal lk : Bool} {f : FpClass}
    {body : State → Host.Outcome State Fault Refusal} (h : EndsOrdinary s (body s)) :
    EndsOrdinary s (decodeStage s legal lk f body) :=
  ⟨fun _ ht => decodeStage_ordinary ht fun _ => h.ordinary _⟩

/-- See `EndsOrdinary.decodeStage`. -/
theorem EndsOrdinary.plainStage {s : State} {body : State → Host.Outcome State Fault Refusal}
    (h : EndsOrdinary s (body s)) : EndsOrdinary s (plainStage s body) := .decodeStage h

/-- See `EndsOrdinary.decodeStage`. -/
theorem EndsOrdinary.privStage {s : State} {body : State → Host.Outcome State Fault Refusal}
    (h : EndsOrdinary s (body s)) : EndsOrdinary s (privStage s body) := .decodeStage h

/-- See `EndsOrdinary.decodeStage`. -/
theorem EndsOrdinary.floatStage {s : State} {body : State → Host.Outcome State Fault Refusal}
    (h : EndsOrdinary s (body s)) : EndsOrdinary s (floatStage s body) := .decodeStage h

/-- See `EndsOrdinary.decodeStage`. -/
theorem EndsOrdinary.simdStage {s : State} {body : State → Host.Outcome State Fault Refusal}
    (h : EndsOrdinary s (body s)) : EndsOrdinary s (simdStage s body) := .decodeStage h

/-- A data access that takes an exception or goes on with a value. -/
theorem KeptOr.settle {α : Type} {s : State} {r : Except State (α × State)} {k : α × State → State} (h : KeptOr s r)
    (hk : ∀ a u, Kept s u → Ordinary s (k (a, u))) : EndsOrdinary s (settle r k) := by
  rcases h with ⟨t, rfl, ht⟩ | ⟨a, u, rfl, hu⟩
  · exact .next ht
  · exact .next (hk a u hu)

/-- What no ordinary end speaks of may change inside a meaning. -/
theorem Kept.outside {s t u : State} (h : Kept s t)
    (hu : u = { t with
      lock := u.lock, fpcr := u.fpcr, ioWin := u.ioWin, armedData := u.armedData, out := u.out
      unsynced := u.unsynced, track := u.track }) : Kept s u := by
  rw [hu]
  exact ⟨h.itb, h.itbPtr, h.dtb, h.control, h.priBase, h.memWf, h.sr, h.pc⟩

/-- The same after the pc has moved. -/
theorem Ordinary.outside {s t u : State} (h : Ordinary s t)
    (hu : u = { t with power := u.power, unsynced := u.unsynced }) : Ordinary s u := by
  rw [hu]
  exact ⟨h.itb, h.itbPtr, h.dtb, h.control, h.memWf, h.sr, h.goes⟩

/-! ### Integer operations and control transfers -/

theorem operate_endsOrdinary (s : State) (rc : BitVec 5) (w : W64) : EndsOrdinary s (operate s rc w) :=
  .plainStage (.next (((Kept.refl s).setX rc w).retire .plain))

/-- A displacement counts words, so a branch stays in its mode (R522, R805). -/
theorem branchTarget_mode (s : State) (d : BitVec 21) : (s.branchTarget d).extractLsb' 0 2 = s.mode := by
  have hadd : ∀ w x : W64, (w + (x <<< 2)).extractLsb' 0 2 = w.extractLsb' 0 2 := by
    intro w x
    apply BitVec.eq_of_toNat_eq
    simp only [BitVec.extractLsb'_toNat, BitVec.toNat_add, BitVec.toNat_shiftLeft, Nat.shiftLeft_eq, Nat.shiftRight_zero]
    omega
  exact (hadd _ _).trans (pc_add_four_mode s.pc)

/-- A jump takes its mode from the pc, not from the register (R522, R805). -/
theorem jumpTarget_mode (s : State) (w : W64) : (s.jumpTarget w).extractLsb' 0 2 = s.mode :=
  (BitVec.extractLsb'_append_eq_of_add_le (by decide)).trans BitVec.extractLsb'_eq_self

/-- IACV by a target (R550). -/
theorem raiseTarget_ordinary (s : State) (ra : BitVec 5) (n : Nat) (w : W64) : Ordinary s (s.raiseTarget ra n w) :=
  Trapped.ordinary ⟨⟨rfl, rfl, rfl, rfl, rfl, rfl, rfl, rfl, id, rfl, rfl, rfl⟩, 0xD00, by decide, rfl⟩

theorem takeBranch_ordinary (s : State) (e : EventClass) (ra : BitVec 5) (link : Bool) (iva : W64) {target : W64}
    (h : target.extractLsb' 0 2 = s.mode) : Ordinary s (takeBranch s e ra link iva target) := by
  unfold takeBranch
  split
  · exact raiseTarget_ordinary ..
  · exact (Kept.refl s).transfer _ _ _ _ h

theorem jumpTo_endsOrdinary (s : State) (e : EventClass) (ra rb : BitVec 5) : EndsOrdinary s (jumpTo s e ra rb) := by
  refine .plainStage ?_
  dsimp only
  split
  · exact .next (takeBranch_ordinary _ _ _ _ _ (jumpTarget_mode ..))
  · exact .next (raiseTarget_ordinary ..)

theorem branchIf_endsOrdinary (s : State) (c : Bool) (ra : BitVec 5) (d : BitVec 21) :
    EndsOrdinary s (branchIf s c ra d) := by
  refine .plainStage ?_
  split
  · exact .next (takeBranch_ordinary _ _ _ _ _ (branchTarget_mode ..))
  · exact .next ((Kept.refl s).unlock.retire _)

theorem execBsr_endsOrdinary (s : State) (ra : BitVec 5) (d : BitVec 21) : EndsOrdinary s (execBsr ra d s) :=
  .plainStage (.next (takeBranch_ordinary _ _ _ _ _ (branchTarget_mode ..)))

/-! ### Barriers and the reads of system registers -/

theorem execMemb_endsOrdinary (s : State) : EndsOrdinary s (execMemb s) := by
  have hsettled : Kept s { s.settleRaces.noteMemb with ioWin := none } :=
    ((Kept.refl s).accessed (touched_settleRaces s).accessed).outside rfl
  refine .plainStage (.next (Kept.retire ?_ _))
  split
  · exact hsettled.outside rfl
  · exact hsettled

theorem execImemb_endsOrdinary (s : State) : EndsOrdinary s (execImemb s) :=
  .plainStage (.next (((Kept.refl s).retire .plain).outside rfl))

theorem execHalt_endsOrdinary (s : State) : EndsOrdinary s (execHalt s) := by
  refine .decodeStage ?_
  dsimp only
  split
  · exact .next ((Kept.refl s).retire _)
  · exact .next (((Kept.refl s).retire .plain).outside rfl)

theorem execPriRcsr_endsOrdinary (s : State) (ra : BitVec 5) (idx : BitVec 8) :
    EndsOrdinary s (execPriRcsr ra idx s) :=
  .privStage (.next ((((Kept.refl s).setX ..).retire _).outside (by unfold State.noteRead; split <;> rfl)))

/-! ### Scalar loads and stores -/

theorem loadXOr31_endsOrdinary (s : State) (a : Acc) (va : W64) : EndsOrdinary s (loadXOr31 s a va) :=
  ⟨fun _ => loadXOr31_ordinary⟩

theorem loadF_endsOrdinary (s : State) (a : Acc) (va : W64) (cvt : Nat → W64) : EndsOrdinary s (loadF s a va cvt) :=
  ⟨fun _ => loadF_ordinary⟩

theorem storeV_endsOrdinary (s : State) (a : Acc) (va : W64) (v : Nat) : EndsOrdinary s (storeV s a va v) :=
  ⟨fun _ => storeV_ordinary⟩

theorem scalarLoad_endsOrdinary (s : State) (ra rb : BitVec 5) (d : BitVec 16) (n : Nat) :
    EndsOrdinary s (scalarLoad s ra rb d n) := .plainStage (loadXOr31_endsOrdinary ..)

theorem ncLoad_endsOrdinary (s : State) (ra rb : BitVec 5) (d : BitVec 12) (n : Nat) :
    EndsOrdinary s (ncLoad s ra rb d n) := .plainStage (loadXOr31_endsOrdinary ..)

theorem scalarStore_endsOrdinary (s : State) (ra rb : BitVec 5) (d : BitVec 16) (n : Nat) :
    EndsOrdinary s (scalarStore s ra rb d n) := .plainStage (storeV_endsOrdinary ..)

theorem ncStore_endsOrdinary (s : State) (ra rb : BitVec 5) (d : BitVec 12) (n : Nat) :
    EndsOrdinary s (ncStore s ra rb d n) := .plainStage (storeV_endsOrdinary ..)

theorem execLdlU_endsOrdinary (s : State) (ra rb : BitVec 5) (d : BitVec 16) : EndsOrdinary s (execLdlU ra rb d s) := by
  unfold execLdlU
  split
  · exact scalarLoad_endsOrdinary ..
  · exact .plainStage (loadXOr31_endsOrdinary ..)

theorem priLoad_endsOrdinary (s : State) (ra rb : BitVec 5) (d : BitVec 12) (f : AccForm) (n : Nat) :
    EndsOrdinary s (priLoad s ra rb d f n) := by
  refine .privStage ?_
  dsimp only
  split
  · exact ⟨fun _ => loadX_ordinary⟩
  · exact KeptOr.settle ((Kept.refl s).doLoad ..) fun _ _ hk => (hk.setX ..).retire _

theorem priStore_endsOrdinary (s : State) (ra rb : BitVec 5) (d : BitVec 12) (f : AccForm) (n : Nat) :
    EndsOrdinary s (priStore s ra rb d f n) := by
  refine .privStage ?_
  dsimp only
  split
  · exact storeV_endsOrdinary ..
  · exact storeV_endsOrdinary ..

theorem atomic_endsOrdinary (s : State) (ra rb : BitVec 5) (d : BitVec 12) (n : Nat) (o : AtomicOp) :
    EndsOrdinary s (atomic s ra rb d n o) :=
  .plainStage ⟨fun _ => atomicX_ordinary⟩

theorem priAtomic_endsOrdinary (s : State) (ra rb : BitVec 5) (d : BitVec 12) (n : Nat) (o : AtomicOp) :
    EndsOrdinary s (priAtomic s ra rb d n o) := by
  refine .privStage ?_
  dsimp only
  split
  · exact ⟨fun _ => atomicX_ordinary⟩
  · exact KeptOr.settle (doAtomic_kept ..) fun _ _ hk => (hk.setX ..).retire _

/-! ### The lock instructions -/

theorem lockLoad_endsOrdinary (s : State) (ra rb : BitVec 5) (d : BitVec 12) (n : Nat) :
    EndsOrdinary s (lockLoad s ra rb d n) := by
  refine .plainStage ?_
  dsimp only
  rcases dataPhase_cases s { loadAcc ra n with lock := true } (s.ea12 rb d) with ⟨t, h, ht⟩ | ⟨pa, t, h, -, ht⟩
  · rw [h]
    exact .next ht.ordinary
  · rw [h]
    have hread : Kept s (t.load false (memAddr pa) n).2 :=
      ((Kept.refl s).accessed ht.accessed).accessed (touched_load ..).accessed
    exact .next (((hread.outside rfl).setX ..).retire _)

theorem lockStore_endsOrdinary (s : State) (ra rb : BitVec 5) (d : BitVec 12) (n : Nat) :
    EndsOrdinary s (lockStore s ra rb d n) := by
  refine .decodeStage ?_
  dsimp only
  split
  case h_1 t h => exact .next (addressPhase_error h).ordinary
  case h_2 pa _ =>
    split
    case h_1 t h =>
      split at h
      · exact .next (matchPhase_error h).ordinary
      · cases h
    case h_2 =>
      rcases physicalPhase_cases s { storeAcc ra n with lock := true, data := some (s.getX ra).toNat } (s.ea12 rb d) pa with
        ⟨t, h, ht⟩ | ⟨u, h, hu⟩
      · rw [h]
        exact .next ht.ordinary
      · rw [h]
        have hchecked : Kept s u := (Kept.refl s).accessed hu.accessed
        refine .next (Kept.retire (Kept.outside (t := if lockOk s.lock pa n then
          u.save true (memAddr pa) n (s.getX ra).toNat else u) ?_ rfl) _)
        split
        · exact hchecked.accessed (touched_save ..).accessed
        · exact hchecked

theorem execRdF_endsOrdinary (s : State) (ra : BitVec 5) : EndsOrdinary s (execRdF ra s) := by
  refine .decodeStage ?_
  split
  · exact .next ((Kept.refl s).retire _)
  · exact .next (((Kept.refl s).setX ..).retire _)

theorem execWrF_endsOrdinary (s : State) (ra : BitVec 5) : EndsOrdinary s (execWrF ra s) :=
  .plainStage (.next (((Kept.refl s).outside rfl).retire _))

/-! ### Cache control -/

theorem fetchLine_endsOrdinary (s : State) (rb : BitVec 5) (d : BitVec 16) (op : BitVec 3) :
    EndsOrdinary s (fetchLine s rb d op) := by
  have hnop : EndsOrdinary s (.next (s.retire .nopRead)) := .next ((Kept.refl s).retire _)
  refine .plainStage ?_
  dsimp only
  split
  · exact hnop
  split
  case h_1 =>
    split
    · exact .next (trapped_dtbMiss ..).ordinary
    · exact hnop
  case h_2 => exact hnop
  case h_3 =>
    split
    · exact hnop
    split
    · exact hnop
    · exact .next (((Kept.refl s).outside rfl).retire _)

/-- What the response to an evict can answer. -/
theorem evictResponse_cases (s : State) (a : Acc) (pa : PAddr) :
    (∃ t, evictResponse s a pa = .error t ∧ Trapped s t) ∨ ∃ t, evictResponse s a pa = .ok t ∧ Passed s t := by
  have hconsume : Passed s { s with armedData := none } := ⟨checked_consume s s.ioWin, rfl, rfl⟩
  have lift : ∀ r : Except State State,
      ((∃ t, r = .error t ∧ Trapped { s with armedData := none } t) ∨
        ∃ t, r = .ok t ∧ Passed { s with armedData := none } t) →
      (∃ t, r = .error t ∧ Trapped s t) ∨ ∃ t, r = .ok t ∧ Passed s t := by
    rintro r (⟨t, hr, ht⟩ | ⟨t, hr, ht⟩)
    · exact .inl ⟨t, hr, .of_checked hconsume.1 ht⟩
    · exact .inr ⟨t, hr, hconsume.trans ht⟩
  unfold evictResponse
  dsimp only
  split
  case h_1 =>
    split
    · exact lift _ (controlResponse_cases _)
    · exact .inr ⟨_, rfl, hconsume⟩
  case h_2 =>
    split
    · exact lift _ (eccResponse_cases ..)
    · exact .inr ⟨_, rfl, hconsume⟩
  case h_3 => exact .inr ⟨_, rfl, Passed.refl s⟩

theorem evictLine_endsOrdinary (s : State) (rb : BitVec 5) (d : BitVec 16) (f : AccForm) (enable : Nat) (op : BitVec 3) :
    EndsOrdinary s (evictLine s rb d f enable op) := by
  refine .decodeStage ?_
  dsimp only
  split
  · exact .next (trapped_dfault ..).ordinary
  split
  case h_1 t h =>
    split
    · exact .next (addressPhase_error h).ordinary
    · exact .next ((Kept.refl s).retire _)
  case h_2 pa _ =>
    split
    · exact .next ((Kept.refl s).retire _)
    split
    case h_1 t h => exact .next (matchPhase_error h).ordinary
    case h_2 =>
      split
      · rcases evictResponse_cases s (cacheAcc s f) pa with ⟨t, h, ht⟩ | ⟨t, h, ht⟩
        · rw [h]
          exact .next ht.ordinary
        · rw [h]
          exact .next ((((Kept.refl s).accessed ht.accessed).outside rfl).retire _)
      · have herror : Kept s s.unlock.requestError :=
          (Kept.refl s).unlock.accessed (Passed.accessed ⟨checked_requestError _, by simp, by simp⟩)
        split
        · exact .next (herror.trapped (trapped_dfault ..))
        · exact .next (herror.retire _)

/-! ### Floating and vector instructions -/

theorem finishFloat_ordinary {s t : State} (h : Kept s t) (rd : BitVec 5) (status bits : W64) :
    Ordinary s (finishFloat t rd status bits) := by
  have hcounted := (h.setFpcr (t.fpcr ||| status)).count .plain
  unfold finishFloat
  dsimp only
  split
  · exact hcounted.nextPc
  · exact hcounted.raiseArith ..

theorem scalarFloat_endsOrdinary (s : State) (fa fb fc : BitVec 5) (toInt : Bool)
    (f : Nat → Bool → W64 → W64 → FpResult) : EndsOrdinary s (scalarFloat s fa fb fc toInt f) :=
  .floatStage (.next (finishFloat_ordinary ((Kept.refl s).setF ..) ..))

theorem vectorFloat_endsOrdinary (s : State) (fa fb fc : BitVec 5) (f : Nat → Bool → W64 → W64 → FpResult) :
    EndsOrdinary s (vectorFloat s fa fb fc f) :=
  .simdStage (.next (finishFloat_ordinary ((Kept.refl s).setV ..) ..))

theorem setFpec_endsOrdinary (s : State) (n : BitVec 2) : EndsOrdinary s (setFpec s n) :=
  .floatStage (.next (((Kept.refl s).setFpcr _).retire _))

theorem vecLoad_endsOrdinary (s : State) (a : Acc) (va : W64) (int : Bool) (cvt : Nat → V256) :
    EndsOrdinary s (vecLoad s a va int cvt) := by
  refine .simdStage ?_
  split
  · exact .next ((Kept.refl s).retire _)
  · exact KeptOr.settle ((Kept.refl s).doLoad ..) fun _ _ hk => (hk.setV ..).retire _

theorem vecLoadU_endsOrdinary (s : State) (a : Acc) (va : W64) (int : Bool) (cvt : Nat → V256) :
    EndsOrdinary s (vecLoadU s a va int cvt) := by
  refine .simdStage ?_
  split
  · exact .next ((Kept.refl s).retire _)
  · exact KeptOr.settle (splitLoad_kept (Kept.refl s) ..) fun _ _ hk => (hk.setV ..).retire _

theorem vecStore_endsOrdinary (s : State) (a : Acc) (va : W64) (image : Nat) : EndsOrdinary s (vecStore s a va image) :=
  .simdStage (storeV_endsOrdinary ..)

theorem vecStoreLow_endsOrdinary (s : State) (a : Acc) (va : W64) (image : Nat) :
    EndsOrdinary s (vecStoreLow s a va image) :=
  .simdStage (storeV_endsOrdinary ..)

theorem vecStoreHigh_endsOrdinary (s : State) (a : Acc) (va : W64) (image : Nat) :
    EndsOrdinary s (vecStoreHigh s a va image) := by
  refine .simdStage ?_
  unfold highStore
  rcases checkHigh_cases s a va image 32 with ⟨t, h, ht⟩ | ⟨l, t, h, ht⟩
  · rw [h]
    exact .next ht.ordinary
  · rw [h]
    exact .next ((((Kept.refl s).accessed ht.accessed).performAll l).retire _)

/-! ### Every instruction -/

/-- The instructions with an end of their own: the entries of SYS_CALL, the returns, and the write of a CSR. -/
def isOrdinary (i : Instr) : Bool :=
  match i with
  | .sysCall _ | .sysCallB _ | .priRet _ | .priRetB _ | .priWcsr _ _ => false
  | _ => true

/-- The meaning of an ordinary instruction is one of the shared operations above, or a register write that retires. -/
theorem exec_endsOrdinary (s : State) {i : Instr} (hi : isOrdinary i = true) : EndsOrdinary s (exec i s) := by
  cases i
  case sysCall | sysCallB | priRet | priRetB | priWcsr => cases hi
  case call | ret | jmp | jsr => exact jumpTo_endsOrdinary ..
  case bsr => exact execBsr_endsOrdinary ..
  case beq | bne => exact branchIf_endsOrdinary ..
  case memb => exact execMemb_endsOrdinary s
  case imemb => exact execImemb_endsOrdinary s
  case halt => exact execHalt_endsOrdinary s
  case nop => unfold exec; exact .plainStage (.next ((Kept.refl s).retire _))
  case rtc | rcid | rtid => unfold exec; exact .plainStage (.next (((Kept.refl s).setX ..).retire _))
  case priRcsr => exact execPriRcsr_endsOrdinary ..
  case rdF => exact execRdF_endsOrdinary ..
  case wrF => exact execWrF_endsOrdinary ..
  case lldw | lldl => exact lockLoad_endsOrdinary ..
  case lstw | lstl => exact lockStore_endsOrdinary ..
  case ldwInc | ldlInc | ldwDec | ldlDec | ldwSet | ldlSet => exact atomic_endsOrdinary ..
  case addw | mulw | mull | umulh | cmpeq | bis | xor => exact operate_endsOrdinary ..
  case addwLit | mulwLit | mullLit | umulhLit | cmpeqLit | bisLit | xorLit | ldi => exact operate_endsOrdinary ..
  case ldbu | ldhu | ldw | ldl => exact scalarLoad_endsOrdinary ..
  case ldlU => exact execLdlU_endsOrdinary ..
  case ldwNc | ldlNc => exact ncLoad_endsOrdinary ..
  case flds | fldd | lddNc => unfold exec; exact .decodeStage (loadF_endsOrdinary ..)
  case stb | sth | stw | stl => exact scalarStore_endsOrdinary ..
  case stwNc | stlNc => exact ncStore_endsOrdinary ..
  case fsts | fstd | stdNc => unfold exec; exact .decodeStage (storeV_endsOrdinary ..)
  case priLdwP | priLdlP | priLdwV | priLdlV | priLdwVpte | priLdlVpte => exact priLoad_endsOrdinary ..
  case priStwP | priStlP | priStwV | priStlV => exact priStore_endsOrdinary ..
  case priLdwIncP | priLdlIncP | priLdwDecP | priLdlDecP | priLdwSetP | priLdlSetP => exact priAtomic_endsOrdinary ..
  case fetchd | fetchdE => exact fetchLine_endsOrdinary ..
  case flushd | evictdl | evictdg => exact evictLine_endsOrdinary ..
  case faddd => exact scalarFloat_endsOrdinary ..
  case vaddd => exact vectorFloat_endsOrdinary ..
  case rfpcr => unfold exec; exact .floatStage (.next (((Kept.refl s).setF ..).retire _))
  case wfpcr => unfold exec; exact .floatStage (.next (((Kept.refl s).setFpcr _).retire _))
  case setfpec0 | setfpec1 | setfpec2 | setfpec3 => exact setFpec_endsOrdinary ..
  case vinsf | vinsw | vcpyf => unfold exec; exact .simdStage (.next (((Kept.refl s).setV ..).retire _))
  case vextf | vextw => unfold exec; exact .simdStage (.next (((Kept.refl s).setF ..).retire _))
  case fimov => unfold exec; exact .decodeStage (.next (((Kept.refl s).setX ..).retire _))
  case ifmov => unfold exec; exact .decodeStage (.next (((Kept.refl s).setF ..).retire _))
  case vlddNc | vlds | vldd | ldwe | ldse | ldde =>
    dsimp only [exec, execVlddNc, execVlds, execVldd, execLdwe, execLdse, execLdde]
    exact vecLoad_endsOrdinary ..
  case vldwU | vldsU | vlddU =>
    dsimp only [exec, execVldwU, execVldsU, execVlddU]
    exact vecLoadU_endsOrdinary ..
  case vstdNc | vsts | vstd =>
    dsimp only [exec, execVstdNc, execVsts, execVstd]
    exact vecStore_endsOrdinary ..
  case vstwUl | vstsUl | vstdUl =>
    dsimp only [exec, execVstwUl, execVstsUl, execVstdUl]
    exact vecStoreLow_endsOrdinary ..
  case vstwUh | vstsUh | vstdUh =>
    dsimp only [exec, execVstwUh, execVstsUh, execVstdUh]
    exact vecStoreHigh_endsOrdinary ..

end Sys2Proof.Machine

/-! The mode (R36, R521–R523): an entry address lies in HM, an ordinary instruction keeps the mode or enters there, and
SYS_CALL, the returns and the CSR writes are told apart from these by their bodies. -/

namespace Sys2Proof.Machine

/-- The mode of an entry address is that of its offset (R524). -/
theorem entry_mode (s : State) (off : BitVec 16) : (s.entry off).extractLsb' 0 2 = off.extractLsb' 0 2 :=
  BitVec.extractLsb'_append_eq_of_add_le (by decide)

/-- Every exception entry is in HM (R522, R524). -/
theorem mode_of_exceptionEntry {s t : State} {off : BitVec 16} (hoff : off ∈ exceptionOffsets) (hpc : t.pc = s.entry off) :
    t.mode = 0#2 := by
  have hlow : exceptionOffsets.all (fun o => decide (o.extractLsb' 0 2 = 0#2)) = true := by decide
  rw [State.mode, hpc, entry_mode]
  exact of_decide_eq_true (List.all_eq_true.1 hlow off hoff)

/-- Every SYS_CALL entry is in HM (R412, R522). -/
theorem sysCallEntry_mode (s : State) (fn : BitVec 25) : (sysCallEntry s fn).extractLsb' 0 2 = 0#2 :=
  (BitVec.extractLsb'_append_eq_of_add_le (by decide)).trans (by decide)

/-- An ordinary end keeps the mode or enters HM at an exception entry. -/
theorem Ordinary.mode_cases {s t : State} (h : Ordinary s t) :
    t.mode = s.mode ∨ t.mode = 0#2 ∧ ∃ off ∈ exceptionOffsets, t.pc = s.entry off :=
  h.goes.imp_right fun ⟨off, hoff, hpc⟩ => ⟨mode_of_exceptionEntry hoff hpc, off, hoff, hpc⟩

/-- What the decode stage lets through runs the body; the rest is an ordinary end. -/
theorem decodeStage_ordinary_or_body {s t : State} {legal lk : Bool} {f : FpClass}
    {body : State → Host.Outcome State Fault Refusal} (h : decodeStage s legal lk f body = .next t) :
    Ordinary s t ∨ legal = true ∧ body s = .next t := by
  by_cases hbody : legal = true ∧ body s = .next t
  · exact .inr hbody
  · exact .inl (decodeStage_ordinary h fun hl hb => absurd ⟨hl, hb⟩ hbody)

/-- What a SYS_CALL can do: an ordinary end, or the entry of its function (R411). -/
theorem sysCall_cases {s t : State} {fn : BitVec 25} (h : sysCall fn s = .next t) :
    Ordinary s t ∨ t.pc = sysCallEntry s fn := by
  rcases decodeStage_ordinary_or_body h with ho | ⟨-, hbody⟩
  · exact .inl ho
  split at hbody
  · injection hbody with hbody
    exact .inl (hbody ▸ (Kept.refl s).retire _)
  · injection hbody with hbody
    exact .inr (hbody ▸ rfl)

/-- What a privileged instruction can do: an ordinary end, or its body in HM (R418). -/
theorem privStage_cases {s t : State} {body : State → Host.Outcome State Fault Refusal}
    (h : privStage s body = .next t) : Ordinary s t ∨ s.mode = 0#2 ∧ body s = .next t :=
  (decodeStage_ordinary_or_body h).imp_right fun ⟨hm, hbody⟩ => ⟨of_decide_eq_true hm, hbody⟩

/-- What a PRI_RET can do: an ordinary end, or in HM the return to what the register holds (R415). -/
theorem priReturn_cases {s t : State} {ra : BitVec 5} (h : priReturn s ra = .next t) :
    Ordinary s t ∨ s.mode = 0#2 ∧ t.pc = s.getX ra :=
  (privStage_cases h).imp_right fun ⟨hm, hbody⟩ => ⟨hm, by injection hbody with hbody; rw [← hbody, State.leave_pc]⟩

/-- See `priReturn_cases`: that PRI_RET/b drains the pipeline too moves no pc. -/
theorem execPriRetB_cases {s t : State} {ra : BitVec 5} (h : execPriRetB ra s = .next t) :
    Ordinary s t ∨ s.mode = 0#2 ∧ t.pc = s.getX ra :=
  (privStage_cases h).imp_right fun ⟨hm, hbody⟩ =>
    ⟨hm, by injection hbody with hbody; rw [← hbody, State.noteReturn_pc, State.leave_pc]⟩

@[simp] theorem State.noteWrite_pc (s t : State) (idx : BitVec 8) (w : W64) : (s.noteWrite t idx w).pc = t.pc := by
  unfold State.noteWrite
  split <;> rfl

/-- No CSR write moves the pc. -/
theorem writeCsr_pc {s t : State} {idx : BitVec 8} {w : W64} (h : writeCsr s idx w = .ok t) : t.pc = s.pc := by
  have hok : ∀ u : State, (Except.ok u : Except Refusal State) = .ok t → u.pc = s.pc → t.pc = s.pc := by
    rintro u ⟨⟩ hu
    exact hu
  unfold writeCsr at h
  generalize csrName idx = n at h
  cases n
  case softErr | hardErr => exact hok _ h (by unfold reportRise; split <;> rfl)
  case timerCtl => exact hok _ h (by split <;> rfl)
  case dcCtl | scCtl =>
    dsimp only at h
    split at h
    · exact hok _ h rfl
    · cases h
  case intReq =>
    dsimp only at h
    split at h
    · exact hok _ h rfl
    · exact hok _ h rfl
  all_goals exact hok _ h rfl

/-- What a PRI_WCSR can do: an ordinary end, or the write, after which the next instruction follows (R417). -/
theorem execPriWcsr_cases {s t : State} {ra : BitVec 5} {idx : BitVec 8} (h : execPriWcsr ra idx s = .next t) :
    Ordinary s t ∨ t.mode = s.mode := by
  refine (privStage_cases h).imp_right fun ⟨_, hbody⟩ => ?_
  dsimp only at hbody
  split at hbody
  case h_1 u hu =>
    injection hbody with hbody
    rw [← hbody, State.nextPc_mode]
    exact mode_congr (by rw [State.noteWrite_pc, writeCsr_pc hu, State.count_pc])
  case h_2 => cases hbody

/-- What an instruction can do: an ordinary end, the entry of a SYS_CALL function, a return in HM, or the write of a CSR. -/
theorem exec_cases {s t : State} {i : Instr} (h : exec i s = .next t) :
    Ordinary s t ∨
    (∃ fn, (i = .sysCall fn ∨ i = .sysCallB fn) ∧ t.pc = sysCallEntry s fn) ∨
    (s.mode = 0#2 ∧ ∃ ra, (i = .priRet ra ∨ i = .priRetB ra) ∧ t.pc = s.getX ra) ∨
    ∃ ra idx, i = .priWcsr ra idx ∧ t.mode = s.mode := by
  cases hi : isOrdinary i
  case true => exact .inl ((exec_endsOrdinary s hi).ordinary t h)
  case false =>
    unfold isOrdinary at hi
    split at hi
    case h_1 fn => exact (sysCall_cases h).imp_right fun hpc => .inl ⟨fn, .inl rfl, hpc⟩
    case h_2 fn => exact (sysCall_cases h).imp_right fun hpc => .inl ⟨fn, .inr rfl, hpc⟩
    case h_3 ra => exact (priReturn_cases h).imp_right fun ⟨hm, hpc⟩ => .inr (.inl ⟨hm, ra, .inl rfl, hpc⟩)
    case h_4 ra => exact (execPriRetB_cases h).imp_right fun ⟨hm, hpc⟩ => .inr (.inl ⟨hm, ra, .inr rfl, hpc⟩)
    case h_5 ra idx => exact (execPriWcsr_cases h).imp_right fun hm => .inr (.inr ⟨ra, idx, rfl, hm⟩)
    case h_6 => cases hi

/-- Settles O11: of the ways an instruction can end (`exec_cases`) only an exception and a SYS_CALL enter HM, and only a
return takes the mode from a register. -/
theorem modeChanges : Obligations.ModeChanges := by
  intro s t i h
  rcases exec_cases h with hordinary | ⟨fn, hi, hpc⟩ | ⟨hm, ra, hi, hpc⟩ | ⟨ra, idx, -, hm⟩
  · exact hordinary.mode_cases.imp_right fun ⟨hm, hpc⟩ => .inl ⟨hm, .inl hpc⟩
  · exact .inr (.inl ⟨by rw [State.mode, hpc, sysCallEntry_mode], .inr ⟨fn, hi, hpc⟩⟩)
  · exact .inr (.inr ⟨hm, ra, hi, hpc⟩)
  · exact .inl hm

end Sys2Proof.Machine

/-! The evicts that CP_CTL disables (R553) and the pairing of lock stores and RD_F (R460, R554): illegal instructions of the
decode stage, OPCDEC without and with LOCK_IGL. -/

namespace Sys2Proof.Machine

/-- A flush or an evict whose bit of CP_CTL is 0 forms no address (R553). -/
theorem evictLine_disabled {s : State} {enable : Nat} (rb : BitVec 5) (d : BitVec 16) (f : AccForm) (op : BitVec 3)
    (h : s.csr.cpCtl.getLsbD enable = false) : evictLine s rb d f enable op = .next (s.raiseOpcdec false) := by
  unfold evictLine
  rw [h]
  exact decodeStage_illegal _ _ _ (.inr rfl)

/-- Settles O17: the decode stage finds a disabled evict illegal; CP_CTL has no writable bit, and a reset gives it the
configured value. -/
theorem evictsDisabled : Obligations.EvictsDisabled := by
  intro s rb d
  have hopcdec : ∀ i, exec i s = .next (s.raiseOpcdec false) → ∃ t, exec i s = .next t ∧ faultsTo s t 0xD80 ∧
      t.csr.iglInst = 0#32 ++ s.word ∧ ∃ r, excSumIs t r 0 := fun i hexec =>
    have ⟨hfault, higl, hsum, _⟩ := raiseOpcdec_spec s false
    ⟨_, hexec, hfault, higl, hsum⟩
  refine ⟨fun hglobal => ?evictGlobal, fun hlocal i hi => ?evictLocal, fun _ => rfl, rfl, fun m => ⟨?cold, ?powerOn⟩⟩
  case evictGlobal => exact hopcdec _ (evictLine_disabled rb d .normal 4 hglobal)
  case evictLocal =>
    simp only [List.mem_cons, List.not_mem_nil, or_false] at hi
    rcases hi with rfl | rfl
    · exact hopcdec _ (evictLine_disabled rb d .normal 3 hlocal)
    · exact hopcdec _ (evictLine_disabled rb d _ 2 hlocal)
  case cold => rw [State.coldReset_csr]; rfl
  case powerOn => rw [State.powerOnReset_csr]

theorem isRdF_iff (o : Option Instr) : isRdF o = true ↔ ∃ r, r ≠ 31#5 ∧ o = some (.rdF r) := by
  constructor
  · intro h
    unfold isRdF at h
    split at h
    · rename_i r
      exact ⟨r, of_decide_eq_true h, rfl⟩
    · cases h
  · rintro ⟨r, hr, rfl⟩
    exact decide_eq_true hr

theorem isLst_iff (o : Option Instr) :
    isLst o = true ↔ ∃ r b d, o = some (.lstw r b d) ∨ o = some (.lstl r b d) := by
  constructor
  · intro h
    unfold isLst at h
    split at h
    · exact ⟨_, _, _, .inl rfl⟩
    · exact ⟨_, _, _, .inr rfl⟩
    · cases h
  · rintro ⟨r, b, d, rfl | rfl⟩ <;> rfl

/-- A lock store that its slot or the next word leaves without its RD_F (R460). -/
theorem lstPaired_eq_false {s : State}
    (h : s.slot % 2 = 1 ∨ ∀ r, r ≠ 31#5 → s.groupInstr (s.slot + 1) ≠ some (.rdF r)) : lstPaired s = false := by
  rw [← Bool.not_eq_true, lstPaired, Bool.and_eq_true, decide_eq_true_eq, isRdF_iff]
  rintro ⟨hslot, r, hr, hnext⟩
  rcases h with h | h
  · omega
  · exact h r hr hnext

/-- An RD_F that its slot or the word before leaves without its lock store (R460). -/
theorem rdFPaired_eq_false {s : State}
    (h : s.slot % 2 = 0 ∨ ∀ r b d, s.groupInstr (s.slot - 1) ≠ some (.lstw r b d) ∧
      s.groupInstr (s.slot - 1) ≠ some (.lstl r b d)) : rdFPaired s = false := by
  rw [← Bool.not_eq_true, rdFPaired, Bool.and_eq_true, decide_eq_true_eq, isLst_iff]
  rintro ⟨hslot, r, b, d, hprev⟩
  rcases h with h | h
  · omega
  · exact hprev.elim (h r b d).1 (h r b d).2

/-- A lock store out of its pair is illegal (R554). -/
theorem lockStore_unpaired {s : State} (ra rb : BitVec 5) (d : BitVec 12) (n : Nat) (hu : unimplemented s = false)
    (h : lstPaired s = false) : lockStore s ra rb d n = .next (s.raiseOpcdec true) := by
  unfold lockStore
  rw [h]
  exact decodeStage_illegal _ _ _ (.inl hu)

/-- An RD_F to a register out of its pair is illegal (R554). -/
theorem execRdF_unpaired {s : State} {ra : BitVec 5} (hu : unimplemented s = false) (hra : ra ≠ 31#5)
    (h : rdFPaired s = false) : execRdF ra s = .next (s.raiseOpcdec true) := by
  unfold execRdF
  rw [h, decide_eq_false hra]
  exact decodeStage_illegal _ _ _ (.inl hu)

/-- Settles O49: the words of the group that the statement speaks of are those the pairing rules look at. -/
theorem lockPairing : Obligations.LockPairing := by
  intro s ra rb e hu wordAt k
  have hslot : s.slot = k := s.slot_eq
  have hwords : ∀ n, s.groupInstr n = wordAt n := fun _ => rfl
  have hopcdec : ∀ i, exec i s = .next (s.raiseOpcdec true) → ∃ t, exec i s = .next t ∧ faultsTo s t 0xD80 ∧
      t.csr.iglInst = 1#32 ++ s.word ∧ ∃ r, excSumIs t r 0 := fun i hexec =>
    have ⟨hfault, higl, hsum, _⟩ := raiseOpcdec_spec s true
    ⟨_, hexec, hfault, higl, hsum⟩
  rw [← hslot]
  constructor
  · intro hpair i hi
    have hillegal := lstPaired_eq_false hpair
    simp only [List.mem_cons, List.not_mem_nil, or_false] at hi
    rcases hi with rfl | rfl
    · exact hopcdec _ (lockStore_unpaired ra rb e 4 hu hillegal)
    · exact hopcdec _ (lockStore_unpaired ra rb e 8 hu hillegal)
  · intro hra hpair
    exact hopcdec _ (execRdF_unpaired hu hra (rdFPaired_eq_false hpair))

end Sys2Proof.Machine

/-! The CSRs that every reset initialises the same way (R717). What the three resets share is said once, as a fact about
the CSRs they leave; the values read then follow for every machine whose CSRs meet it. -/

namespace Sys2Proof.Machine

/-- The CSRs of R717 hold their values. IS_CTL holds its writable bits only: HM_PEN = 1 (R112). -/
structure Csrs.Initialised (c : Csrs) : Prop where
  isCtl : c.isCtl = 0x10000
  vpcr : c.vpcr = 0
  upcr : c.upcr = 0x7
  iaMatch : c.iaMatch = 0
  iaMask : c.iaMask = 0x7FFFFFFFFFFFFFFF
  hserrCnt : c.hserrCnt = 0
  hserrTh : c.hserrTh = 0x1F
  iglInst : c.iglInst = 0
  softErr : c.softErr = 0
  timerCtl : c.timerCtl = 0
  timerTh : c.timerTh = 0
  dsCtl : c.dsCtl = 0
  dcCtl : c.dcCtl = 0x945600000000000F
  daMatch : c.daMatch = 0
  daMask : c.daMask = 0x001FFFFFFFFFFFFF
  daMatchMode : c.daMatchMode = 0x001FFFFFFFFFFFFF
  dvMatch : c.dvMatch = 0
  dvMask : c.dvMask = 0xFFFFFFFFFFFFFFFF
  scCtl : c.scCtl = 0x1000FF
  intReq : c.intReq = 0
  mergeOvtime : c.mergeOvtime = 0x100
  tc : c.tc = 0
  tcCtl : c.tcCtl = 0
  icr : c.icr = 0
  idaMatch : c.idaMatch = 0
  idaMask : c.idaMask = 0x001FFFFFFFFFFFFF

/-- The reset state of the model has them. -/
theorem Csrs.reset_initialised : Csrs.reset.Initialised := by constructor <;> rfl

/-- CP_CTL, which a reset takes from the configuration, is not one of them (R718). -/
theorem Csrs.Initialised.with_cpCtl {c : Csrs} (h : c.Initialised) (w : W64) :
    ({ c with cpCtl := w } : Csrs).Initialised :=
  { h with }

/-- The requests of II0 and II1, which can arrive with a wake-up, are none of them (R610). -/
theorem Csrs.Initialised.with_requests {c : Csrs} (h : c.Initialised) (a b : W64) :
    ({ c with ii0 := a, ii1 := b } : Csrs).Initialised :=
  { h with }

/-- A cold reset keeps none of them. -/
theorem Csrs.cold_initialised (c : Csrs) (p : Params) : (c.cold p).Initialised := { Csrs.reset_initialised with }

/-- A wake-up neither keeps one of them nor leaves one free. -/
theorem Csrs.wake_initialised (c : Csrs) (f : Nat → W64) : (c.wake f).Initialised := { Csrs.reset_initialised with }

/-- The CSRs of R717 hold their values after each reset. -/
theorem csr_initialised_of_mem_resets {s t : State} {m : List Host.Cell}
    (h : t ∈ [State.reset, s.powerOnReset m, s.coldReset m, s.wakeReset]) : t.csr.Initialised := by
  simp only [List.mem_cons, List.not_mem_nil, or_false] at h
  rcases h with rfl | rfl | rfl | rfl
  case inl => exact Csrs.reset_initialised
  case inr.inl =>
    rw [State.powerOnReset_csr]
    exact Csrs.reset_initialised.with_cpCtl _
  case inr.inr.inl =>
    rw [State.coldReset_csr]
    exact s.csr.cold_initialised s.par
  case inr.inr.inr =>
    rw [s.wakeReset_cases.1]
    exact (s.csr.wake_initialised _).with_requests _ _

/-- A reset during a run keeps the parameters; the state right after reset has the default ones. -/
theorem par_of_mem_resets {s t : State} {m : List Host.Cell}
    (h : t ∈ [State.reset, s.powerOnReset m, s.coldReset m, s.wakeReset]) :
    t.par = Params.default ∨ t.par = s.par := by
  simp only [List.mem_cons, List.not_mem_nil, or_false] at h
  rcases h with rfl | rfl | rfl | rfl
  case inl => exact .inl rfl
  case inr.inl => exact .inr (s.powerOnReset_par m)
  case inr.inr.inl => exact .inr (s.coldReset_par m)
  case inr.inr.inr => exact .inr s.wakeReset_par

/-- What a read of each CSR of R717 shows: its field through the mask of its readable bits; IS_CTL also shows two fields
that the parameters fix (R112), and the four indices of UPCR name one register (R118). -/
theorem readCsr_eq_field (t : State) :
    readCsr t 0x11#8 =
      (t.csr.isCtl &&& 0x1FC07#64) ||| (t.par.chipId.setWidth 64 <<< 3) ||| orBit 0 9 t.par.bistFail ∧
    readCsr t 0x19#8 = t.csr.vpcr &&& 0x00003FFFFFFFFFFF ∧
    readCsr t 0x1A#8 = t.csr.iaMatch ∧
    readCsr t 0x1B#8 = t.csr.iaMask &&& 0x7FFFFFFFFFFFFFFF ∧
    readCsr t 0x20#8 = t.csr.upcr &&& 0x00007F8000000007 ∧
    readCsr t 0x21#8 = t.csr.upcr &&& 0x00007F8000000007 ∧
    readCsr t 0x22#8 = t.csr.upcr &&& 0x00007F8000000007 ∧
    readCsr t 0x23#8 = t.csr.upcr &&& 0x00007F8000000007 ∧
    readCsr t 0x26#8 = t.csr.hserrCnt &&& 0x1FFFFFFFF ∧
    readCsr t 0x27#8 = t.csr.hserrTh &&& 0xFFF ∧
    readCsr t 0x28#8 = t.csr.iglInst &&& 0x1FFFFFFFF ∧
    readCsr t 0x29#8 = t.csr.softErr &&& 1 ∧
    readCsr t 0x2A#8 = t.csr.timerCtl &&& 1 ∧
    readCsr t 0x2B#8 = t.csr.timerTh ∧
    readCsr t 0x49#8 = t.csr.dsCtl &&& 0x001E000000000000 ∧
    readCsr t 0x4A#8 = t.csr.dcCtl &&& 0xFFFE0000003FF7BF ∧
    readCsr t 0x4C#8 = t.csr.daMatch &&& 0x00FFFFFFFFFFFFFF ∧
    readCsr t 0x4D#8 = t.csr.daMask &&& 0x001FFFFFFFFFFFFF ∧
    readCsr t 0x50#8 = t.csr.daMatchMode &&& 0x001FFFFFFFFFFFFF ∧
    readCsr t 0x52#8 = t.csr.dvMask ∧
    readCsr t 0x53#8 = t.csr.dvMatch ∧
    readCsr t 0x80#8 = t.csr.scCtl &&& 0x1FFFFF ∧
    readCsr t 0x82#8 = t.csr.intReq &&& 0x380FFFF ∧
    readCsr t 0x83#8 = t.csr.cpCtl &&& 0x7F ∧
    readCsr t 0x84#8 = t.csr.mergeOvtime ∧
    readCsr t 0xC1#8 = t.csr.tc ∧
    readCsr t 0xC2#8 = t.csr.tcCtl &&& 1 ∧
    readCsr t 0xC3#8 = t.csr.icr &&& 1 ∧
    readCsr t 0xC5#8 = t.csr.idaMatch &&& 0x003FFFFFFFFFFFFF ∧
    readCsr t 0xC6#8 = t.csr.idaMask &&& 0x001FFFFFFFFFFFFF := by
  and_intros <;> rfl

/-- Settles O59: every reset leaves the CSRs of R717 with their values, so a read shows them; IS_CTL also shows two
parameters, which a reset keeps or sets to their defaults. -/
theorem initialisedCsrs : Obligations.InitialisedCsrs := by
  intro s t m ht
  have h := csr_initialised_of_mem_resets ht
  have hcpCtl : State.reset.csr.cpCtl = 0x1C := rfl
  refine ⟨fun hchip hbist => ?isCtl, ?others⟩
  case isCtl =>
    have hpar : t.par.chipId = 0x3F ∧ t.par.bistFail = false := by
      rcases par_of_mem_resets ht with hpar | hpar <;> rw [hpar]
      · exact ⟨rfl, rfl⟩
      · exact ⟨hchip, hbist⟩
    simp [readCsr_eq_field, h.isCtl, hpar, orBit]
  case others =>
    simp [readCsr_eq_field, hcpCtl, h.vpcr, h.upcr, h.iaMatch, h.iaMask, h.hserrCnt, h.hserrTh, h.iglInst, h.softErr,
      h.timerCtl, h.timerTh, h.dsCtl, h.dcCtl, h.daMatch, h.daMask, h.daMatchMode, h.dvMatch, h.dvMask, h.scCtl,
      h.intReq, h.mergeOvtime, h.tc, h.tcCtl, h.icr, h.idaMatch, h.idaMask]

end Sys2Proof.Machine

/-! Noninterference outside HM (R33, R34, R417, R418): an ordinary end keeps the buffers, the configuration and there the
system registers too; of the instructions with an end of their own only SYS_CALL is not illegal outside HM. -/

namespace Sys2Proof.Machine

/-- What the entry of a SYS_CALL function changes of the protected state: SR23 (R411, R34). -/
theorem enterSysCall_protected (s : State) (fn : BitVec 25) :
    (enterSysCall s fn).itb = s.itb ∧ (enterSysCall s fn).itbPtr = s.itbPtr ∧ (enterSysCall s fn).dtb = s.dtb ∧
      sameControl s.csr (enterSysCall s fn).csr ∧ (enterSysCall s fn).mem = s.mem ∧
      (enterSysCall s fn).sr = s.sr.set 9 (sext53 (s.pc + 4)) :=
  ⟨by simp [enterSysCall], by simp [enterSysCall], by simp [enterSysCall], (count_control s .plain).1,
    by simp [enterSysCall], by simp [enterSysCall, State.setSr23]⟩

/-- What a SYS_CALL can do outside HM: an ordinary end, or the entry of its function (R411). -/
theorem sysCall_cases_outsideHm {s t : State} {fn : BitVec 25} (hmode : s.mode ≠ 0#2) (h : sysCall fn s = .next t) :
    Ordinary s t ∨ t = enterSysCall s fn := by
  refine (decodeStage_ordinary_or_body h).imp_right fun ⟨_, hbody⟩ => ?_
  have hhm : s.inHm = false := decide_eq_false hmode
  rw [hhm] at hbody
  injection hbody with hbody
  exact hbody.symm

/-- What an instruction can do outside HM: an ordinary end, or the entry of a SYS_CALL function. -/
theorem exec_cases_outsideHm {s t : State} {i : Instr} (hmode : s.mode ≠ 0#2) (h : exec i s = .next t) :
    Ordinary s t ∨ ∃ fn, (i = .sysCall fn ∨ i = .sysCallB fn) ∧ t = enterSysCall s fn := by
  cases hi : isOrdinary i
  case true => exact .inl ((exec_endsOrdinary s hi).ordinary t h)
  case false =>
    unfold isOrdinary at hi
    split at hi
    case h_1 fn => exact (sysCall_cases_outsideHm hmode h).imp_right fun ht => ⟨fn, .inl rfl, ht⟩
    case h_2 fn => exact (sysCall_cases_outsideHm hmode h).imp_right fun ht => ⟨fn, .inr rfl, ht⟩
    case h_3 => exact .inl ((priReturn_cases h).resolve_right fun hret => hmode hret.1)
    case h_4 => exact .inl ((execPriRetB_cases h).resolve_right fun hret => hmode hret.1)
    case h_5 => exact .inl ((privStage_cases (show execPriWcsr _ _ s = _ from h)).resolve_right fun hbody => hmode hbody.1)
    case h_6 => cases hi

/-- Settles O12: outside HM an instruction ends ordinarily or enters a SYS_CALL function, which writes SR23. -/
theorem controlStateProtected : Obligations.ControlStateProtected := by
  intro s t i hmode h
  rcases exec_cases_outsideHm hmode h with ho | ⟨fn, hi, rfl⟩
  · exact ⟨ho.itb, ho.itbPtr, ho.dtb, ho.control, fun k _ => by rw [ho.sr hmode], fun _ => ho.sr hmode⟩
  · obtain ⟨hitb, hptr, hdtb, hcontrol, -, hsr⟩ := enterSysCall_protected s fn
    refine ⟨hitb, hptr, hdtb, hcontrol, fun k hk => ?_, fun hno => absurd hi (by simpa using hno fn)⟩
    rw [hsr]
    exact Vector.getElem_set_ne _ _ (by simpa [Fin.ext_iff, eq_comm] using hk)

end Sys2Proof.Machine

/-! The encoding tables (R380, R401, R404). What a field reads from a word of each format is said once, for every value of
the operands; an instruction's word then decodes by reading its opcode and function fields in the tables. -/

namespace Sys2Proof.Machine

/-- A field above the `n` lowest bits is one of the rest of the word. -/
theorem extractLsb'_skip {m n l : Nat} (x : BitVec m) (y : BitVec n) (k : Nat) {f : BitVec l}
    (h : x.extractLsb' k l = f) : (x ++ y).extractLsb' (n + k) l = f := by
  rw [BitVec.extractLsb'_append_eq_of_le (Nat.le_add_right n k), Nat.add_sub_cancel_left, h]

/-- The lowest field of a word. -/
theorem extractLsb'_last {m n : Nat} (x : BitVec m) (y : BitVec n) : (x ++ y).extractLsb' 0 n = y :=
  (BitVec.extractLsb'_append_eq_of_add_le (by omega)).trans BitVec.extractLsb'_eq_self

/-- The field above the lowest one. -/
theorem extractLsb'_secondLast {k m n : Nat} (x : BitVec k) (y : BitVec m) (z : BitVec n) :
    (x ++ y ++ z).extractLsb' n m = y :=
  extractLsb'_skip _ z 0 (extractLsb'_last x y)

/-- The one-bit field above the lowest one. -/
theorem getLsbD_secondLast {k n : Nat} (x : BitVec k) (l : BitVec 1) (z : BitVec n) :
    (x ++ l ++ z).getLsbD n = l.getLsbD 0 := by
  rw [BitVec.getLsbD_append, if_neg (Nat.lt_irrefl n), BitVec.getLsbD_append, Nat.sub_self, if_pos Nat.one_pos]

section Formats

variable (op : BitVec 6) (a b c : BitVec 5)

/-- SYS_CALL (R401). -/
theorem fields_sysCall (l : BitVec 1) (fn : BitVec 25) :
    fldOp (op ++ l ++ fn) = op ∧ (op ++ l ++ fn).getLsbD 25 = l.getLsbD 0 ∧ (op ++ l ++ fn).extractLsb' 0 25 = fn :=
  ⟨extractLsb'_skip _ fn 1 (extractLsb'_skip op l 0 BitVec.extractLsb'_eq_self),
    getLsbD_secondLast op l fn, extractLsb'_last _ fn⟩

/-- The branch format (R401). -/
theorem fields_branch (d : BitVec 21) :
    fldOp (op ++ a ++ d) = op ∧ fldA (op ++ a ++ d) = a ∧ fld21 (op ++ a ++ d) = d :=
  ⟨extractLsb'_skip _ d 5 (extractLsb'_skip op a 0 BitVec.extractLsb'_eq_self), extractLsb'_secondLast op a d,
    extractLsb'_last _ d⟩

/-- PRI_RET (R401). -/
theorem fields_priRet (l : BitVec 1) (d : BitVec 20) :
    fldOp (op ++ a ++ l ++ d) = op ∧ fldA (op ++ a ++ l ++ d) = a ∧ (op ++ a ++ l ++ d).getLsbD 20 = l.getLsbD 0 :=
  ⟨extractLsb'_skip _ d 6 (extractLsb'_skip _ l 5 (extractLsb'_skip op a 0 BitVec.extractLsb'_eq_self)),
    extractLsb'_skip _ d 1 (extractLsb'_secondLast op a l), getLsbD_secondLast _ l d⟩

/-- The memory format (R401). -/
theorem fields_memory (d : BitVec 16) :
    fldOp (op ++ a ++ b ++ d) = op ∧ fldA (op ++ a ++ b ++ d) = a ∧ fldB (op ++ a ++ b ++ d) = b ∧
      fld16 (op ++ a ++ b ++ d) = d ∧ (op ++ a ++ b ++ d).extractLsb' 8 8 = d.extractLsb' 8 8 :=
  ⟨extractLsb'_skip _ d 10 (extractLsb'_skip _ b 5 (extractLsb'_skip op a 0 BitVec.extractLsb'_eq_self)),
    extractLsb'_skip _ d 5 (extractLsb'_secondLast op a b), extractLsb'_secondLast _ b d, extractLsb'_last _ d,
    BitVec.extractLsb'_append_eq_of_add_le (by decide)⟩

/-- The memory format with function (R401). -/
theorem fields_function (f : BitVec 4) (d : BitVec 12) :
    fldOp (op ++ a ++ b ++ f ++ d) = op ∧ fldA (op ++ a ++ b ++ f ++ d) = a ∧ fldB (op ++ a ++ b ++ f ++ d) = b ∧
      fldFn4 (op ++ a ++ b ++ f ++ d) = f ∧ fld12 (op ++ a ++ b ++ f ++ d) = d :=
  ⟨extractLsb'_skip _ d 14 (extractLsb'_skip _ f 10
      (extractLsb'_skip _ b 5 (extractLsb'_skip op a 0 BitVec.extractLsb'_eq_self))),
    extractLsb'_skip _ d 9 (extractLsb'_skip _ f 5 (extractLsb'_secondLast op a b)),
    extractLsb'_skip _ d 4 (extractLsb'_secondLast _ b f), extractLsb'_secondLast _ f d, extractLsb'_last _ d⟩

/-- The CSR accesses (R384). -/
theorem fields_csr (f idx : BitVec 8) :
    fldOp (op ++ a ++ b ++ f ++ idx) = op ∧ fldA (op ++ a ++ b ++ f ++ idx) = a ∧
      (op ++ a ++ b ++ f ++ idx).extractLsb' 8 8 = f ∧ (op ++ a ++ b ++ f ++ idx).extractLsb' 0 8 = idx :=
  ⟨extractLsb'_skip _ idx 18 (extractLsb'_skip _ f 10
      (extractLsb'_skip _ b 5 (extractLsb'_skip op a 0 BitVec.extractLsb'_eq_self))),
    extractLsb'_skip _ idx 13 (extractLsb'_skip _ f 5 (extractLsb'_secondLast op a b)),
    extractLsb'_secondLast _ f idx, extractLsb'_last _ idx⟩

/-- The operate format with registers (R401). -/
theorem fields_operate (z : BitVec 3) (f : BitVec 8) :
    fldOp (op ++ a ++ b ++ z ++ f ++ c) = op ∧ fldA (op ++ a ++ b ++ z ++ f ++ c) = a ∧
      fldB (op ++ a ++ b ++ z ++ f ++ c) = b ∧ fldZ (op ++ a ++ b ++ z ++ f ++ c) = z ∧
      fldFn8 (op ++ a ++ b ++ z ++ f ++ c) = f ∧ fldC (op ++ a ++ b ++ z ++ f ++ c) = c :=
  ⟨extractLsb'_skip _ c 21 (extractLsb'_skip _ f 13 (extractLsb'_skip _ z 10
      (extractLsb'_skip _ b 5 (extractLsb'_skip op a 0 BitVec.extractLsb'_eq_self)))),
    extractLsb'_skip _ c 16 (extractLsb'_skip _ f 8 (extractLsb'_skip _ z 5 (extractLsb'_secondLast op a b))),
    extractLsb'_skip _ c 11 (extractLsb'_skip _ f 3 (extractLsb'_secondLast _ b z)),
    extractLsb'_skip _ c 8 (extractLsb'_secondLast _ z f), extractLsb'_secondLast _ f c, extractLsb'_last _ c⟩

/-- The operate format with a literal (R401). -/
theorem fields_literal (l f : BitVec 8) :
    fldOp (op ++ a ++ l ++ f ++ c) = op ∧ fldA (op ++ a ++ l ++ f ++ c) = a ∧ fldLit (op ++ a ++ l ++ f ++ c) = l ∧
      fldFn8 (op ++ a ++ l ++ f ++ c) = f ∧ fldC (op ++ a ++ l ++ f ++ c) = c :=
  ⟨extractLsb'_skip _ c 21 (extractLsb'_skip _ f 13
      (extractLsb'_skip _ l 5 (extractLsb'_skip op a 0 BitVec.extractLsb'_eq_self))),
    extractLsb'_skip _ c 16 (extractLsb'_skip _ f 8 (extractLsb'_secondLast op a l)),
    extractLsb'_skip _ c 8 (extractLsb'_secondLast _ l f), extractLsb'_secondLast _ f c, extractLsb'_last _ c⟩

end Formats

/-- The four bytes of a word make it up again (R380). -/
theorem wordOfBytes_bytes (w : BitVec 32) :
    wordOfBytes (w.extractLsb' 0 8) (w.extractLsb' 8 8) (w.extractLsb' 16 8) (w.extractLsb' 24 8) = w := by
  have hnum : (w.extractLsb' 24 8 ++ w.extractLsb' 16 8 ++ w.extractLsb' 8 8 ++ w.extractLsb' 0 8).toNat = w.toNat := by
    simp only [toNat_append_eq_add, BitVec.extractLsb'_toNat, Nat.shiftRight_eq_div_pow]
    omega
  exact BitVec.eq_of_toNat_eq hnum

/-- A word that decodes does so from its bytes too, whatever follows them. -/
theorem decode_bytesOfWord {w : BitVec 32} {i : Instr} (h : decodeWord w = .ok i) (rest : List (BitVec 8)) :
    decode (bytesOfWord w ++ rest) = .ok (i, rest) := by
  simp only [bytesOfWord, List.cons_append, List.nil_append, decode, wordOfBytes_bytes, h]

/-- The decoder reads back the word of every encodable instruction, by the format of each. -/
theorem decodeWord_encode {i : Instr} {w : BitVec 32} (h : encode i = some w) : decodeWord w = .ok i := by
  cases i
  case sysCall fn | sysCallB fn =>
    obtain rfl := Option.some.inj h
    obtain ⟨hop, hbit, hfn⟩ := fields_sysCall _ _ fn
    unfold decodeWord
    rw [hop, hbit, hfn]
    rfl
  case priRet ra | priRetB ra =>
    obtain rfl := Option.some.inj h
    obtain ⟨hop, ha, hbit⟩ := fields_priRet _ ra _ 0#20
    unfold decodeWord
    rw [hop, ha, hbit]
    rfl
  case call | ret | jmp | ldbu | ldhu | ldw | ldl | ldlU | flds | fldd | stb | sth | stw | stl | fsts | fstd | ldi =>
    obtain rfl := Option.some.inj h
    simp [decodeWord, fields_memory]
  case bsr | beq | bne =>
    obtain rfl := Option.some.inj h
    simp [decodeWord, fields_branch]
  case memb | imemb | halt =>
    obtain rfl := Option.some.inj h
    rfl
  case rtc | rcid | rdF | wrF | rtid =>
    obtain rfl := Option.some.inj h
    simp [decodeWord, decodeMisc, fields_memory]
  case priRcsr | priWcsr =>
    obtain rfl := Option.some.inj h
    simp [decodeWord, decodeMisc, fields_csr]
  case lldw | lldl | ldwInc | ldlInc | ldwDec | ldlDec | ldwSet | ldlSet | lstw | lstl | ldwNc | ldlNc | lddNc | stwNc |
      stlNc | stdNc =>
    obtain rfl := Option.some.inj h
    simp [decodeWord, decodeMem08, fields_function]
  case addw | mulw | mull | umulh | cmpeq | bis | xor =>
    obtain rfl := Option.some.inj h
    simp [decodeWord, decodeOpReg, fields_operate]
  case addwLit | mulwLit | mullLit | umulhLit | cmpeqLit | bisLit | xorLit =>
    obtain rfl := Option.some.inj h
    simp [decodeWord, decodeOpLit, fields_literal]
  case faddd | rfpcr | wfpcr =>
    obtain rfl := Option.some.inj h
    simp [decodeWord, decodeFloat, fields_operate]
  case setfpec0 | setfpec1 | setfpec2 | setfpec3 =>
    obtain rfl := Option.some.inj h
    rfl
  case priLdwP | priLdlP | priLdwIncP | priLdlIncP | priLdwDecP | priLdlDecP | priLdwSetP | priLdlSetP | priLdwV |
      priLdlV | priLdwVpte | priLdlVpte =>
    obtain rfl := Option.some.inj h
    simp [decodeWord, decodePriLd, fields_function]
  case priStwP | priStlP | priStwV | priStlV =>
    obtain rfl := Option.some.inj h
    simp [decodeWord, decodePriSt, fields_function]
  all_goals cases h

/-- Settles O1: the formats' field lemmas, for the word and for its bytes. -/
theorem decodeEncode : Obligations.DecodeEncode := fun _ _ h =>
  ⟨decodeWord_encode h, decode_bytesOfWord (decodeWord_encode h)⟩

/-- Settles O2: each word is a number, and the tables evaluate. -/
theorem decodedWords : Obligations.DecodedWords := by
  unfold Obligations.DecodedWords
  decide

end Sys2Proof.Machine

/-! The invariant of memory, ITB and DTB (R282, R285). Every operation of a step is a map of states that keeps it; an
operation that touches none of the three fields does so by equality. -/

namespace Sys2Proof.Machine

/-- The step from `s` to `t` keeps the invariant. -/
def KeepsInv (s t : State) : Prop := StateInv s → StateInv t

theorem KeepsInv.refl (s : State) : KeepsInv s s := id

theorem KeepsInv.trans {s t u : State} (h : KeepsInv s t) (h' : KeepsInv t u) : KeepsInv s u := h' ∘ h

/-- What keeps the canonical form of memory and leaves the translation buffers alone. -/
theorem keepsInv_of_mem {s t : State} (hmem : Memory.wf s.mem = true → Memory.wf t.mem = true) (hitb : t.itb = s.itb)
    (hdtb : t.dtb = s.dtb) : KeepsInv s t :=
  fun ⟨hm, hi, hd⟩ => ⟨hmem hm, hitb ▸ hi, hdtb ▸ hd⟩

/-- What leaves memory and the translation buffers alone. -/
theorem keepsInv_of_eq {s t : State} (hmem : t.mem = s.mem) (hitb : t.itb = s.itb) (hdtb : t.dtb = s.dtb) :
    KeepsInv s t := keepsInv_of_mem (fun hm => hmem ▸ hm) hitb hdtb

/-- Where a change of a state in other fields goes on. -/
theorem KeepsInv.outside {s t u : State} (h : KeepsInv s t) (hmem : u.mem = t.mem) (hitb : u.itb = t.itb)
    (hdtb : u.dtb = t.dtb) : KeepsInv s u := h.trans (keepsInv_of_eq hmem hitb hdtb)

theorem Ordinary.keepsInv {s t : State} (h : Ordinary s t) : KeepsInv s t := keepsInv_of_mem h.memWf h.itb h.dtb

theorem Checked.keepsInv {s t : State} (h : Checked s t) : KeepsInv s t := keepsInv_of_mem h.memWf h.itb h.dtb

theorem Touched.keepsInv {s t : State} (h : Touched s t) : KeepsInv s t :=
  keepsInv_of_mem h.memWf (by rw [h.same]) (by rw [h.same])

/-- Empty buffers over canonical memory, as every reset leaves them. -/
theorem stateInv_of_empty {t : State} (hmem : Memory.wf t.mem = true) (hitb : t.itb = Vector.replicate 32 none)
    (hdtb : t.dtb = []) : StateInv t := by
  refine ⟨hmem, fun i j _ a b ha => ?_, by simp [hdtb]⟩
  simp [hitb] at ha

/-- Settles O10: reset leaves memory and the buffers empty. -/
theorem invariantAtReset : Obligations.InvariantAtReset := stateInv_of_empty rfl rfl rfl

/-! ### The translation buffers -/

/-- R282: the conflict of two entries is symmetric. -/
theorem itbConflict_comm (a b : ItbEntry) : itbConflict a b = itbConflict b a := by
  have hpage : pageMatch (if a.gh.toNat < b.gh.toNat then b.gh else a.gh) a.va b.va =
      pageMatch (if b.gh.toNat < a.gh.toNat then a.gh else b.gh) b.va a.va := by
    have hgh : (if a.gh.toNat < b.gh.toNat then b.gh else a.gh) = (if b.gh.toNat < a.gh.toNat then a.gh else b.gh) := by
      apply BitVec.eq_of_toNat_eq
      split <;> split <;> omega
    rw [hgh]
    exact decide_eq_decide.2 eq_comm
  unfold itbConflict
  rw [hpage, Bool.or_comm a.ks, decide_eq_decide.2 (eq_comm (a := a.vpn)), decide_eq_decide.2 (eq_comm (a := a.upn))]

/-- A buffer whose entries all stand at their old places has no new conflict. -/
theorem itbUnique_of_sub {t u : Vector (Option ItbEntry) 32} (h : ∀ (k : Fin 32) e, u[k] = some e → t[k] = some e)
    (ht : itbUnique t) : itbUnique u :=
  fun i j hij a b ha hb => ht i j hij a b (h i a ha) (h j b hb)

/-- A fill keeps only entries that do not conflict with the new one (R282). -/
theorem itbFill_cases {s : State} {e a : ItbEntry} {k : Fin 32} (h : (itbFill s e).itb[k] = some a) :
    k.val = itbSlot s.itb s.itbPtr e ∧ a = e ∨
      k.val ≠ itbSlot s.itb s.itbPtr e ∧ s.itb[k] = some a ∧ itbConflict e a = false := by
  have hget : (itbFill s e).itb[k] = if itbSlot s.itb s.itbPtr e = k.val then some e
      else if (s.itb[k]).any (itbConflict e) then none else s.itb[k] := by
    simp [itbFill, Vector.getElem_setIfInBounds]
  rw [hget] at h
  split at h
  · rename_i hslot
    exact .inl ⟨hslot.symm, (Option.some.inj h).symm⟩
  · rename_i hslot
    split at h
    · cases h
    · rename_i hany
      refine .inr ⟨fun hk => hslot hk.symm, h, ?_⟩
      simpa [h] using hany

theorem itbFill_keepsInv (s : State) (e : ItbEntry) : KeepsInv s (itbFill s e) := by
  rintro ⟨hm, hi, hd⟩
  refine ⟨hm, fun i j hij a b ha hb => ?_, hd⟩
  rcases itbFill_cases ha with ⟨hki, rfl⟩ | ⟨-, hoa, hca⟩ <;> rcases itbFill_cases hb with ⟨hkj, rfl⟩ | ⟨-, hob, hcb⟩
  · exact absurd (Fin.ext (hki.trans hkj.symm)) hij
  · exact hcb
  · rw [itbConflict_comm]
    exact hca
  · exact hi i j hij a b hoa hob

theorem itbFlush_keepsInv (s : State) (p : ItbEntry → Bool) : KeepsInv s (itbFlush s p) := fun ⟨hm, hi, hd⟩ =>
  ⟨hm, itbUnique_of_sub (fun k e h => ((itbFlush_some_iff s (P := fun e => p e = true) (fun _ => .rfl) k e).1 h).1) hi, hd⟩

/-- An evicted ITB entry (D13). -/
theorem itbEvict_keepsInv (s : State) (k : Fin 32) : KeepsInv s { s with itb := s.itb.set k none } := by
  rintro ⟨hm, hi, hd⟩
  refine ⟨hm, itbUnique_of_sub (fun j e h => ?_) hi, hd⟩
  have hget : (s.itb.set k none)[j] = if k.val = j.val then none else s.itb[j] := Vector.getElem_set ..
  rw [hget] at h
  split at h
  · cases h
  · exact h

theorem dtbFill_keepsInv (s : State) (e : DtbEntry) : KeepsInv s (dtbFill s e) := fun ⟨hm, hi, _⟩ =>
  ⟨hm, hi, List.length_take_le ..⟩

/-- Entries that leave the DTB. -/
theorem dtbSub_keepsInv (s : State) {l : List DtbEntry} (h : l.length ≤ s.dtb.length) : KeepsInv s { s with dtb := l } :=
  fun ⟨hm, hi, hd⟩ => ⟨hm, hi, h.trans hd⟩

theorem dtbFlush_keepsInv (s : State) (p : DtbEntry → Bool) : KeepsInv s (dtbFlush s p) :=
  dtbSub_keepsInv s (List.length_filter_le ..)

/-! ### Instructions -/

theorem noteWrite_keepsInv (s t : State) (idx : BitVec 8) (d : W64) : KeepsInv t (s.noteWrite t idx d) := by
  unfold State.noteWrite
  split
  · exact keepsInv_of_eq rfl rfl rfl
  · exact .refl t

/-- A CSR write keeps the invariant: only the fills and flushes reach the buffers. -/
theorem writeCsr_keepsInv {s t : State} {idx : BitVec 8} {d : W64} (h : writeCsr s idx d = .ok t) : KeepsInv s t := by
  have hok : ∀ u : State, (Except.ok u : Except Refusal State) = .ok t → KeepsInv s u → KeepsInv s t := by
    rintro u ⟨⟩ hu
    exact hu
  unfold writeCsr at h
  generalize csrName idx = n at h
  cases n
  case itbPte => exact hok _ h (itbFill_keepsInv _ _)
  case itbIa | itbIv | itbIvp | itbIu | itbIs => exact hok _ h (itbFlush_keepsInv _ _)
  case dtbPte => exact hok _ h (dtbFill_keepsInv _ _)
  case dtbIa | dtbIv | dtbIvp | dtbIu | dtbIs => exact hok _ h (dtbFlush_keepsInv _ _)
  case softErr | hardErr => exact hok _ h (by unfold reportRise; split <;> exact keepsInv_of_eq rfl rfl rfl)
  case timerCtl => exact hok _ h (by split <;> exact keepsInv_of_eq rfl rfl rfl)
  case dcCtl | scCtl =>
    dsimp only at h
    split at h
    · exact hok _ h (keepsInv_of_eq rfl rfl rfl)
    · cases h
  case intReq =>
    dsimp only at h
    split at h
    · exact hok _ h (.refl s)
    · exact hok _ h (keepsInv_of_eq rfl rfl rfl)
  all_goals exact hok _ h (keepsInv_of_eq rfl rfl rfl)

/-- PRI_WCSR keeps the invariant. -/
theorem execPriWcsr_keepsInv {s t : State} {ra : BitVec 5} {idx : BitVec 8} (h : execPriWcsr ra idx s = .next t) :
    KeepsInv s t := by
  rcases privStage_cases h with ho | ⟨-, hbody⟩
  · exact ho.keepsInv
  dsimp only at hbody
  split at hbody
  case h_1 u hu =>
    injection hbody with hbody
    subst hbody
    have hcount : KeepsInv s (s.count .plain) := keepsInv_of_eq (by simp) (by simp) (by simp)
    exact ((hcount.trans (writeCsr_keepsInv hu)).trans (noteWrite_keepsInv _ _ _ _)).outside rfl rfl rfl
  case h_2 => cases hbody

/-- SYS_CALL keeps the invariant. -/
theorem sysCall_keepsInv {s t : State} {fn : BitVec 25} (h : sysCall fn s = .next t) : KeepsInv s t := by
  rcases decodeStage_ordinary_or_body h with ho | ⟨-, hbody⟩
  · exact ho.keepsInv
  split at hbody
  · injection hbody with hbody
    exact hbody ▸ ((Kept.refl s).retire .nop).keepsInv
  · injection hbody with hbody
    obtain ⟨hitb, -, hdtb, -, hmem, -⟩ := enterSysCall_protected s fn
    exact hbody ▸ keepsInv_of_eq hmem hitb hdtb

/-- The returns keep the invariant. -/
theorem priReturn_keepsInv {s t : State} {ra : BitVec 5}
    (h : priReturn s ra = .next t ∨ execPriRetB ra s = .next t) : KeepsInv s t := by
  rcases h with h | h <;> rcases privStage_cases h with ho | ⟨-, hbody⟩
  · exact ho.keepsInv
  · injection hbody with hbody
    exact hbody ▸ keepsInv_of_eq (by simp) (by simp) (by simp)
  · exact ho.keepsInv
  · injection hbody with hbody
    exact hbody ▸ keepsInv_of_eq (by simp) (by simp) (by simp)

theorem exec_keepsInv {s t : State} {i : Instr} (h : exec i s = .next t) : KeepsInv s t := by
  cases hi : isOrdinary i
  case true => exact ((exec_endsOrdinary s hi).ordinary t h).keepsInv
  case false =>
    unfold isOrdinary at hi
    split at hi
    case h_1 | h_2 => exact sysCall_keepsInv h
    case h_3 => exact priReturn_keepsInv (.inl h)
    case h_4 => exact priReturn_keepsInv (.inr h)
    case h_5 => exact execPriWcsr_keepsInv h
    case h_6 => cases hi

/-! ### The instructions of BaseISA -/

theorem baseOperate_endsOrdinary (s : State) (ra rc : BitVec 5) (third : Bool) (b : W64) :
    EndsOrdinary s (baseOperate s ra rc third b) := by
  refine .plainStage (.next ?_)
  have hcounted := ((Kept.refl s).setX rc (Config.baseInt s.word (s.getX ra) b (s.getX (thirdField s third))).1).count .plain
  split
  · exact hcounted.raiseArith ..
  · exact hcounted.nextPc

theorem baseLoadX_endsOrdinary (s : State) (ra : BitVec 5) (n : Nat) (va : W64) :
    EndsOrdinary s (baseLoadX s ra n va) := by
  refine .plainStage ?_
  split
  · exact .next ((Kept.refl s).retire _)
  · exact KeptOr.settle ((Kept.refl s).doLoad ..) fun _ _ hk => (hk.setX ..).retire _

theorem vecInteger_endsOrdinary (s : State) (simd third : Bool) (fa fb fc : BitVec 5) :
    EndsOrdinary s (vecInteger s simd third fa fb fc) := by
  unfold vecInteger
  exact .decodeStage (.next (finishFloat_ordinary ((Kept.refl s).writeReg ..) ..))

theorem vecMove_endsOrdinary (s : State) (simd third : Bool) (fa fb fc : BitVec 5) :
    EndsOrdinary s (vecMove s simd third fa fb fc) := by
  unfold vecMove
  exact .decodeStage (.next (((Kept.refl s).writeReg ..).retire _))

theorem floatBranch_endsOrdinary (s : State) (fa : BitVec 5) (d : BitVec 21) : EndsOrdinary s (floatBranch s fa d) := by
  refine .floatStage (.next ?_)
  split
  · exact (Kept.refl s).transfer _ _ _ _ (branchTarget_mode ..)
  · exact (Kept.refl s).unlock.retire _

theorem offCore_endsOrdinary (s : State) (prefetch : Bool) (rb : BitVec 5) (d : BitVec 16) :
    EndsOrdinary s (offCore s prefetch rb d) := by
  have hnop : EndsOrdinary s (.next (s.retire (if prefetch then .nopRead else .nopWrite))) :=
    .next ((Kept.refl s).retire _)
  refine .plainStage ?_
  dsimp only
  split
  · exact hnop
  split
  · split
    · exact hnop
    · exact .next (((Kept.refl s).outside rfl).retire _)
  · exact hnop

/-- What the access of an instruction by its parts can do. -/
theorem baseAccess_keptOr (s : State) (o : BaseOp) (m : BaseMem) (src : List V256) : KeptOr s (baseAccess s o m src) := by
  unfold baseAccess
  dsimp only
  split
  · exact splitLoad_kept (Kept.refl s) ..
  · rcases checkStore_cases s o.unit m
        (maskedAddr m (if m.short then s.ea12 (fldB s.word) (s.word.extractLsb' 0 12) else s.ea16 (fldB s.word) (fld16 s.word)))
        (Config.baseStored s.word src 0) with ⟨t, h, ht⟩ | ⟨l, t, h, ht⟩
    · rw [h]
      exact .inl ⟨t, rfl, ht.ordinary⟩
    · rw [h]
      exact .inr ⟨0, _, rfl, ((Kept.refl s).accessed ht.accessed).performAll l⟩
  · exact doAtomic_kept ..

/-- Writing the results keeps the state. -/
theorem Kept.baseDests {s t u : State} {o : BaseOp} {f : Nat → V256} {k : Nat} {l : List BaseReg} (h : Kept s t) :
    Kept s (baseDests u o f k l t) := by
  induction l generalizing k t with
  | nil => exact h
  | cons r l ih => exact ih (h.writeReg ..)

theorem baseGeneral_endsOrdinary (s : State) (o : BaseOp) : EndsOrdinary s (baseGeneral s o) := by
  refine .decodeStage ?_
  dsimp only
  rcases branchTo_cases s o.unit o.flow (Config.baseGoes s.word (o.src.map (baseOperand s o)))
    (if o.flow = .jump then s.getX (fldB s.word) else s.branchTarget (fld21 s.word)) with ⟨t, ht, htrap⟩ | ⟨target, ht, hmode⟩
  · rw [baseTarget, ht]
    exact .next htrap.ordinary
  · rw [baseTarget, ht]
    dsimp only
    split
    · exact .next ((Kept.refl s).retire _)
    · refine KeptOr.settle ?_ fun _ _ hk => ((hk.setFpcr _).baseDests).finish _ _ _ _ _ _ hmode
      split
      · exact .inr ⟨0, s, rfl, Kept.refl s⟩
      · exact baseAccess_keptOr ..

/-- Every shape of BaseISA's instructions ends ordinarily. -/
theorem execBase_endsOrdinary (s : State) (f : BaseShape) : EndsOrdinary s (execBase f s) := by
  unfold execBase
  dsimp only
  split
  case h_1 | h_2 => exact baseOperate_endsOrdinary ..
  case h_3 => exact operate_endsOrdinary ..
  case h_4 => exact baseLoadX_endsOrdinary ..
  case h_5 => exact .floatStage (loadF_endsOrdinary ..)
  case h_6 => exact scalarStore_endsOrdinary ..
  case h_7 => exact .floatStage (storeV_endsOrdinary ..)
  case h_8 => exact vecLoad_endsOrdinary ..
  case h_9 => exact vecStore_endsOrdinary ..
  case h_10 => exact branchIf_endsOrdinary ..
  case h_11 => exact floatBranch_endsOrdinary ..
  case h_12 => exact execBsr_endsOrdinary ..
  case h_13 | h_15 | h_17 => exact scalarFloat_endsOrdinary ..
  case h_14 | h_16 => exact vectorFloat_endsOrdinary ..
  case h_18 => exact vecInteger_endsOrdinary ..
  case h_19 => exact vecMove_endsOrdinary ..
  case h_20 => exact offCore_endsOrdinary ..
  case h_21 => exact baseGeneral_endsOrdinary ..
  case h_22 => exact ⟨fun _ => baseActs_ordinary⟩
  case h_23 => exact .plainStage (.next ((Kept.refl s).retire _))

theorem runWord_keepsInv {s t : State} (h : runWord s = .next t) : KeepsInv s t := by
  unfold runWord at h
  split at h
  · exact exec_keepsInv h
  · unfold undecoded at h
    split at h
    · exact ((execBase_endsOrdinary s _).ordinary t h).keepsInv
    · injection h with h
      exact h ▸ keepsInv_of_eq rfl rfl rfl

end Sys2Proof.Machine
namespace Sys2Proof.Machine

/-! ### The boundary -/

theorem sboxCorrected_keepsInv (s : State) (en b : Nat) : KeepsInv s (s.sboxCorrected en b) := by
  unfold State.sboxCorrected
  split
  · exact keepsInv_of_eq (by simp) (by simp) (by simp)
  · exact .refl s

theorem icDropSet_keepsInv (s : State) (k : Fin 64) : KeepsInv s (s.icDropSet k) := keepsInv_of_eq rfl rfl rfl

/-- The counted parity errors of the instruction cache (R340). -/
theorem icParity_keepsInv (s : State) (k : Fin 64) : KeepsInv s (s.icDropSet k).countCorrected :=
  (icDropSet_keepsInv s k).outside (by simp) (by simp) (by simp)

theorem corruptLine_keepsInv (s : State) (line : Nat) : KeepsInv s (s.corruptLine line) :=
  keepsInv_of_mem (State.corruptLine_wf line) (by simp) (by simp)

theorem passCycles_keepsInv (s : State) (n : Nat) : KeepsInv s (s.passCycles n) := by
  unfold State.passCycles
  dsimp only
  split
  · exact keepsInv_of_eq (by simp) (by simp) (by simp)
  · exact keepsInv_of_eq rfl rfl rfl

theorem icPrefetch_keepsInv (s : State) (n : Nat) : KeepsInv s (s.icPrefetch n) := by
  unfold State.icPrefetch
  dsimp only
  split
  · split
    · exact keepsInv_of_eq rfl rfl rfl
    · exact .refl s
  · exact .refl s

theorem reportIf_keepsInv (s : State) (en : Nat) : KeepsInv s (s.reportIf en) := by
  unfold State.reportIf
  split
  · exact keepsInv_of_eq rfl rfl rfl
  · exact .refl s

theorem sboxCheck_keepsInv (s : State) (en b : Nat) : KeepsInv s (s.sboxCheck en b) :=
  (checked_sbox s en b).1.keepsInv

theorem sboxMulti_keepsInv (s : State) (en b : Nat) : KeepsInv s (s.sboxMulti en b) :=
  (checked_sbox s en b).2.keepsInv

/-- Deep sleep and the resets empty the buffers. -/
theorem enterDeepSleep_keepsInv (s : State) : KeepsInv s s.enterDeepSleep := fun ⟨hm, _, _⟩ =>
  stateInv_of_empty (by simpa [State.enterDeepSleep] using State.loseCaches_wf hm) (by simp [State.enterDeepSleep])
    (by simp [State.enterDeepSleep])

theorem powerOnReset_keepsInv (s : State) (image : List Host.Cell) : KeepsInv s (s.powerOnReset image) := fun _ =>
  stateInv_of_empty (by simp [imageOf_wf]) (by simp) (by simp)

theorem coldReset_keepsInv (s : State) (image : List Host.Cell) : KeepsInv s (s.coldReset image) := fun _ =>
  stateInv_of_empty (by simp [imageOf_wf]) (by simp) (by simp)

theorem wakeReset_keepsInv (s : State) : KeepsInv s s.wakeReset := fun ⟨hm, _, _⟩ =>
  stateInv_of_empty (by simp [hm]) (by simp) (by simp)

/-- Every input to a core that is awake keeps the invariant. -/
theorem applyAwake_keepsInv (s : State) (i : Input) : KeepsInv s (applyAwake s i) := by
  cases i <;> dsimp only [applyAwake]
  case cycles n => exact passCycles_keepsInv s n
  case earlyStore a n v => exact (touched_pushEarly s a n v).keepsInv
  case deepSleep => exact enterDeepSleep_keepsInv s
  case powerOn image => exact powerOnReset_keepsInv s image
  case coldReset image => exact coldReset_keepsInv s image
  case agentWrite a b => exact (touched_agentWrite s a b).keepsInv
  case itbEvict k => exact itbEvict_keepsInv s k
  case dtbEvict n => exact dtbSub_keepsInv s (List.length_eraseIdx_le ..)
  case rmwSingle => exact (checked_rmw s).1.keepsInv
  case rmwMulti => exact (checked_rmw s).2.keepsInv
  case dvicSingle | stagSingle | sysDataSingle => exact sboxCorrected_keepsInv s _ _
  case dvicMulti | stagMulti | scDataMulti => exact sboxMulti_keepsInv s _ _
  case writeEccError => exact sboxCheck_keepsInv s _ _
  case writeAddrError k => exact (checked_writeAddrError s k).keepsInv
  case sysReqError | sysAckError | cacheState => exact (sboxCheck_keepsInv s _ _).trans (reportIf_keepsInv _ _)
  case sysDataMulti line => exact (sboxMulti_keepsInv s _ _).trans (corruptLine_keepsInv _ line)
  case icTagParity k | icDataParity k => exact (keepsInv_of_eq rfl rfl rfl : KeepsInv s (s.flagIs _)).trans (icParity_keepsInv _ k)
  case icCopyParity k => exact (sboxCorrected_keepsInv s _ _).trans (icDropSet_keepsInv _ k)
  case iPrefetch n =>
    split
    · exact icPrefetch_keepsInv s n
    · exact .refl s
  case inten b =>
    split
    · exact keepsInv_of_eq rfl rfl rfl
    · exact keepsInv_of_eq rfl rfl rfl
  case wakeUp =>
    split
    · exact keepsInv_of_eq rfl rfl rfl
    · exact .refl s
  case dtbParity n =>
    split
    · exact dtbSub_keepsInv s (List.length_eraseIdx_le ..)
    · exact .refl s
  case scDataSingle =>
    split
    · exact (sboxCorrected_keepsInv s _ _).outside rfl rfl rfl
    · exact sboxCorrected_keepsInv s _ _
  case writeControlError =>
    split
    · exact sboxCheck_keepsInv s _ _
    · exact .refl s
  case probeError =>
    split
    · exact keepsInv_of_eq rfl rfl rfl
    · exact .refl s
  case sboxControl n =>
    split
    · exact (sboxCheck_keepsInv s _ _).trans (reportIf_keepsInv _ _)
    · exact sboxCheck_keepsInv s _ _
  all_goals exact keepsInv_of_eq rfl rfl rfl

theorem applyInput_keepsInv (s : State) (i : Input) : KeepsInv s (applyInput s i) := by
  unfold applyInput
  split
  · split
    case h_1 =>
      split
      · exact wakeReset_keepsInv s
      · exact .refl s
    case h_2 image => exact powerOnReset_keepsInv s image
    case h_3 image => exact coldReset_keepsInv s image
    case h_4 a b => exact keepsInv_of_mem (memSet_wf a b) rfl rfl
    case h_5 | h_6 => exact keepsInv_of_eq rfl rfl rfl
    case h_7 => exact .refl s
  · exact applyAwake_keepsInv s i

theorem applyInputs_keepsInv (l : List Input) (s : State) : KeepsInv s (l.foldl applyInput s) := by
  induction l generalizing s with
  | nil => exact .refl s
  | cons i l ih => exact (applyInput_keepsInv s i).trans (ih _)

theorem nextStep_keepsInv (s : State) : KeepsInv s s.nextStep :=
  (touched_agentWrites s.midWrites s).keepsInv.outside rfl rfl rfl

theorem environmentEvents_keepsInv (s : State) : KeepsInv s s.environmentEvents := by
  have hpc0 : KeepsInv s (if 3 ≤ s.csr.pc0Sel ∧ s.csr.pc0Sel ≠ 8 then s.addPc0 (Config.events s.freeCtr 0) else s) := by
    split
    · exact keepsInv_of_eq rfl rfl rfl
    · exact .refl s
  unfold State.environmentEvents
  dsimp only
  generalize (if 3 ≤ s.csr.pc0Sel ∧ s.csr.pc0Sel ≠ 8 then s.addPc0 (Config.events s.freeCtr 0) else s) = t at hpc0 ⊢
  split
  · split
    · exact hpc0.outside rfl rfl rfl
    · exact hpc0
  · exact hpc0.outside rfl rfl rfl

theorem selfRequest_keepsInv (s : State) (kind : BitVec 2) : KeepsInv s (s.selfRequest kind) := by
  unfold State.selfRequest
  split
  · split <;> exact keepsInv_of_eq rfl rfl rfl
  · split
    case h_4 => exact .refl s
    all_goals split <;> exact keepsInv_of_eq rfl rfl rfl

theorem sendIntReq_keepsInv (s : State) : KeepsInv s s.sendIntReq := by
  unfold State.sendIntReq
  dsimp only
  split
  · split
    · refine KeepsInv.trans ?_ (selfRequest_keepsInv _ _)
      exact keepsInv_of_eq rfl rfl rfl
    · exact keepsInv_of_eq rfl rfl rfl
  · exact .refl s

theorem boundary_keepsInv (s : State) : KeepsInv s (boundary s) := by
  have hinputs := (nextStep_keepsInv s).trans (applyInputs_keepsInv s.inputs _)
  unfold boundary
  dsimp only
  split
  · exact hinputs
  · exact (hinputs.trans (environmentEvents_keepsInv _)).trans (sendIntReq_keepsInv _)

/-! ### The fetch -/

theorem checkParity_keepsInv (s : State) : KeepsInv s s.checkParity := by
  have hparity : ∀ n, KeepsInv s ((s.flagIs n).icDropSet s.icSet).countCorrected := fun n =>
    (keepsInv_of_eq rfl rfl rfl : KeepsInv s (s.flagIs n)).trans (icParity_keepsInv _ _)
  unfold State.checkParity
  dsimp only
  split
  · exact hparity 3
  · split
    · exact hparity 4
    · exact .refl s

theorem badFetch_keepsInv (s : State) (bit : Nat) : KeepsInv s (badFetch s bit) := by
  unfold badFetch substitute
  dsimp only
  split
  · exact keepsInv_of_eq rfl rfl rfl
  · split
    · exact keepsInv_of_eq (by simp) (by simp) (by simp)
    · exact keepsInv_of_eq rfl rfl rfl

/-- What holds of a fetch, whether it latches a group or runs into an exception. -/
def FetchKeepsInv (s : State) (r : Except State State) : Prop :=
  (∀ t, r = .ok t → KeepsInv s t) ∧ ∀ t, r = .error t → KeepsInv s t

theorem fetchKeepsInv_ok {s t : State} (h : KeepsInv s t) : FetchKeepsInv s (.ok t) :=
  ⟨by rintro _ ⟨⟩; exact h, by rintro _ ⟨⟩⟩

theorem fetchKeepsInv_error {s t : State} (h : KeepsInv s t) : FetchKeepsInv s (.error t) :=
  ⟨by rintro _ ⟨⟩, by rintro _ ⟨⟩; exact h⟩

theorem FetchKeepsInv.trans {s t : State} {r : Except State State} (h : KeepsInv s t) (hr : FetchKeepsInv t r) :
    FetchKeepsInv s r :=
  ⟨fun u hu => h.trans (hr.1 u hu), fun u hu => h.trans (hr.2 u hu)⟩

theorem eccFetch_keepsInv (s : State) (pa : PAddr) : FetchKeepsInv s (eccFetch s pa) := by
  have hline : KeepsInv s (if s.fillsLevel2 pa then s.corruptLine (memAddr pa / 128) else s) := by
    split
    · exact corruptLine_keepsInv s _
    · exact .refl s
  unfold eccFetch
  dsimp only
  generalize (if s.fillsLevel2 pa then s.corruptLine (memAddr pa / 128) else s) = t at hline ⊢
  split
  · refine fetchKeepsInv_error (KeepsInv.trans ?_ (badFetch_keepsInv _ _))
    exact (hline.trans (sboxMulti_keepsInv t 16 12)).outside rfl rfl rfl
  · exact fetchKeepsInv_ok (hline.outside rfl rfl rfl)

theorem fetchMemory_keepsInv (s : State) (pa : PAddr) (ks : Bool) (vpn : BitVec 2) (upn : BitVec 8) :
    FetchKeepsInv s (fetchMemory s pa ks vpn upn) := by
  have hconsume : KeepsInv s { s with armedFetch := none } := keepsInv_of_eq rfl rfl rfl
  unfold fetchMemory
  dsimp only
  split
  · exact fetchKeepsInv_error (hconsume.trans (badFetch_keepsInv _ _))
  split
  · split
    · exact fetchKeepsInv_error (hconsume.trans (badFetch_keepsInv _ _))
    · exact fetchKeepsInv_ok (keepsInv_of_eq rfl rfl rfl)
  · exact (eccFetch_keepsInv _ pa).trans hconsume
  · exact fetchKeepsInv_ok (keepsInv_of_eq rfl rfl rfl)

theorem fetch_keepsInv (s : State) : FetchKeepsInv s (fetch s) := by
  have hparity := checkParity_keepsInv s
  unfold fetch
  dsimp only
  split
  · exact fetchKeepsInv_ok (hparity.outside rfl rfl rfl)
  split
  · exact fetchKeepsInv_error (hparity.outside rfl rfl rfl)
  · exact fetchKeepsInv_error (hparity.outside rfl rfl rfl)
  · exact (fetchMemory_keepsInv ..).trans hparity

theorem runInstr_keepsInv {s t : State} (h : runInstr s = .next t) : KeepsInv s t := by
  unfold runInstr at h
  split at h
  · rename_i u hu
    exact ((fetch_keepsInv s).1 u hu).trans (runWord_keepsInv h)
  · rename_i u hu
    injection h with h
    exact h ▸ (fetch_keepsInv s).2 u hu

theorem afterBoundary_keepsInv {s t : State} (h : afterBoundary s = .next t) : KeepsInv s t := by
  have hnext : ∀ u, (.next u : Host.Outcome State Fault Refusal) = .next t → KeepsInv s u → KeepsInv s t := by
    rintro u ⟨⟩ hu
    exact hu
  unfold afterBoundary at h
  split at h
  · exact hnext _ h (.refl s)
  · split at h
    · exact hnext _ h (keepsInv_of_eq rfl rfl rfl)
    · exact hnext _ h (.refl s)
  · split at h
    · exact hnext _ h (keepsInv_of_eq rfl rfl rfl)
    · exact runInstr_keepsInv h

/-- Settles O9: the boundary, then an interrupt, the fetch or the instruction keep the invariant. -/
theorem invariantKept : Obligations.InvariantKept := fun s _ hinv h =>
  ((boundary_keepsInv s).trans (afterBoundary_keepsInv h)) hinv

end Sys2Proof.Machine

/-! Integer and control instructions (R411, R415, R805–R812, R863–R872) and the plain steps of the machine. What a count, a
transfer and a target exception change is said once; the decode stage lets each instruction through to one of these. -/

namespace Sys2Proof.Machine

/-- Settles O4: a step is the boundary, the fetch and the fetched word; the rows of BaseISA are asked first. -/
theorem stepRunsDecoded : Obligations.StepRunsDecoded := by
  intro s t hpower hpending hfetch
  have hstep : step s = runWord t := by
    unfold step afterBoundary
    rw [hpower]
    dsimp only
    rw [hpending]
    dsimp only
    unfold runInstr
    rw [hfetch]
  refine ⟨fun i hi => ?decoded, fun r hext hrow => ?base⟩
  case decoded => rw [hstep, runWord, hi]
  case base =>
    have herror : decodeFetched t.par t.word = .error (.baseInstruction (fldOp t.word)) := by
      have hnone : t.par.extEnc.find? (fun e => decide (e.1 = t.word)) = none := by
        simpa [List.find?_eq_none] using hext
      rw [decodeFetched, hnone, hrow]
      rfl
    have hfind : t.par.base.find? (fun r => decide (t.word &&& r.mask = r.value)) = some r := by
      unfold baseRow at hrow
      split at hrow
      · cases hrow
      · exact hrow
    refine ⟨List.mem_of_find?_eq_some hfind, of_decide_eq_true (List.find?_some hfind :), ?_⟩
    rw [hstep, runWord, herror]
    dsimp only
    rw [undecoded, hrow]

/-! ### Memory in its canonical form -/

/-- In a canonical memory every byte below the first listed one reads 0. -/
theorem memGet_of_lt {m : List Host.Cell} {lo a : Nat} (hm : memWfFrom lo m = true) (ha : a < lo) : memGet m a = 0 := by
  induction m generalizing lo with
  | nil => rfl
  | cons c r ih =>
    obtain ⟨k, b⟩ := c
    simp only [memWfFrom, Bool.and_eq_true, decide_eq_true_eq] at hm
    obtain ⟨⟨hk, -⟩, hr⟩ := hm
    rw [memGet, if_neg (by omega)]
    exact ih hr (by omega)

/-- Canonical memories that read alike are equal. -/
theorem memory_ext {m m' : List Host.Cell} {lo lo' : Nat} (hm : memWfFrom lo m = true) (hm' : memWfFrom lo' m' = true)
    (h : ∀ a, memGet m a = memGet m' a) : m = m' := by
  induction m generalizing m' lo lo' with
  | nil =>
    cases m' with
    | nil => rfl
    | cons c r =>
      obtain ⟨k, b⟩ := c
      have hk := h k
      simp_all [memGet, memWfFrom]
  | cons c r ih =>
    obtain ⟨k, b⟩ := c
    cases m' with
    | nil =>
      have hk := h k
      simp_all [memGet, memWfFrom]
    | cons c' r' =>
      obtain ⟨k', b'⟩ := c'
      simp only [memWfFrom, Bool.and_eq_true, decide_eq_true_eq] at hm hm'
      obtain ⟨⟨hlo, hb⟩, hr⟩ := hm
      obtain ⟨⟨hlo', hb'⟩, hr'⟩ := hm'
      have hbelow : ∀ {k b r k' b' r'}, b ≠ 0 → memWfFrom (k' + 1) r' = true →
          (∀ a, memGet ((k, b) :: r) a = memGet ((k', b') :: r') a) → ¬k < k' := by
        intro k b r k' b' r' hb hr' h hlt
        have hk := h k
        rw [memGet, if_pos rfl, memGet, if_neg (by omega), memGet_of_lt hr' (by omega)] at hk
        exact hb hk
      have hkk : k = k' := by
        have h1 := hbelow hb hr' h
        have h2 := hbelow hb' hr fun a => (h a).symm
        omega
      subst hkk
      have hbb : b = b' := by simpa [memGet] using h k
      subst hbb
      have hrr : ∀ a, memGet r a = memGet r' a := by
        intro a
        by_cases hak : k = a
        · rw [memGet_of_lt hr (by omega), memGet_of_lt hr' (by omega)]
        · simpa [memGet, hak] using h a
      rw [ih hr hr' hrr]

/-- Settles O8: the rules of `writeMem` and the canonical form. -/
theorem memoryLaws : Obligations.MemoryLaws :=
  ⟨fun m a n v hm => ⟨readMem_write m a n v hm,
      fun j hj => by rw [memGet_write m a n v hm, if_pos (by omega), Nat.add_sub_cancel_left],
      fun x hx => by rw [memGet_write m a n v hm, if_neg (by omega)]⟩,
    fun _ _ hm hm' h => memory_ext hm hm' h⟩

/-! ### Integer operate instructions -/

theorem operate_result {s : State} (h : ready s .none) (rc : BitVec 5) (w : W64) :
    ∃ t, operate s rc w = .next t ∧ resultX s t .plain rc w :=
  ⟨_, plainStage_ready _ h, resultX_retire ..⟩

/-- The low word of a register, sign-extended. -/
theorem sextW_extractLsb' (w : W64) : sextW (w.extractLsb' 0 32) = (w.setWidth 32).signExtend 64 := by
  rw [sextW, BitVec.setWidth_eq_extractLsb' (by decide)]

/-- UMULH as the high half of the product (R872). -/
theorem umulH_eq (a b : W64) : umulH a b = (a.setWidth 128 * b.setWidth 128).extractLsb' 64 64 := by
  have hlt : a.toNat * b.toNat < 2 ^ 128 := by
    have := Nat.mul_lt_mul'' a.isLt b.isLt
    omega
  apply BitVec.eq_of_toNat_eq
  rw [umulH, BitVec.extractLsb'_toNat, BitVec.toNat_mul, BitVec.toNat_setWidth_of_le (by decide),
    BitVec.toNat_setWidth_of_le (by decide), Nat.mod_eq_of_lt hlt, Nat.shiftRight_eq_div_pow, BitVec.toNat_ofNat]

/-- Settles O18: all these instructions are `operate` of their value. -/
theorem integerOperate : Obligations.IntegerOperate := by
  intro s ra rb rc lit d h
  dsimp only
  simp only [← sextW_extractLsb', ← umulH_eq]
  have hresult := operate_result h
  exact ⟨hresult rc _, hresult rc _, hresult rc _, hresult rc _, hresult rc _, hresult rc _, hresult rc _, hresult rc _,
    hresult rc _, hresult rc _, hresult rc _, hresult rc _, hresult rc _, hresult rc _, hresult ra _⟩

/-! ### Control transfer -/

/-- A count after the lock sequence has ended: only counter 0 and its request change beside. -/
theorem State.unlock_count (s : State) (e : EventClass) :
    s.unlock.count e = { s with csr := (s.count e).csr, lock := { s.lock with valid := false } } := by
  unfold State.count
  cases hc : e.counts s.csr.pc0Sel <;> simp only [State.unlock, hc] <;> rfl

/-- A displacement counts words (R805). -/
theorem State.branchTarget_eq (s : State) (d : BitVec 21) : s.branchTarget d = s.pc + 4 + 4 * d.signExtend 64 := by
  rw [State.branchTarget, BitVec.shiftLeft_eq_mul_twoPow, BitVec.mul_comm]
  rfl

theorem takeBranch_of_miss {s : State} (e : EventClass) (ra : BitVec 5) (link : Bool) (iva : W64) {target : W64}
    (h : idaHit s target = false) : takeBranch s e ra link iva target = s.transfer e ra link target := by
  rw [takeBranch, h]
  rfl

theorem takeBranch_of_hit {s : State} (e : EventClass) (ra : BitVec 5) (link : Bool) (iva : W64) {target : W64}
    (h : idaHit s target = true) : takeBranch s e ra link iva target = s.raiseTarget ra 34 iva := by
  rw [takeBranch, h]
  rfl

/-- IDA_MATCH takes no part of a target but its bits [52:2] (R673). -/
theorem idaHit_jumpTarget (s : State) (w : W64) : idaHit s (s.jumpTarget w) = idaHit s w := by
  have h : (s.jumpTarget w).extractLsb' 2 51 = w.extractLsb' 2 51 := by
    apply BitVec.eq_of_getLsbD_eq
    intro i hi
    have h2 : ¬2 + i < 2 := by omega
    have h62 : i < 62 := by omega
    simp only [State.jumpTarget, BitVec.getLsbD_extractLsb', BitVec.getLsbD_append, h2, if_false, hi, decide_true,
      Bool.true_and, Nat.add_sub_cancel_left, h62]
  unfold idaHit
  rw [h]

/-- What a transfer without a link does (R805). -/
theorem transfer_noLink (s : State) (e : EventClass) (ra : BitVec 5) (p : W64) :
    s.transfer e ra false p = { s with pc := p, csr := (s.count e).csr, lock := { s.lock with valid := false } } := by
  rw [State.transfer, State.unlock_count]
  rfl

/-- A register write depends on the registers and what names them only. -/
theorem State.setX_congr {s u : State} (i : BitVec 5) (w : W64) (hx : u.x = s.x) (hsr : u.sr = s.sr)
    (hs : u.shadow i = s.shadow i) : (u.setX i w).x = (s.setX i w).x ∧ (u.setX i w).sr = (s.setX i w).sr := by
  unfold State.setX
  rw [hs]
  cases s.shadow i <;> simp [hx, hsr]

/-- A register write changes the register files only. -/
theorem State.setX_eq (s : State) (i : BitVec 5) (w : W64) :
    s.setX i w = { s with x := (s.setX i w).x, sr := (s.setX i w).sr } := by
  unfold State.setX
  split <;> rfl

/-- The CSR of the register view stands through a count. -/
@[simp] theorem State.count_isCtl (s : State) (e : EventClass) : (s.count e).csr.isCtl = s.csr.isCtl := by
  rw [State.count_csr]

/-- What a transfer with a link does (R805): the link register is named as before the transfer. -/
theorem transfer_link (s : State) (e : EventClass) (ra : BitVec 5) {p : W64} (hp : p.extractLsb' 0 2 = s.mode) :
    let t := s.transfer e ra true p
    t.pc = p ∧ writesOnlyX s t ra (s.pc + 4) ∧ t.mode = s.mode ∧ sameMem s t ∧
      t = { s with pc := t.pc, x := t.x, sr := t.sr, csr := (s.count e).csr, lock := { s.lock with valid := false } } := by
  dsimp only
  have hshadow : (s.unlock.count e).shadow ra = s.shadow ra :=
    State.shadow_congr (by simp [State.mode]) (by simp [State.unlock]) (by simp) (by simp) ra
  obtain ⟨hx, hsr⟩ := State.setX_congr (u := s.unlock.count e) ra (s.pc + 4) (by simp) (by simp) hshadow
  have heq : s.transfer e ra true p =
      { s with pc := p, x := (s.setX ra (s.pc + 4)).x, sr := (s.setX ra (s.pc + 4)).sr, csr := (s.count e).csr
               lock := { s.lock with valid := false } } := by
    rw [State.transfer, if_pos rfl, State.setX_eq, hx, hsr, State.unlock_count]
  rw [heq]
  exact ⟨rfl, writesOnlyX_of rfl rfl hp (State.count_isCtl s e) rfl rfl, hp, fun _ => rfl, rfl⟩

/-- IACV by a target (R550): the link register is not written. -/
theorem raiseTarget_spec (s : State) (ra : BitVec 5) (n : Nat) (w : W64) :
    let t := s.raiseTarget ra n w
    faultsTo s t 0xD00 ∧ excSumIs t ra (BitVec.twoPow 64 n) ∧ t.csr.iva = w ∧ t.csr.iglInst = s.csr.iglInst ∧
      t.csr.dsStat = s.csr.dsStat ∧ t.csr.dva = s.csr.dva :=
  ⟨⟨rfl, rfl⟩, BitVec.or_comm _ _, rfl, rfl, rfl, rfl⟩

/-- Settles O19: a branch taken is a transfer without a link, one not taken retires. -/
theorem conditionalBranches : Obligations.ConditionalBranches := by
  intro s ra d i taken hready hi hida
  have hbranch : ∃ c : Bool, (c = true ↔ taken) ∧ exec i s = branchIf s c ra d := by
    rcases hi with ⟨rfl, ht⟩ | ⟨rfl, ht⟩
    · exact ⟨_, decide_eq_true_iff.trans ht.symm, rfl⟩
    · exact ⟨_, decide_eq_true_iff.trans ht.symm, rfl⟩
  obtain ⟨c, hc, hexec⟩ := hbranch
  rw [hexec, branchIf, plainStage_ready _ hready]
  cases c
  case false =>
    have hnot : ¬taken := fun ht => by simpa using hc.2 ht
    refine ⟨_, rfl, by simp, fun ht => absurd ht hnot, fun _ => by simp, fun a => by simp, ?_⟩
    rw [State.retire, State.unlock_count]
    rfl
  case true =>
    have ht : taken := hc.1 rfl
    rw [if_pos rfl, State.branchTarget_eq, takeBranch_of_miss _ _ _ _ (hida ht), transfer_noLink]
    refine ⟨_, rfl, ?_, fun _ => rfl, fun hn => absurd ht hn, fun _ => rfl, rfl⟩
    exact (State.branchTarget_eq s d) ▸ branchTarget_mode s d

/-- A jump whose target passes its checks. -/
theorem jumpTo_of_target {s : State} (h : ready s .none) (e : EventClass) (ra rb : BitVec 5)
    (hcanon : canonical (s.getX rb) = true) (hida : idaHit s (s.getX rb) = false) :
    jumpTo s e ra rb = .next (s.transfer e ra true (s.jumpTarget (s.getX rb))) := by
  rw [jumpTo, plainStage_ready _ h]
  dsimp only
  rw [if_pos hcanon, takeBranch_of_miss _ _ _ _ (by rw [idaHit_jumpTarget, hida])]

/-- Settles O20: each of them is a transfer with a link. -/
theorem jumpsAndLinks : Obligations.JumpsAndLinks := by
  intro s ra rb d hint hready
  refine ⟨fun hida => ?bsr, fun hcanon hida => ?jumps⟩
  case bsr =>
    have hexec : exec (.bsr ra d) s = .next (s.transfer .unconditional ra true (s.branchTarget d)) := by
      rw [show exec (.bsr ra d) s = execBsr ra d s from rfl, execBsr, plainStage_ready _ hready,
        takeBranch_of_miss _ _ _ _ (by rw [State.branchTarget_eq, hida])]
    obtain ⟨hpc, hframe⟩ := transfer_link s .unconditional ra (branchTarget_mode s d)
    exact ⟨_, hexec, hpc.trans (State.branchTarget_eq s d), hframe⟩
  case jumps =>
    have hjump : ∀ e, ∃ t, jumpTo s e ra rb = .next t ∧ t.pc = (s.getX rb).extractLsb' 2 62 ++ s.mode ∧
        writesOnlyX s t ra (s.pc + 4) ∧ t.mode = s.mode ∧ sameMem s t ∧
        t = { s with
          pc := t.pc, x := t.x, sr := t.sr, csr := (s.count e).csr, lock := { s.lock with valid := false } } :=
      fun e => ⟨_, jumpTo_of_target hready e ra rb hcanon hida, transfer_link s e ra (jumpTarget_mode s _)⟩
    exact ⟨hjump _, hjump _, hjump _, hjump _⟩

/-- Settles O21: the checks come before the transfer. -/
theorem jumpTargetChecks : Obligations.JumpTargetChecks := by
  refine ⟨fun s ra rb hint hready hbad i hi => ?bad, fun s ra rb d hint hready => ⟨fun hida i hi => ?branch,
    fun hcanon hida i hi => ?jump⟩⟩
  case bad =>
    have hcanon : canonical (s.getX rb) = false := by
      rw [BitVec.setWidth_eq_extractLsb' (by decide)] at hbad
      exact decide_eq_false hbad
    have hjump : ∀ e, jumpTo s e ra rb = .next (s.raiseTarget ra 13 (s.getX rb)) := by
      intro e
      rw [jumpTo, plainStage_ready _ hready]
      dsimp only
      rw [hcanon]
      rfl
    have hexec : exec i s = .next (s.raiseTarget ra 13 (s.getX rb)) := by
      simp only [List.mem_cons, List.not_mem_nil, or_false] at hi
      rcases hi with rfl | rfl | rfl | rfl <;> exact hjump _
    obtain ⟨hfault, hsum, hiva, hkept⟩ := raiseTarget_spec s ra 13 (s.getX rb)
    exact ⟨_, hexec, hfault, hiva, hsum, hkept⟩
  case branch =>
    have htarget : idaHit s (s.branchTarget d) = true := by rw [State.branchTarget_eq, hida]
    have hexec : exec i s = .next (s.raiseTarget ra 34 (s.branchTarget d)) := by
      rcases hi with rfl | ⟨rfl, hc⟩ | ⟨rfl, hc⟩
      · rw [show exec (.bsr ra d) s = execBsr ra d s from rfl, execBsr, plainStage_ready _ hready,
          takeBranch_of_hit _ _ _ _ htarget]
      · rw [show exec (.beq ra d) s = branchIf s (decide (s.getX ra = 0)) ra d from rfl, branchIf,
          plainStage_ready _ hready, if_pos (decide_eq_true hc), takeBranch_of_hit _ _ _ _ htarget]
      · rw [show exec (.bne ra d) s = branchIf s (decide (s.getX ra ≠ 0)) ra d from rfl, branchIf,
          plainStage_ready _ hready, if_pos (decide_eq_true hc), takeBranch_of_hit _ _ _ _ htarget]
    obtain ⟨hfault, hsum, hiva, -⟩ := raiseTarget_spec s ra 34 (s.branchTarget d)
    exact ⟨_, hexec, hfault, hsum, hiva.trans (State.branchTarget_eq s d)⟩
  case jump =>
    have hjump : ∀ e, jumpTo s e ra rb = .next (s.raiseTarget ra 34 (s.getX rb)) := by
      intro e
      rw [jumpTo, plainStage_ready _ hready]
      dsimp only
      rw [if_pos hcanon, takeBranch_of_hit _ _ _ _ (by rw [idaHit_jumpTarget, hida])]
    have hexec : exec i s = .next (s.raiseTarget ra 34 (s.getX rb)) := by
      simp only [List.mem_cons, List.not_mem_nil, or_false] at hi
      rcases hi with rfl | rfl | rfl | rfl <;> exact hjump _
    obtain ⟨hfault, hsum, hiva, -⟩ := raiseTarget_spec s ra 34 (s.getX rb)
    exact ⟨_, hexec, hfault, hsum, hiva⟩

end Sys2Proof.Machine

/-! The decode stage of every instruction (R529 steps 3–5): what makes it legal is `legalHere`, what it needs of the floating
unit is `fpClassOf`. -/

namespace Sys2Proof.Machine

/-- What FEN asks of an instruction (R541): its floating class where it stands. -/
def fpClassOf (s : State) (i : Instr) : FpClass :=
  match i with
  | .faddd .. | .rfpcr _ | .wfpcr _ | .setfpec0 | .setfpec1 | .setfpec2 | .setfpec3 | .fsts .. | .fstd .. | .lddNc ..
  | .stdNc .. => .scalar
  | .flds fa _ _ | .fldd fa _ _ => fldClass fa
  | .fimov .. | .ifmov .. => moveClass s.par
  | .vaddd .. | .vinsf .. | .vinsw .. | .vcpyf .. | .vextf .. | .vextw .. | .vlddNc .. | .vstdNc .. | .vlds .. | .vldd ..
  | .ldwe .. | .ldse .. | .ldde .. | .vldwU .. | .vldsU .. | .vlddU .. | .vsts .. | .vstd .. | .vstwUl .. | .vstwUh ..
  | .vstsUl .. | .vstsUh .. | .vstdUl .. | .vstdUh .. => .simd
  | _ => .none

/-- The outcome of an instruction that is `legal` or not and of the class `f`: it passes the decode stage. -/
structure PassesStage (s : State) (legal : Bool) (f : FpClass) (o : Host.Outcome State Fault Refusal) : Prop where
  stage : ∃ lk body, o = decodeStage s legal lk f body

section Stages

variable {s : State} {legal lk : Bool} {f : FpClass} {body : State → Host.Outcome State Fault Refusal}

theorem PassesStage.decodeStage : PassesStage s legal f (decodeStage s legal lk f body) := ⟨lk, body, rfl⟩
theorem PassesStage.plainStage : PassesStage s true .none (plainStage s body) := .decodeStage
theorem PassesStage.privStage : PassesStage s (decide (s.mode = 0#2)) .none (privStage s body) := .decodeStage
theorem PassesStage.floatStage : PassesStage s true .scalar (floatStage s body) := .decodeStage
theorem PassesStage.simdStage : PassesStage s true .simd (simdStage s body) := .decodeStage

end Stages

section Operations

variable (s : State) (ra rb rc : BitVec 5) (n : Nat) (a : Acc) (va w : W64)

theorem operate_passesStage : PassesStage s true .none (operate s rc w) := .plainStage
theorem jumpTo_passesStage (e : EventClass) : PassesStage s true .none (jumpTo s e ra rb) := .plainStage
theorem branchIf_passesStage (c : Bool) (d : BitVec 21) : PassesStage s true .none (branchIf s c ra d) := .plainStage
theorem scalarLoad_passesStage (d : BitVec 16) : PassesStage s true .none (scalarLoad s ra rb d n) := .plainStage
theorem ncLoad_passesStage (d : BitVec 12) : PassesStage s true .none (ncLoad s ra rb d n) := .plainStage
theorem scalarStore_passesStage (d : BitVec 16) : PassesStage s true .none (scalarStore s ra rb d n) := .plainStage
theorem ncStore_passesStage (d : BitVec 12) : PassesStage s true .none (ncStore s ra rb d n) := .plainStage
theorem lockLoad_passesStage (d : BitVec 12) : PassesStage s true .none (lockLoad s ra rb d n) := .plainStage
theorem lockStore_passesStage (d : BitVec 12) : PassesStage s (lstPaired s) .none (lockStore s ra rb d n) := by
  unfold lockStore
  exact .decodeStage
theorem atomic_passesStage (d : BitVec 12) (o : AtomicOp) : PassesStage s true .none (atomic s ra rb d n o) :=
  .plainStage
theorem fetchLine_passesStage (d : BitVec 16) (op : BitVec 3) : PassesStage s true .none (fetchLine s rb d op) :=
  .plainStage
theorem evictLine_passesStage (d : BitVec 16) (f : AccForm) (enable : Nat) (op : BitVec 3) :
    PassesStage s (s.csr.cpCtl.getLsbD enable) .none (evictLine s rb d f enable op) := by
  unfold evictLine
  exact .decodeStage
theorem sysCall_passesStage (fn : BitVec 25) : PassesStage s (sysCallLegal s fn) .none (sysCall fn s) := by
  unfold sysCall
  exact .decodeStage
theorem priReturn_passesStage : PassesStage s (decide (s.mode = 0#2)) .none (priReturn s ra) := .privStage
theorem priLoad_passesStage (d : BitVec 12) (f : AccForm) :
    PassesStage s (decide (s.mode = 0#2)) .none (priLoad s ra rb d f n) := .privStage
theorem priStore_passesStage (d : BitVec 12) (f : AccForm) :
    PassesStage s (decide (s.mode = 0#2)) .none (priStore s ra rb d f n) := .privStage
theorem priAtomic_passesStage (d : BitVec 12) (o : AtomicOp) :
    PassesStage s (decide (s.mode = 0#2)) .none (priAtomic s ra rb d n o) := .privStage
theorem scalarFloat_passesStage (toInt : Bool) (f : Nat → Bool → W64 → W64 → FpResult) :
    PassesStage s true .scalar (scalarFloat s ra rb rc toInt f) := .floatStage
theorem vectorFloat_passesStage (f : Nat → Bool → W64 → W64 → FpResult) :
    PassesStage s true .simd (vectorFloat s ra rb rc f) := .simdStage
theorem setFpec_passesStage (n : BitVec 2) : PassesStage s true .scalar (setFpec s n) := .floatStage
theorem vecLoad_passesStage (int : Bool) (cvt : Nat → V256) : PassesStage s true .simd (vecLoad s a va int cvt) :=
  .simdStage
theorem vecLoadU_passesStage (int : Bool) (cvt : Nat → V256) : PassesStage s true .simd (vecLoadU s a va int cvt) :=
  .simdStage
theorem vecStore_passesStage : PassesStage s true .simd (vecStore s a va n) := .simdStage
theorem vecStoreLow_passesStage : PassesStage s true .simd (vecStoreLow s a va n) := .simdStage
theorem vecStoreHigh_passesStage : PassesStage s true .simd (vecStoreHigh s a va n) := .simdStage

end Operations

/-- Every instruction passes one decode stage, by the shared operation it is. -/
theorem exec_passesStage (s : State) (i : Instr) : PassesStage s (legalHere s i) (fpClassOf s i) (exec i s) := by
  cases i <;> dsimp only [legalHere, fpClassOf]
  case sysCall | sysCallB => exact sysCall_passesStage ..
  case call | ret | jmp | jsr => exact jumpTo_passesStage ..
  case beq | bne => exact branchIf_passesStage ..
  case memb | nop | imemb | rtc | rcid | rtid | wrF | bsr => unfold exec; exact .plainStage
  case halt =>
    have hoff : decide (s.mode ≠ 0#2) = !s.inHm := decide_not
    dsimp only [exec, execHalt]
    rw [hoff]
    exact .decodeStage
  case rdF =>
    dsimp only [exec, execRdF]
    exact .decodeStage
  case priRcsr | priWcsr | priRetB => unfold exec; exact .privStage
  case priRet => exact priReturn_passesStage ..
  case lldw | lldl => exact lockLoad_passesStage ..
  case lstw | lstl => exact lockStore_passesStage ..
  case ldwInc | ldlInc | ldwDec | ldlDec | ldwSet | ldlSet => exact atomic_passesStage ..
  case addw | mulw | mull | umulh | cmpeq | bis | xor => exact operate_passesStage ..
  case addwLit | mulwLit | mullLit | umulhLit | cmpeqLit | bisLit | xorLit | ldi => exact operate_passesStage ..
  case ldbu | ldhu | ldw | ldl => exact scalarLoad_passesStage ..
  case ldlU =>
    dsimp only [exec, execLdlU]
    split
    · exact scalarLoad_passesStage ..
    · exact .plainStage
  case ldwNc | ldlNc => exact ncLoad_passesStage ..
  case flds | fldd | lddNc | fsts | fstd | stdNc =>
    dsimp only [exec, execFlds, execFldd, execLddNc, execFsts, execFstd, execStdNc]
    exact .decodeStage
  case stb | sth | stw | stl => exact scalarStore_passesStage ..
  case stwNc | stlNc => exact ncStore_passesStage ..
  case priLdwP | priLdlP | priLdwV | priLdlV | priLdwVpte | priLdlVpte => exact priLoad_passesStage ..
  case priStwP | priStlP | priStwV | priStlV => exact priStore_passesStage ..
  case priLdwIncP | priLdlIncP | priLdwDecP | priLdlDecP | priLdwSetP | priLdlSetP => exact priAtomic_passesStage ..
  case fetchd | fetchdE => exact fetchLine_passesStage ..
  case flushd | evictdl | evictdg => exact evictLine_passesStage ..
  case faddd => exact scalarFloat_passesStage ..
  case vaddd => exact vectorFloat_passesStage ..
  case rfpcr | wfpcr => unfold exec; exact .floatStage
  case setfpec0 | setfpec1 | setfpec2 | setfpec3 => exact setFpec_passesStage ..
  case vinsf | vinsw | vcpyf | vextf | vextw => unfold exec; exact .simdStage
  case fimov | ifmov =>
    dsimp only [exec, execFimov, execIfmov]
    exact .decodeStage
  case vlddNc | vlds | vldd | ldwe | ldse | ldde =>
    dsimp only [exec, execVlddNc, execVlds, execVldd, execLdwe, execLdse, execLdde]
    exact vecLoad_passesStage ..
  case vldwU | vldsU | vlddU =>
    dsimp only [exec, execVldwU, execVldsU, execVlddU]
    exact vecLoadU_passesStage ..
  case vstdNc | vsts | vstd =>
    dsimp only [exec, execVstdNc, execVsts, execVstd]
    exact vecStore_passesStage ..
  case vstwUl | vstsUl | vstdUl =>
    dsimp only [exec, execVstwUl, execVstsUl, execVstdUl]
    exact vecStoreLow_passesStage ..
  case vstwUh | vstsUh | vstdUh =>
    dsimp only [exec, execVstwUh, execVstsUh, execVstdUh]
    exact vecStoreHigh_passesStage ..

/-- A legal instruction that its floating unit does not hold back and IA_MATCH matches (R672). -/
theorem exec_of_iaHit {s : State} {i : Instr} (hlegal : legalHere s i = true) (hu : unimplemented s = false)
    (hia : iaHit s = true) : exec i s = .next s.raiseIaMatch := by
  obtain ⟨lk, body, hexec⟩ := (exec_passesStage s i).stage
  simp [hexec, decodeStage, hlegal, hu, hia]

/-- A legal instruction whose floating unit is off (R541). -/
theorem exec_of_fen {s : State} {i : Instr} (hlegal : legalHere s i = true) (hu : unimplemented s = false)
    (hia : iaHit s = false) (hfp : fpEnabled s.csr (fpClassOf s i) = false) : exec i s = .next s.raiseFen := by
  obtain ⟨lk, body, hexec⟩ := (exec_passesStage s i).stage
  rw [hexec, hlegal]
  exact decodeStage_fen lk body hu hia hfp

/-- Settles O15: by the class of each instruction of the two lists. -/
theorem floatingDisabled : Obligations.FloatingDisabled := by
  intro s fa fb fc rb d e l w hu hia
  have hfen : ∀ i, legalHere s i = true → fpEnabled s.csr (fpClassOf s i) = false → ∃ t, exec i s = .next t ∧
      faultsTo s t 0xA80 ∧ t.csr.iglInst = 0#32 ++ s.word ∧ ∃ r, excSumIs t r 0 := fun i hlegal hfp =>
    ⟨_, exec_of_fen hlegal hu hia hfp, raiseFen_spec s⟩
  refine ⟨fun i hi hoff => ?scalar, fun i hi hoff => ?simd⟩
  case scalar =>
    have hfp : fpEnabled s.csr .scalar = false := by
      rcases hoff with h | h <;> simp only [fpEnabled, Csrs.fpe, Csrs.fce, h, Bool.and_false, Bool.false_and]
    have hclass : legalHere s i = true ∧ fpClassOf s i = .scalar := by
      rcases List.mem_append.1 hi with hi | hi
      · rcases List.mem_append.1 hi with hi | hi
        · fin_cases hi <;> exact ⟨rfl, rfl⟩
        · split at hi
          · cases hi
          · rename_i h31
            fin_cases hi <;> exact ⟨rfl, if_neg h31⟩
      · split at hi
        · rename_i hmoves
          fin_cases hi <;> exact ⟨rfl, if_pos hmoves⟩
        · cases hi
    exact hfen i hclass.1 (hclass.2 ▸ hfp)
  case simd =>
    have hfp : fpEnabled s.csr .simd = false := by
      rcases hoff with h | h | h <;> simp only [fpEnabled, Csrs.fpe, Csrs.fce, Csrs.sce, h, Bool.and_false, Bool.false_and]
    have hclass : legalHere s i = true ∧ fpClassOf s i = .simd := by
      fin_cases hi <;> exact ⟨rfl, rfl⟩
    exact hfen i hclass.1 (hclass.2 ▸ hfp)

/-! ### The instruction address match -/

/-- Every bit of a word below bit 63 (R672: IA_MASK covers bits [62:0]). -/
theorem getLsbD_low63 : ∀ n : Fin 64, (0x7FFFFFFFFFFFFFFF : W64).getLsbD n = decide (n.val < 63) := by decide

/-- IA_MATCH matches where every bit that the mask names agrees: the pc, UPN and VPN (R672). -/
theorem iaHitUnder_of_bits {s : State} {v k : W64} (hen : v.getLsbD 63 = true)
    (hpc : ∀ n, n < 53 → k.getLsbD n = true → v.getLsbD n = s.pc.getLsbD n)
    (hupn : ∀ n, n < 8 → k.getLsbD (53 + n) = true → v.getLsbD (53 + n) = s.csr.upcr.getLsbD (39 + n))
    (hvpn : ∀ n, n < 2 → k.getLsbD (61 + n) = true → v.getLsbD (61 + n) = s.csr.vpcr.getLsbD (44 + n)) :
    iaHitUnder s v k = true := by
  have hcur : ∀ n, n < 63 → k.getLsbD n = true →
      v.getLsbD n = (0#1 ++ s.csr.vpn ++ s.csr.upn ++ s.pc.extractLsb' 0 53).getLsbD n := by
    intro n hn hk
    simp only [BitVec.getLsbD_append, Csrs.vpn, Csrs.upn, BitVec.getLsbD_extractLsb', Nat.zero_add]
    by_cases h53 : n < 53
    · simp [h53, hpc n h53 hk]
    by_cases h61 : n < 61
    · have h := hupn (n - 53) (by omega)
      rw [show 53 + (n - 53) = n by omega] at h
      simp [h53, show n - 53 < 8 by omega, h hk]
    · have h := hvpn (n - 61) (by omega)
      rw [show 61 + (n - 61) = n by omega] at h
      simp [h53, show ¬n - 53 < 8 by omega, show n - 53 - 8 = n - 61 by omega, h hk]
      omega
  unfold iaHitUnder
  rw [hen, Bool.true_and, decide_eq_true_eq]
  apply BitVec.eq_of_getLsbD_eq
  intro n hn
  rw [BitVec.getLsbD_and, BitVec.getLsbD_and, BitVec.getLsbD_xor, getLsbD_low63 ⟨n, hn⟩]
  by_cases h63 : n < 63
  · cases hk : k.getLsbD n
    · simp
    · simp [hcur n h63 hk]
  · simp [h63]

/-- IACV by IA_MATCH (R550 case 2). -/
theorem raiseIaMatch_spec (s : State) : let t := s.raiseIaMatch
    faultsTo s t 0xD00 ∧ t.csr.iglInst = 0#32 ++ s.word ∧ ∃ r, excSumIs t r (BitVec.twoPow 64 33) :=
  ⟨⟨rfl, rfl⟩, rfl, s.freeReg, BitVec.or_comm _ _⟩

/-- Settles O16: the match is found, and every legal instruction passes the decode stage. -/
theorem addressMatchStops : Obligations.AddressMatchStops := by
  intro s i hlegal hu hmatch hmask hen hpc hupn hvpn
  have hia : iaHit s = true := (iaHit_of_settled hmatch hmask).trans (iaHitUnder_of_bits hen hpc hupn hvpn)
  exact ⟨_, exec_of_iaHit hlegal hu hia, raiseIaMatch_spec s⟩

end Sys2Proof.Machine

/-! ## SYS_CALL, HALT, PRI_RET, the lock flags: settles O22, O24, O26, O31, O33, O48 -/

namespace Sys2Proof.Machine

/-! ### SYS_CALL -/

/-- Both forms of SYS_CALL mean the same (R411). -/
theorem exec_sysCall {s : State} {fn : BitVec 25} {i : Instr} (hi : i = .sysCall fn ∨ i = .sysCallB fn) :
    exec i s = sysCall fn s := by
  rcases hi with rfl | rfl <;> rfl

/-- The high bits of a function are 0 exactly below 256. -/
theorem sysCallHigh_iff (fn : BitVec 25) : fn.extractLsb' 8 17 = 0 ↔ fn.toNat < 256 := by
  rw [← BitVec.toNat_inj, BitVec.extractLsb'_toNat, Nat.shiftRight_eq_div_pow]
  have := fn.isLt
  simp
  omega

/-- The level of a function, as a number. -/
theorem sysCallLevel_toNat (fn : BitVec 25) : (fn.extractLsb' 6 2).toNat = fn.toNat / 64 % 4 := by
  rw [BitVec.extractLsb'_toNat, Nat.shiftRight_eq_div_pow]

/-- A legal SYS_CALL, by the number of the function (R411). -/
theorem sysCallLegal_iff (s : State) (fn : BitVec 25) :
    sysCallLegal s fn = true ↔ fn.toNat < 256 ∧ (s.mode = 0#2 ∨ fn.toNat / 64 % 4 = 2 ∨
      (fn.toNat / 64 % 4 = 0 ∧ (s.mode = 2#2 ∨ s.mode = 1#2)) ∨ (fn.toNat / 64 % 4 = 1 ∧ s.mode = 1#2)) := by
  have hlevel : ∀ k : BitVec 2, fn.extractLsb' 6 2 = k ↔ fn.toNat / 64 % 4 = k.toNat := fun k => by
    rw [← BitVec.toNat_inj, sysCallLevel_toNat]
  simp only [sysCallLegal, State.inHm, Bool.and_eq_true, Bool.or_eq_true, decide_eq_true_eq, sysCallHigh_iff, hlevel]
  simp only [BitVec.reduceToNat, or_assoc]

/-- The entry of a SYS_CALL as an update of its state (R411). -/
theorem enterSysCall_eq (s : State) (fn : BitVec 25) :
    enterSysCall s fn = { s with
      pc := sysCallEntry s fn, sr := s.sr.set 9 (sext53 (s.pc + 4)), csr := (s.count .plain).csr
      lock := { s.lock with valid := false } } := by
  unfold enterSysCall State.setSr23 State.count
  split <;> rfl

/-- Settles O22: the function is legal, and the body is `enterSysCall`, or in HM a no-operation. -/
theorem sysCallEnters : Obligations.SysCallEnters := by
  intro s fn i hready hi
  rw [exec_sysCall hi]
  have hbody : sysCallLegal s fn = true → sysCall fn s =
      if s.inHm then .next (s.retire .nop) else .next (enterSysCall s fn) := fun hl => by
    rw [sysCall, hl, decodeStage_ready _ _ hready]
  refine ⟨fun hm hlt => ?_, fun hm hfn => ?_⟩
  · rw [hbody ((sysCallLegal_iff s fn).2 ⟨hlt, .inl hm⟩), State.inHm, hm]
    exact ⟨_, rfl, resultNone_retire s .nop⟩
  · have hl : sysCallLegal s fn = true := (sysCallLegal_iff s fn).2 (by
      rcases hfn with ⟨h1, h2⟩ | ⟨h1, h2⟩ | ⟨h1, h2, h3⟩
      · exact ⟨by omega, .inr (.inl (by omega))⟩
      · exact ⟨by omega, .inr (.inr (.inl ⟨by omega, h2⟩))⟩
      · exact ⟨by omega, .inr (.inr (.inr ⟨by omega, h3⟩))⟩)
    rw [hbody hl, State.inHm, decide_eq_false hm, enterSysCall_eq]
    exact ⟨_, rfl, sysCallEntry_mode s fn, fun _ => rfl, rfl, rfl, rfl⟩

/-- Settles O24: the function is not legal, so the decode stage raises OPCDEC. -/
theorem illegalSysCall : Obligations.IllegalSysCall := by
  intro s fn i hi hfn
  have hl : sysCallLegal s fn = false := by
    rw [Bool.eq_false_iff, ne_eq, sysCallLegal_iff]
    rintro ⟨hlt, hok⟩
    rcases hfn with h | ⟨hm, h | ⟨h, hm3⟩ | ⟨h1, h2, hm1⟩⟩
    · omega
    · rcases hok with h0 | h0 | ⟨h0, -⟩ | ⟨h0, -⟩
      · exact hm h0
      all_goals omega
    · rcases hok with h0 | h0 | ⟨-, h0 | h0⟩ | ⟨-, h0⟩
      · exact hm h0
      · omega
      all_goals rw [hm3] at h0; exact absurd h0 (by decide)
    · rcases hok with h0 | h0 | ⟨h0, -⟩ | ⟨-, h0⟩
      · exact hm h0
      · omega
      · omega
      · exact hm1 h0
  rw [exec_sysCall hi, sysCall, hl, decodeStage_illegal _ _ _ (.inr rfl)]
  obtain ⟨hfault, higl, hsum, -⟩ := raiseOpcdec_spec s false
  exact ⟨_, rfl, hfault, higl, hsum⟩

/-! ### HALT and sleep -/

/-- An interrupt taken wakes the core and saves the pc (R606, R632). -/
theorem wake_interrupt (s : State) (off : BitVec 16) : let t := { s with power := .running }.interrupt off
    t.power = .running ∧ t.pc = s.entry off ∧ t.csr.excPc = sext53 s.pc ∧ t.x = s.x ∧ t.sr = s.sr ∧ t.v = s.v ∧
      sameMem s t :=
  ⟨rfl, rfl, rfl, rfl, rfl, rfl, fun _ => rfl⟩

/-- Settles O26: HALT by the mode and the parameter of C16, then the steps of a sleeping core. -/
theorem haltAndSleep : Obligations.HaltAndSleep := by
  refine ⟨fun s hready => ⟨fun hm => ?_, fun hm hp => ?_, fun hm hp => ?_⟩,
    fun s => ⟨fun hp => ?_, fun hp hn => ?_, fun n hp => ?_, fun off hp hn => ?_⟩⟩
  · show ∃ t, execHalt s = .next t ∧ _
    have hhm : s.inHm = false := decide_eq_false hm
    rw [execHalt, hhm, Bool.not_false, Bool.true_or, decodeStage_ready _ _ hready, hhm]
    refine ⟨_, rfl, ⟨State.retire_pc s .plain, rfl⟩, fun a => congrArg (memGet · a) (State.retire_mem s .plain), ?_⟩
    unfold State.retire State.count
    split <;> rfl
  · show ∃ t, execHalt s = .next t ∧ _
    rw [execHalt, State.inHm, decide_eq_true hm, hp, Bool.not_true, Bool.or_false, decodeStage_illegal _ _ _ (.inr rfl)]
    obtain ⟨hfault, higl, -⟩ := raiseOpcdec_spec s false
    exact ⟨_, rfl, hfault, higl⟩
  · show ∃ t, execHalt s = .next t ∧ _
    have hhm : s.inHm = true := decide_eq_true hm
    rw [execHalt, hp, Bool.not_false, Bool.or_true, decodeStage_ready _ _ hready, hhm]
    exact ⟨_, rfl, resultNone_retire s .nop⟩
  · rw [afterBoundary, hp]
  · rw [afterBoundary, hp, hn]
  · have hdeep : s.power ≠ .deepSleep := by rw [hp]; decide
    have hrun : s.power ≠ .running := by rw [hp]; decide
    exact (if_neg hdeep).trans (if_neg hrun)
  · obtain ⟨h1, h2, h3, h4, h5, h6, h7⟩ := wake_interrupt s off
    exact ⟨_, by rw [afterBoundary, hp, hn], h1, h2, h3, h4, h5, h6, h7⟩

/-! ### PRI_RET -/

/-- Settles O31: both forms are `State.leave` after the count. -/
theorem priRetReturns : Obligations.PriRetReturns := by
  intro s ra hready hm
  have hleave : (s.count .plain).leave (s.getX ra) = { s with
      pc := s.getX ra, csr := (s.count .plain).csr, lock := { s.lock with valid := false } } := by
    unfold State.leave State.count
    split <;> rfl
  constructor
  · show ∃ t, priReturn s ra = .next t ∧ _
    rw [priReturn, privStage_ready _ hready hm, hleave]
    exact ⟨_, rfl, rfl, fun _ => rfl, rfl⟩
  · show ∃ t, execPriRetB ra s = .next t ∧ _
    rw [execPriRetB, privStage_ready _ hready hm, hleave]
    exact ⟨_, rfl, rfl, fun _ => rfl, rfl⟩

/-! ### Loads to R31 and F31 -/

/-- A load into an integer register whose destination is R31 (R801, log 11). -/
theorem loadXOr31_31 (s : State) {a : Acc} (va : W64) (ha : a.ra = 31#5) : loadXOr31 s a va = .next (s.retire .read) :=
  if_pos ha

/-- See `loadXOr31_31`. -/
theorem loadF_31 (s : State) {a : Acc} (va : W64) (cvt : Nat → W64) (ha : a.ra = 31#5) :
    loadF s a va cvt = .next (s.retire .read) :=
  if_pos ha

/-- See `loadXOr31_31`. -/
theorem scalarLoad_31 {s : State} {ra : BitVec 5} (h : ready s .none) (hra : ra = 31#5) (rb : BitVec 5) (d : BitVec 16)
    (n : Nat) : scalarLoad s ra rb d n = .next (s.retire .read) := by
  rw [scalarLoad, plainStage_ready _ h, loadXOr31_31 _ _ hra]

/-- See `loadXOr31_31`. -/
theorem ncLoad_31 {s : State} {ra : BitVec 5} (h : ready s .none) (hra : ra = 31#5) (rb : BitVec 5) (e : BitVec 12)
    (n : Nat) : ncLoad s ra rb e n = .next (s.retire .read) := by
  rw [ncLoad, plainStage_ready _ h, loadXOr31_31 _ _ hra]

/-- See `loadXOr31_31`; LDL_U under either setting of its parameter (log 17). -/
theorem execLdlU_31 {s : State} {ra : BitVec 5} (h : ready s .none) (hra : ra = 31#5) (rb : BitVec 5) (d : BitVec 16) :
    execLdlU ra rb d s = .next (s.retire .read) := by
  unfold execLdlU
  split
  · exact scalarLoad_31 h hra rb d 8
  · rw [plainStage_ready _ h, loadXOr31_31 _ _ hra]

/-- See `loadXOr31_31`; FLDS and FLDD need no floating unit then (D31). -/
theorem decodeStage_loadF_31 {s : State} {fa : BitVec 5} (h : ready s .none) (hfa : fa = 31#5) {a : Acc}
    (ha : a.ra = 31#5) (va : State → W64) (cvt : Nat → W64) :
    decodeStage s true false (fldClass fa) (fun s => loadF s a (va s) cvt) = .next (s.retire .read) := by
  rw [show fldClass fa = .none from if_pos hfa, decodeStage_ready _ _ h, loadF_31 _ _ _ ha]

/-- See `loadXOr31_31`. -/
theorem vecLoad_31 {s : State} (h : ready s .simd) {a : Acc} (ha : a.ra = 31#5) (va : W64) (int : Bool)
    (cvt : Nat → V256) : vecLoad s a va int cvt = .next (s.retire .read) := by
  rw [vecLoad, simdStage, decodeStage_ready _ _ h, if_pos ha]

/-- See `loadXOr31_31`. -/
theorem vecLoadU_31 {s : State} (h : ready s .simd) {a : Acc} (ha : a.ra = 31#5) (va : W64) (int : Bool)
    (cvt : Nat → V256) : vecLoadU s a va int cvt = .next (s.retire .read) := by
  rw [vecLoadU, simdStage, decodeStage_ready _ _ h, if_pos ha]

/-- Settles O33: every such load only retires. -/
theorem loadsTo31 : Obligations.LoadsTo31 := by
  intro s rb d e
  generalize hra : (31 : BitVec 5) = ra
  have hra := hra.symm
  have done : ∀ {i : Instr}, exec i s = .next (s.retire .read) → ∃ t, exec i s = .next t ∧ resultNone s t .read :=
    fun h => ⟨_, h, resultNone_retire s .read⟩
  refine ⟨fun h => ?_, fun h => ?_, fun h => ?_⟩
  · simp only [List.forall_mem_cons]
    exact ⟨done (scalarLoad_31 h hra rb d 1), done (scalarLoad_31 h hra rb d 2), done (scalarLoad_31 h hra rb d 4),
      done (scalarLoad_31 h hra rb d 8), done (execLdlU_31 h hra rb d), done (ncLoad_31 h hra rb e 4),
      done (ncLoad_31 h hra rb e 8), done (decodeStage_loadF_31 (a := loadAcc ra 4) h hra hra (fun s => s.ea16 rb d) _),
      done (decodeStage_loadF_31 (a := loadAcc ra 8) h hra hra (fun s => s.ea16 rb d) _), List.forall_mem_nil _⟩
  · have hldd : execLddNc ra rb e s = .next (s.retire .read) := by
      rw [execLddNc, decodeStage_ready _ _ h, loadF_31 _ _ _ hra]
    exact done hldd
  · simp only [List.forall_mem_cons]
    exact ⟨done (show execVlddNc ra rb d s = _ from vecLoad_31 h hra ..),
      done (show execVlds ra rb d s = _ from vecLoad_31 h hra ..),
      done (show execVldd ra rb d s = _ from vecLoad_31 h hra ..),
      done (show execLdwe ra rb d s = _ from vecLoad_31 h hra ..),
      done (show execLdse ra rb d s = _ from vecLoad_31 h hra ..),
      done (show execLdde ra rb d s = _ from vecLoad_31 h hra ..),
      done (show execVldwU ra rb d s = _ from vecLoadU_31 h hra ..),
      done (show execVldsU ra rb d s = _ from vecLoadU_31 h hra ..),
      done (show execVlddU ra rb d s = _ from vecLoadU_31 h hra ..), List.forall_mem_nil _⟩

/-! ### WR_F and RD_F -/

/-- Settles O48: WR_F by its update, RD_F by its destination. -/
theorem lockFlagAccess : Obligations.LockFlagAccess := by
  intro s ra hready
  refine ⟨?_, fun hra hp => ?_, fun hra => ?_⟩
  · show ∃ t, execWrF ra s = .next t ∧ _
    rw [execWrF, plainStage_ready _ hready]
    refine ⟨_, rfl, ⟨State.retire_pc .., (State.retire_csr _ _).trans (State.count_csr_congr (by rfl) (by rfl) (by rfl) (by rfl) _)⟩, fun a => by simp, ?_⟩
    unfold State.retire State.count
    split <;> rfl
  · show ∃ t, execRdF ra s = .next t ∧ _
    rw [execRdF, hp, Bool.or_true, decodeStage_ready _ _ hready, if_neg hra]
    have hw : ((BitVec.ofBool s.lock.success).setWidth 64 : W64) = if s.lock.success then 1 else 0 := by
      cases s.lock.success <;> rfl
    rw [← hw]
    exact ⟨_, rfl, resultX_retire s .plain ra _⟩
  · show ∃ t, execRdF ra s = .next t ∧ _
    rw [execRdF, decide_eq_true hra, Bool.true_or, decodeStage_ready _ _ hready, if_pos hra]
    exact ⟨_, rfl, resultNone_retire s .nop⟩

end Sys2Proof.Machine

/-! ## The register files, the moves between them and FPCR: settles O13, O53, O54 -/

namespace Sys2Proof.Machine

/-! ### Bits of a replaced field -/

/-- A bit of a word of `m` bits in which a field was replaced. -/
theorem getLsbD_replaced {m k : Nat} (w : BitVec m) (lo : Nat) (d : BitVec k) (h : lo + k ≤ m) (j : Nat) :
    ((w &&& ~~~((BitVec.allOnes k).setWidth m <<< lo)) ||| (d.setWidth m <<< lo)).getLsbD j =
      if lo ≤ j ∧ j < lo + k then d.getLsbD (j - lo) else w.getLsbD j := by
  by_cases hj : j < m
  · by_cases hlo : lo ≤ j
    · by_cases hk : j < lo + k
      · simp [hj, hlo, hk, show ¬j < lo by omega, show j - lo < k by omega]
      · simp [hj, hlo, hk, show ¬j < lo by omega, show ¬j - lo < k by omega,
          BitVec.getLsbD_of_ge d (j - lo) (by omega)]
    · simp [hj, hlo, show j < lo by omega]
  · rw [BitVec.getLsbD_of_ge _ _ (by omega), if_neg (by omega), BitVec.getLsbD_of_ge _ _ (by omega)]

/-- A bit of a word in which a field was replaced. -/
theorem getLsbD_putField {k : Nat} (w : W64) (lo : Nat) (d : BitVec k) (h : lo + k ≤ 64) (j : Nat) :
    (putField w lo d).getLsbD j = if lo ≤ j ∧ j < lo + k then d.getLsbD (j - lo) else w.getLsbD j :=
  getLsbD_replaced w lo d h j

/-- A bit of a vector register in which an element was replaced. -/
theorem getLsbD_putLane {k : Nat} (v : V256) (lo : Nat) (d : BitVec k) (h : lo + k ≤ 256) (j : Nat) :
    (putLane v lo d).getLsbD j = if lo ≤ j ∧ j < lo + k then d.getLsbD (j - lo) else v.getLsbD j :=
  getLsbD_replaced v lo d h j

/-- A bit of a lane. -/
theorem getLsbD_lane (v : V256) (i j : Nat) (hj : j < 64) : (lane v i).getLsbD j = v.getLsbD (64 * i + j) := by
  rw [lane, BitVec.getLsbD_extractLsb']
  simp [hj]

/-! ### The moves -/

/-- The lanes of a vector with one lane replaced. -/
theorem lane_putLane (v : V256) (l : Nat) (w : W64) (hl : l < 4) (i : Fin 4) :
    lane (putLane v (64 * l) w) i.val = if i.val = l then w else lane v i.val := by
  apply BitVec.eq_of_getLsbD_eq
  intro j hj
  rw [getLsbD_lane _ _ _ hj, getLsbD_putLane _ _ _ (by omega)]
  by_cases h : i.val = l
  · rw [if_pos (by omega), if_pos h, show 64 * i.val + j - 64 * l = j by omega]
  · rw [if_neg (by omega), if_neg h, getLsbD_lane _ _ _ hj]

/-- The lanes of a vector with one 32-bit element replaced. -/
theorem lane_putElement (v : V256) (l : Nat) (w : BitVec 32) (hl : l < 8) (i : Fin 4) :
    lane (putLane v (32 * l) w) i.val =
      (if 2 * i.val + 1 = l then w else (lane v i.val).extractLsb' 32 32) ++
        (if 2 * i.val = l then w else (lane v i.val).setWidth 32) := by
  apply BitVec.eq_of_getLsbD_eq
  intro j hj
  rw [getLsbD_lane _ _ _ hj, getLsbD_putLane _ _ _ (by omega), BitVec.getLsbD_append]
  by_cases hlow : j < 32
  · rw [if_pos hlow]
    by_cases h : 2 * i.val = l
    · rw [if_pos (by omega), if_pos h, show 64 * i.val + j - 32 * l = j by omega]
    · rw [if_neg (by omega), if_neg h, BitVec.getLsbD_setWidth, getLsbD_lane _ _ _ hj]
      simp [hlow]
  · rw [if_neg hlow]
    by_cases h : 2 * i.val + 1 = l
    · rw [if_pos (by omega), if_pos h, show 64 * i.val + j - 32 * l = j - 32 by omega]
    · rw [if_neg (by omega), if_neg h, BitVec.getLsbD_extractLsb', getLsbD_lane _ _ _ (by omega)]
      simp [show j - 32 < 32 by omega, show 32 + (j - 32) = j by omega]

/-- A result of a vector write by its lanes. -/
theorem resultV_retire_of {s : State} {fd : BitVec 5} {v : V256} {n : BitVec 4} {l : Fin 4 → W64}
    (h : ∀ i : Fin 4, lane v i.val = l i) : resultV s ((s.setV fd v n).retire .plain) .plain fd l := by
  have hr := resultV_retire s .plain fd v n
  rwa [show (fun i : Fin 4 => lane v i.val) = l from funext h] at hr

/-- What VINSF leaves, for every literal (R877). -/
theorem execVinsf_ready {s : State} (h : ready s .simd) (fa fb : BitVec 5) (l : BitVec 8) (fc : BitVec 5) :
    exec (.vinsf fa fb l fc) s = .next ((s.setV fc
      (if l.toNat < 4 then putLane (s.getV fb) (64 * l.toNat) (s.getF fa) else Config.badLane s.freeCtr)
      (putTag (s.getInts fb) l.toNat ((s.getInts fa).getLsbD 0))).retire .plain) := by
  show execVinsf fa fb l fc s = _
  rw [execVinsf, simdStage, decodeStage_ready _ _ h]

/-- What VINSW leaves, for every literal (R878). -/
theorem execVinsw_ready {s : State} (h : ready s .simd) (fa fb : BitVec 5) (l : BitVec 8) (fc : BitVec 5) :
    exec (.vinsw fa fb l fc) s = .next ((s.setV fc
      (if l.toNat < 8 then putLane (s.getV fb) (32 * l.toNat) ((s.getF fa).extractLsb' 0 32) else Config.badLane s.freeCtr)
      (putTag (s.getInts fb) (l.toNat / 2) true)).retire .plain) := by
  show execVinsw fa fb l fc s = _
  rw [execVinsw, simdStage, decodeStage_ready _ _ h]

/-- What VCPYF leaves (R879). -/
theorem execVcpyf_ready {s : State} (h : ready s .simd) (fa fc : BitVec 5) :
    exec (.vcpyf fa fc) s = .next ((s.setV fc (ofLanes (s.getF fa) (s.getF fa) (s.getF fa) (s.getF fa))
      (if (s.getInts fa).getLsbD 0 then 0b1111 else 0)).retire .plain) := by
  show execVcpyf fa fc s = _
  rw [execVcpyf, simdStage, decodeStage_ready _ _ h]

/-- What VEXTF leaves, for every literal (R880). -/
theorem execVextf_ready {s : State} (h : ready s .simd) (fa : BitVec 5) (l : BitVec 8) (fc : BitVec 5) :
    exec (.vextf fa l fc) s = .next ((s.setF fc
      (if l.toNat < 4 then lane (s.getV fa) l.toNat else lane (Config.badLane s.freeCtr) 0)
      ((s.getInts fa).getLsbD l.toNat)).retire .plain) := by
  show execVextf fa l fc s = _
  rw [execVextf, simdStage, decodeStage_ready _ _ h]

/-- What VEXTW leaves, for every literal (R881). -/
theorem execVextw_ready {s : State} (h : ready s .simd) (fa : BitVec 5) (l : BitVec 8) (fc : BitVec 5) :
    exec (.vextw fa l fc) s = .next ((s.setF fc
      (if l.toNat < 8 then Config.upper32 s.freeCtr ++ (s.getV fa).extractLsb' (32 * l.toNat) 32
       else lane (Config.badLane s.freeCtr) 0) true).retire .plain) := by
  show execVextw fa l fc s = _
  rw [execVextw, simdStage, decodeStage_ready _ _ h]

/-- What FIMOVx leaves (R882). -/
theorem execFimov_ready {s : State} (h : ready s (moveClass s.par)) (w : MoveWidth) (fa rc : BitVec 5) :
    exec (.fimov w fa rc) s = .next ((s.setX rc (moveValue s w (s.getF fa))).retire .plain) := by
  show execFimov w fa rc s = _
  rw [execFimov, decodeStage_ready _ _ h]

/-- What IFMOVx leaves (R883). -/
theorem execIfmov_ready {s : State} (h : ready s (moveClass s.par)) (w : MoveWidth) (ra fc : BitVec 5) :
    exec (.ifmov w ra fc) s = .next ((s.setF fc (moveValue s w (s.getX ra)) s.intData).retire .plain) := by
  show execIfmov w ra fc s = _
  rw [execIfmov, decodeStage_ready _ _ h]

/-- Settles O53: each move writes one register, whose lanes the element lemmas give. -/
theorem registerMoves : Obligations.RegisterMoves := by
  refine ⟨fun s fa fb fc l h => ⟨fun hl => ?_, fun hl => ?_, ?_, fun hl => ?_, fun hl => ?_, ?_, ?_, ?_, ?_⟩,
    fun s fa ra h => ⟨?_, ?_, ?_, ?_⟩⟩
  · rw [execVinsf_ready h, if_pos hl]
    exact ⟨_, rfl, resultV_retire_of (lane_putLane _ _ _ hl)⟩
  · rw [execVinsw_ready h, if_pos hl, ← BitVec.setWidth_eq_extractLsb' (by decide)]
    exact ⟨_, rfl, resultV_retire_of (lane_putElement _ _ _ hl)⟩
  · rw [execVcpyf_ready h]
    exact ⟨_, rfl, resultV_retire_of fun i => by rw [lane_ofLanes]; fin_cases i <;> rfl⟩
  · rw [execVextf_ready h, if_pos hl]
    exact ⟨_, rfl, resultF_retire ..⟩
  · rw [execVextw_ready h, if_pos hl]
    exact ⟨_, _, rfl, resultF_retire .., BitVec.setWidth_append_eq_right⟩
  · exact ⟨_, _, execVinsf_ready h .., resultV_retire ..⟩
  · exact ⟨_, _, execVinsw_ready h .., resultV_retire ..⟩
  · exact ⟨_, _, execVextf_ready h .., resultF_retire ..⟩
  · exact ⟨_, _, execVextw_ready h .., resultF_retire ..⟩
  · exact ⟨_, execFimov_ready h .., resultX_retire ..⟩
  · exact ⟨_, execIfmov_ready h .., resultF_retire ..⟩
  · exact ⟨_, _, execFimov_ready h .., resultX_retire ..⟩
  · exact ⟨_, _, execIfmov_ready h .., resultF_retire ..⟩

/-! ### FPCR -/

/-- An instruction that writes FPCR and retires. -/
theorem retires_fpcr (s : State) (w : W64) : let t := { s with fpcr := w }.retire .plain
    retires s t .plain ∧ sameMem s t ∧ t = { s with pc := t.pc, csr := t.csr, fpcr := t.fpcr } ∧ t.fpcr = w := by
  refine ⟨⟨State.retire_pc .., (State.retire_csr ..).trans (State.count_csr_congr (by rfl) (by rfl) (by rfl) (by rfl) _)⟩,
    fun a => by simp, ?_, by simp⟩
  unfold State.retire State.count
  split <;> rfl

/-- The bits of FPCR as it reads, but for SUM. -/
theorem readFpcr_getLsbD (w : W64) {n : Nat} (hn : n < 63) :
    (readFpcr w).getLsbD n = (w.getLsbD n && fpcrStored.getLsbD n) := by
  unfold readFpcr orBit setBit
  split
  · rw [BitVec.getLsbD_or, BitVec.getLsbD_and, BitVec.getLsbD_twoPow]
    simp [show 63 ≠ n by omega]
  · rw [BitVec.getLsbD_and]

/-- SUM (R202). -/
theorem readFpcr_sum (w : W64) : (readFpcr w).getLsbD 63 = decide (w &&& fpcrStatus ≠ 0) := by
  have h63 : (w &&& fpcrStored).getLsbD 63 = false := by
    rw [BitVec.getLsbD_and, show fpcrStored.getLsbD 63 = false from by decide, Bool.and_false]
  unfold readFpcr orBit setBit
  split <;> rename_i h
  · rw [BitVec.getLsbD_or, BitVec.getLsbD_twoPow, h]
    simp
  · rw [h63, eq_comm, Bool.eq_false_iff]
    exact h

/-- The places of the status bits (R200). -/
theorem fpcrStatus_getLsbD : ∀ n, n < 64 → (fpcrStatus.getLsbD n = true ↔
    (52 ≤ n ∧ n ≤ 57) ∨ (36 ≤ n ∧ n ≤ 40) ∨ (20 ≤ n ∧ n ≤ 24) ∨ (4 ≤ n ∧ n ≤ 8)) := by
  decide

/-- A status bit is set. -/
theorem and_fpcrStatus_ne_zero (w : W64) : w &&& fpcrStatus ≠ 0 ↔
    ∃ n, ((52 ≤ n ∧ n ≤ 57) ∨ (36 ≤ n ∧ n ≤ 40) ∨ (20 ≤ n ∧ n ≤ 24) ∨ (4 ≤ n ∧ n ≤ 8)) ∧ w.getLsbD n = true := by
  constructor
  · intro h
    by_contra hno
    refine h (BitVec.eq_of_getLsbD_eq fun n hn => ?_)
    rw [BitVec.getLsbD_and, show (0 : W64).getLsbD n = false from BitVec.getLsbD_zero, Bool.and_eq_false_iff, Bool.eq_false_iff, Bool.eq_false_iff]
    by_contra hb
    push Not at hb
    exact hno ⟨n, (fpcrStatus_getLsbD n hn).1 hb.2, hb.1⟩
  · rintro ⟨n, hn, hb⟩ h0
    have hbit : (w &&& fpcrStatus).getLsbD n = true := by
      rw [BitVec.getLsbD_and, hb, (fpcrStatus_getLsbD n (by omega)).2 hn, Bool.and_self]
    rw [h0] at hbit
    simp at hbit

/-- WFPCR writes the stored bits but EXC_CTL (R205). -/
theorem writeFpcr_getLsbD (w d : W64) {n : Nat} (hn : 2 ≤ n) :
    (writeFpcr w d).getLsbD n = (d.getLsbD n && fpcrStored.getLsbD n) := by
  have hlow : (0x3 : W64).getLsbD n = false := by
    by_cases h : n < 64
    · have hbits : ∀ n, 2 ≤ n → n < 64 → (0x3 : W64).getLsbD n = false := by decide
      exact hbits n hn h
    · exact BitVec.getLsbD_of_ge _ _ (by omega)
  have hmask : fpcrWritable.getLsbD n = fpcrStored.getLsbD n := by
    by_cases h : n < 64
    · have hbits : ∀ n, 2 ≤ n → n < 64 → fpcrWritable.getLsbD n = fpcrStored.getLsbD n := by decide
      exact hbits n hn h
    · rw [BitVec.getLsbD_of_ge _ _ (by omega), BitVec.getLsbD_of_ge _ _ (by omega)]
  rw [writeFpcr, BitVec.getLsbD_or, BitVec.getLsbD_and, BitVec.getLsbD_and, hlow, hmask, Bool.and_false, Bool.false_or]

/-- WFPCR leaves EXC_CTL (R205). -/
theorem writeFpcr_excCtl (w d : W64) : (writeFpcr w d).extractLsb' 0 2 = w.extractLsb' 0 2 := by
  apply BitVec.eq_of_getLsbD_eq
  intro n hn
  have hmask : fpcrWritable.getLsbD n = false := by revert n; decide
  have hlow : (0x3 : W64).getLsbD n = true := by revert n; decide
  rw [BitVec.getLsbD_extractLsb', BitVec.getLsbD_extractLsb', Nat.zero_add, writeFpcr, BitVec.getLsbD_or,
    BitVec.getLsbD_and, BitVec.getLsbD_and, hmask, hlow, Bool.and_true, Bool.and_false, Bool.or_false]

/-- SETFPECn replaces the two low bits (R451). -/
theorem setExcCtl_eq (w : W64) (n : BitVec 2) : setExcCtl w n = w.extractLsb' 2 62 ++ n := by
  apply BitVec.eq_of_getLsbD_eq
  intro j hj
  rw [setExcCtl, getLsbD_putField _ _ _ (by decide), BitVec.getLsbD_append]
  by_cases h : j < 2
  · rw [if_pos (by omega), if_pos h, Nat.sub_zero]
  · rw [if_neg (by omega), if_neg h, BitVec.getLsbD_extractLsb', show 2 + (j - 2) = j by omega]
    simp [show j - 2 < 62 by omega]

/-- What SETFPECn leaves (R451). -/
theorem setFpec_ready {s : State} (h : ready s .scalar) (n : BitVec 2) :
    ∃ t, setFpec s n = .next t ∧ retires s t .plain ∧ sameMem s t ∧
      t = { s with pc := t.pc, csr := t.csr, fpcr := s.fpcr.extractLsb' 2 62 ++ n } := by
  obtain ⟨hret, hmem, heq, hfpcr⟩ := retires_fpcr s (setExcCtl s.fpcr n)
  rw [hfpcr, setExcCtl_eq] at heq
  rw [setFpec, floatStage, decodeStage_ready _ _ h, setExcCtl_eq]
  rw [setExcCtl_eq] at hret hmem
  exact ⟨_, rfl, hret, hmem, heq⟩

/-- Settles O54: the instructions by the three operations on FPCR, then the bits of `readFpcr`. -/
theorem fpcrAccess : Obligations.FpcrAccess := by
  refine ⟨fun s fa h => ⟨?_, ?_, ?_⟩, fun w => ⟨?_, fun n hn => readFpcr_getLsbD w hn⟩⟩
  · show ∃ t, execRfpcr fa s = .next t ∧ _
    rw [execRfpcr, floatStage, decodeStage_ready _ _ h]
    exact ⟨_, rfl, resultF_retire ..⟩
  · show ∃ t, execWfpcr fa s = .next t ∧ _
    rw [execWfpcr, floatStage, decodeStage_ready _ _ h]
    obtain ⟨hret, hmem, heq, hfpcr⟩ := retires_fpcr s (writeFpcr s.fpcr (s.getF fa))
    exact ⟨_, rfl, hret, hmem, heq, by rw [hfpcr, writeFpcr_excCtl],
      fun n hn => by rw [hfpcr, writeFpcr_getLsbD _ _ hn]⟩
  · simp only [List.forall_mem_cons]
    exact ⟨setFpec_ready h 0, setFpec_ready h 1, setFpec_ready h 2, setFpec_ready h 3, List.forall_mem_nil _⟩
  · rw [readFpcr_sum, decide_eq_true_eq]
    exact and_fpcrStatus_ne_zero w

/-! ### The register files -/

/-- The system registers stand behind their names in HM with IS_CTL[SRE] = 1 (R33). -/
theorem State.shadow_of_settled {s : State} (h : settledCsr s 0x11) (i : BitVec 5) :
    s.shadow i = if s.mode = 0#2 ∧ s.csr.isCtl.getLsbD 0 = true then srSlot i else none := by
  unfold State.shadow State.inHm
  rw [State.sreSeen_of_settled h, Csrs.sre]
  simp only [Bool.and_eq_true, decide_eq_true_eq]

/-- A register name behind which a system register stands. -/
theorem State.getX_setX_of_shadow {s : State} {i : BitVec 5} {k : Fin 10} (h : s.shadow i = some k) (w : W64) :
    s.getX i = s.sr[k] ∧ (s.setX i w).sr = s.sr.set k w ∧ (s.setX i w).x = s.x := by
  rw [State.getX_eq, State.setX, h]
  exact ⟨rfl, rfl, rfl⟩

/-- The names of the system registers (R33). -/
theorem srSlot_eq_none : ∀ i : BitVec 5,
    i ∉ [1#5, 2#5, 4#5, 5#5, 6#5, 7#5, 20#5, 21#5, 22#5, 23#5] → srSlot i = none := by
  decide

/-- A register name behind which an ordinary register stands; R31 is none of them. -/
theorem State.getX_setX_of_no_shadow {s : State} {i : BitVec 5} (h : s.shadow i = none) (w : W64) :
    (s.setX i w).sr = s.sr ∧ s.getX i = (s.x[i.toNat]?).getD 0 ∧
      (∀ h : i.toNat < 31, (s.setX i w).x = s.x.set i.toNat w) ∧
      (i = 31#5 → (s.setX i w).x = s.x ∧ s.getX i = 0) := by
  rw [State.getX_eq, State.setX, h]
  refine ⟨rfl, rfl, fun hi => ?_, ?_⟩
  · simp [Vector.setIfInBounds, Vector.set, hi, Array.setIfInBounds]
  · rintro rfl
    exact ⟨Vector.setIfInBounds_eq_of_size_le (by decide), by simp⟩

/-- A scalar floating write, by its retirement (R41). -/
theorem writesOnlyF_setF (s : State) (i : BitVec 5) (w : W64) (b : Bool) : writesOnlyF s (s.setF i w b) i w := by
  obtain ⟨⟨hget, hother⟩, -⟩ := resultF_retire s .plain i w b
  have hv : ((s.setF i w b).retire .plain).getF i = (s.setF i w b).getF i := by simp [State.getF, State.getV]
  exact ⟨hv ▸ hget, fun j hj => by rw [← hother j hj, State.retire_v]⟩

/-- A vector write reads back, and no other register changes (R40). -/
theorem State.getV_setV (s : State) (i j : BitVec 5) (u : V256) (n : BitVec 4) :
    (s.setV i u n).getV j = if j = i ∧ i ≠ 31#5 then u else s.getV j := by
  unfold State.getV State.setV
  have hi := i.isLt
  by_cases h : j = i
  · subst h
    by_cases h31 : j = 31#5
    · subst h31
      simp
    · have hlt : j.toNat < 31 := by
        have hne : j.toNat ≠ 31 := fun hn => h31 (BitVec.eq_of_toNat_eq hn)
        omega
      simp [h31, hlt]
  · have hne : i.toNat ≠ j.toNat := fun hn => h (BitVec.eq_of_toNat_eq hn.symm)
    simp [h, hne]

/-- Settles O13: what stands behind a name, then the rules of the writes. -/
theorem registerFiles : Obligations.RegisterFiles := by
  refine ⟨fun s w hset => ⟨fun hm hsre => ?_, fun i hi => ?_⟩, fun s w i => ?_, fun s w u i b ints => ?_⟩
  · have hslot : ∀ {i : BitVec 5} {k : Fin 10}, srSlot i = some k → s.shadow i = some k := fun h => by
      rw [State.shadow_of_settled hset, if_pos ⟨hm, hsre⟩, h]
    have hname := fun {i : BitVec 5} {k : Fin 10} (h : srSlot i = some k) => State.getX_setX_of_shadow (hslot h) w
    simp only [List.forall_mem_cons]
    exact ⟨hname rfl, hname rfl, hname rfl, hname rfl, hname rfl, hname rfl, hname rfl, hname rfl, hname rfl, hname rfl,
      List.forall_mem_nil _⟩
  · refine State.getX_setX_of_no_shadow ?_ w
    rw [State.shadow_of_settled hset]
    split
    · rename_i hhm
      rcases hi with h | h | h
      · exact srSlot_eq_none i h
      · exact absurd hhm.1 h
      · rw [h] at hhm
        exact absurd hhm.2 (by decide)
    · rfl
  · exact writesOnlyX_of rfl rfl (by simp [State.mode]) (by simp) (by simp) (by simp)
  · refine ⟨writesOnlyF_setF s i w b, fun hi => ?_, fun j hj => ?_, ?_⟩
    · rw [State.getV_setV, if_pos ⟨rfl, hi⟩]
    · rw [State.getV_setV, if_neg fun h => hj h.1]
    · simp [State.getV]

end Sys2Proof.Machine

/-! ## Words outside the table, and PRI_RCSR: settles O3, O27 -/

namespace Sys2Proof.Machine

/-! ### BaseISA's rows -/

/-- The opcode of a word under the mask of its place. -/
theorem and_opcodeMask (w : BitVec 32) : w &&& 0xFC000000#32 = (fldOp w).setWidth 32 <<< 26 := by
  have hmask : ∀ n, n < 32 → (0xFC000000#32).getLsbD n = decide (26 ≤ n) := by decide
  apply BitVec.eq_of_getLsbD_eq
  intro n hn
  rw [BitVec.getLsbD_and, hmask n hn, BitVec.getLsbD_shiftLeft, BitVec.getLsbD_setWidth, fldOp, BitVec.getLsbD_extractLsb']
  by_cases h : n < 26
  · simp [hn, h]
  · simp [hn, h, show n - 26 < 6 by omega, show 26 ≤ n by omega, show n - 26 < 32 by omega, show 26 + (n - 26) = n by omega]

/-- A word no row names. -/
theorem baseRow_eq_none {p : Params} {w : BitVec 32} (h : ∀ r ∈ p.base, w &&& r.mask ≠ r.value) : baseRow p w = none := by
  unfold baseRow
  split
  · rfl
  · rw [List.find?_eq_none]
    intro r hr
    simpa using h r hr

/-- What a word that BaseISA names runs, where no row has a word of its own. -/
theorem runWord_of_baseRow {s : State} {r : BaseRow} (hext : s.par.extEnc = []) (h : baseRow s.par s.word = some r) :
    runWord s = execBase r.shape s := by
  have hdec : decodeFetched s.par s.word = .error (.baseInstruction (fldOp s.word)) := by
    rw [decodeFetched, hext, h]
    rfl
  rw [runWord, hdec]
  show undecoded s = _
  rw [undecoded, h]

/-- The row of a word under the model's rows, by its opcode: no such opcode is a privileged encoding (R6). -/
theorem baseRow_baseRows {s : State} (hbase : s.par.base = baseRows) {op : BitVec 6} (hop : s.opcode = op)
    (hpriv : op ∉ [0x07#6, 0x25#6, 0x2D#6, 0x06#6]) :
    baseRow s.par s.word = baseRows.find? (fun r => decide (op.setWidth 32 <<< 26 = r.value)) := by
  have hfld : fldOp s.word = op := hop
  have hnot : privilegedWord s.word = false := by
    simp only [List.mem_cons, List.not_mem_nil, or_false, not_or] at hpriv
    unfold privilegedWord
    rw [hfld]
    split <;> simp_all
  have hword : s.word &&& (0xFC000000 : BitVec 32) = op.setWidth 32 <<< 26 := hfld ▸ and_opcodeMask s.word
  rw [baseRow, hnot, hbase]
  simp only [baseRows, hword, List.find?_cons, List.find?_nil, Bool.false_eq_true, if_false]

/-- Settles O3: no row takes the word, or the row's shape is the instruction it stands for. -/
theorem reservedWordRaisesOpcdec : Obligations.ReservedWordRaisesOpcdec := by
  refine ⟨fun s e hdec hrow => ?_, fun s hbase hext => ⟨fun hop => ?_, fun hop => ?_, fun hop hready => ?_⟩⟩
  · obtain ⟨hfault, higl, hsum, hds, hdva, hiva⟩ := raiseOpcdec_spec s false
    refine ⟨_, ?_, hfault, higl, hsum, hds, hdva, hiva⟩
    rw [runWord, hdec]
    show undecoded s = _
    rw [undecoded, baseRow_eq_none hrow]
  · rw [runWord_of_baseRow hext ((baseRow_baseRows hbase hop (by decide)).trans rfl)]
    rfl
  · rw [runWord_of_baseRow hext ((baseRow_baseRows hbase hop (by decide)).trans rfl)]
    rfl
  · rw [runWord_of_baseRow hext ((baseRow_baseRows hbase hop (by decide)).trans rfl)]
    exact operate_result hready ..

/-! ### PRI_RCSR -/

/-- Ordering the write of a CSR changes no other component. -/
theorem State.noteRead_eq (s : State) (idx : BitVec 8) : s.noteRead idx = { s with unsynced := (s.noteRead idx).unsynced } := by
  unfold State.noteRead
  split <;> rfl

/-- What is left in flight depends on what was in flight. -/
theorem State.noteRead_unsynced_congr {s t : State} (h : t.unsynced = s.unsynced) (idx : BitVec 8) :
    (t.noteRead idx).unsynced = (s.noteRead idx).unsynced := by
  unfold State.noteRead
  split <;> simp [h]

/-- The readers of HM see every write in flight, ordered or not (R742). -/
theorem State.noteRead_oldValues (s : State) (idx i : BitVec 8) : (s.noteRead idx).oldValues i true = s.oldValues i true := by
  have hmap : ∀ l : List CsrWrite, ((l.map fun e => if e.idx = idx ∧ e.sync = .written then { e with sync := .readBack } else e).filter
      fun e => decide (e.idx = i)).map CsrWrite.old = (l.filter fun e => decide (e.idx = i)).map CsrWrite.old := by
    intro l
    induction l with
    | nil => rfl
    | cons e r ih =>
      have he : ∀ f : CsrWrite, f = (if e.idx = idx ∧ e.sync = .written then { e with sync := .readBack } else e) →
          f.idx = e.idx ∧ f.old = e.old := by
        rintro f rfl
        split <;> exact ⟨rfl, rfl⟩
      obtain ⟨hidx, hold⟩ := he _ rfl
      rw [List.map_cons, List.filter_cons, List.filter_cons, hidx]
      split
      · rw [List.map_cons, List.map_cons, ih, hold]
      · exact ih
  unfold State.noteRead State.oldValues
  split <;> simp only [Bool.true_or, Bool.and_true, hmap]

/-- The register view of HM stands through a read of a CSR. -/
theorem State.noteRead_getX {s : State} (idx : BitVec 8) (i : BitVec 5) : (s.noteRead idx).getX i = s.getX i := by
  have hold := s.noteRead_oldValues idx 0x11
  rw [State.noteRead_eq] at hold ⊢
  unfold State.getX State.shadow State.sreSeen
  rw [hold]
  rfl

/-- The bits of a linear page-table address before it is extended (R96, R159). -/
theorem getLsbD_vptParts (base va : W64) (n : Nat) :
    (base.extractLsb' 49 4 ++ (BitVec.ofBool (va.getLsbD 52)).signExtend 6 ++ va.extractLsb' 13 40 ++ 0#3).getLsbD n =
      if n < 3 then false else if n < 43 then va.getLsbD (n + 10) else if n < 49 then va.getLsbD 52
      else if n < 53 then base.getLsbD n else false := by
  have hsign : ∀ j, j < 6 → ((BitVec.ofBool (va.getLsbD 52)).signExtend 6).getLsbD j = va.getLsbD 52 := by
    intro j hj
    cases va.getLsbD 52 <;> revert j <;> decide
  rw [BitVec.getLsbD_append, BitVec.getLsbD_append, BitVec.getLsbD_append, BitVec.getLsbD_extractLsb',
    BitVec.getLsbD_extractLsb']
  by_cases h3 : n < 3
  · simp [h3]
  by_cases h43 : n < 43
  · simp [h3, h43, show n - 3 < 40 by omega, show 13 + (n - 3) = n + 10 by omega]
  by_cases h49 : n < 49
  · rw [if_neg h3, if_neg (by omega), if_pos (by omega), hsign _ (by omega)]
    simp [h3, h43, h49]
  by_cases h53 : n < 53
  · simp [h3, h43, h49, h53, show ¬n - 3 < 40 by omega, show ¬n - 3 - 40 < 6 by omega,
      show n - 3 - 40 - 6 < 4 by omega, show 49 + (n - 3 - 40 - 6) = n by omega]
  · simp [h3, h43, h49, h53, show ¬n - 3 < 40 by omega, show ¬n - 3 - 40 < 6 by omega,
      show ¬n - 3 - 40 - 6 < 4 by omega]

/-- The bits of a linear page-table address (R96, R159). -/
theorem getLsbD_vptForm (base va : W64) (n : Nat) (hn : n < 64) : (vptForm base va).getLsbD n =
    if n < 3 then false else if n < 43 then va.getLsbD (n + 10) else if n < 49 then va.getLsbD 52
    else if n < 53 then base.getLsbD n else base.getLsbD 52 := by
  have hmsb : (base.extractLsb' 49 4 ++ (BitVec.ofBool (va.getLsbD 52)).signExtend 6 ++ va.extractLsb' 13 40 ++ 0#3).msb =
      base.getLsbD 52 :=
    (BitVec.msb_eq_getLsbD_last _).trans (getLsbD_vptParts base va 52)
  rw [vptForm, BitVec.getLsbD_signExtend, hmsb, getLsbD_vptParts]
  by_cases h : n < 53
  · simp [hn, h]
  · simp [hn, h, show ¬n < 3 by omega, show ¬n < 43 by omega, show ¬n < 49 by omega]

/-- What the fields of a linear page-table address are (R96, R159). -/
theorem vptForm_fields {base va base' va' : W64} (hb : ∀ n, 49 ≤ n → n < 53 → base'.getLsbD n = base.getLsbD n)
    (hv : ∀ n, 13 ≤ n → n < 53 → va'.getLsbD n = va.getLsbD n) : let w := vptForm base va
    w.extractLsb' 0 3 = 0 ∧ w.extractLsb' 3 40 = va'.extractLsb' 13 40 ∧
    (∀ n, 43 ≤ n → n ≤ 48 → w.getLsbD n = va'.getLsbD 52) ∧ w.extractLsb' 49 4 = base'.extractLsb' 49 4 ∧
    ∀ n, 53 ≤ n → n < 64 → w.getLsbD n = base'.getLsbD 52 := by
  refine ⟨?_, ?_, fun n h1 h2 => ?_, ?_, fun n h1 h2 => ?_⟩
  · apply BitVec.eq_of_getLsbD_eq
    intro n hn
    rw [BitVec.getLsbD_extractLsb', getLsbD_vptForm _ _ _ (by omega), if_pos (by omega), Bool.and_false]
    exact BitVec.getLsbD_zero.symm
  · apply BitVec.eq_of_getLsbD_eq
    intro n hn
    rw [BitVec.getLsbD_extractLsb', BitVec.getLsbD_extractLsb', getLsbD_vptForm _ _ _ (by omega), if_neg (by omega),
      if_pos (by omega), hv _ (by omega) (by omega), show 3 + n + 10 = 13 + n by omega]
  · rw [getLsbD_vptForm _ _ _ (by omega), if_neg (by omega), if_neg (by omega), if_pos (by omega),
      hv _ (by omega) (by omega)]
  · apply BitVec.eq_of_getLsbD_eq
    intro n hn
    rw [BitVec.getLsbD_extractLsb', BitVec.getLsbD_extractLsb', getLsbD_vptForm _ _ _ (by omega), if_neg (by omega),
      if_neg (by omega), if_neg (by omega), if_pos (by omega), hb _ (by omega) (by omega)]
  · rw [getLsbD_vptForm _ _ _ h2, if_neg (by omega), if_neg (by omega), if_neg (by omega), if_neg (by omega),
      hb _ (by omega) (by omega)]

/-- The low bits of a sign-extended address. -/
theorem getLsbD_sext53 (w : W64) {n : Nat} (hn : n < 53) : (sext53 w).getLsbD n = w.getLsbD n := by
  rw [sext53, BitVec.getLsbD_signExtend, BitVec.getLsbD_extractLsb']
  simp [hn, show n < 64 by omega]

/-- The bits that VPT_BASE and DS_CTL[VPTB] hold (R117, R151). -/
theorem getLsbD_vptMask (w : W64) {n : Nat} (h : 49 ≤ n) (hn : n < 53) :
    (w &&& 0x001E000000000000).getLsbD n = w.getLsbD n := by
  have hmask : ∀ n, 49 ≤ n → n < 53 → (0x001E000000000000 : W64).getLsbD n = true := by decide
  rw [BitVec.getLsbD_and, hmask n h hn, Bool.and_true]

/-- Settles O27: the two computed registers, then the write of Ra with the ordering of the read. -/
theorem csrRead : Obligations.CsrRead := by
  refine ⟨fun s => ?_, fun s ra idx hready hm => ?_⟩
  · simp only [List.forall_mem_cons]
    exact ⟨vptForm_fields (fun n h hn => by rw [show readCsr s 0x17#8 = sext53 (s.csr.vptBase &&& 0x001E000000000000) from rfl,
          getLsbD_sext53 _ hn, getLsbD_vptMask _ h hn])
        (fun n _ hn => getLsbD_sext53 _ hn),
      vptForm_fields (fun n h hn => getLsbD_vptMask _ h hn) (fun _ _ _ => rfl), List.forall_mem_nil _⟩
  · show ∃ t, execPriRcsr ra idx s = .next t ∧ _
    rw [execPriRcsr, privStage_ready _ hready hm]
    obtain ⟨⟨hrd, hother, hfile⟩, ⟨hpc, hcsr⟩, hmem, heq⟩ := resultX_retire s .plain ra (readCsr s idx)
    have hun := State.noteRead_unsynced_congr (s := s) (t := (s.setX ra (readCsr s idx)).retire .plain) (by simp) idx
    have hview := fun i => State.noteRead_getX (s := (s.setX ra (readCsr s idx)).retire .plain) idx i
    have hnote := State.noteRead_eq ((s.setX ra (readCsr s idx)).retire .plain) idx
    generalize (s.setX ra (readCsr s idx)).retire .plain = t at *
    generalize t.noteRead idx = u at *
    rw [hun] at hnote
    subst hnote
    refine ⟨_, rfl, ⟨(hview ra).trans hrd, fun j hj => (hview j).trans (hother j hj), hfile⟩, ⟨hpc, hcsr⟩, hmem, ?_⟩
    rw [heq]

end Sys2Proof.Machine

/-! ## Scalar loads and stores of memory: settles O32, O35 -/

namespace Sys2Proof.Machine

/-! ### Loads -/

/-- A load of memory into an integer register, by its result. -/
theorem loadX_result {s : State} {a : Acc} {va : W64} {pa : PAddr} (hok : accessOk s a va pa) (hr : a.isR = true)
    (hio : isIo pa = false) (hb : a.back = 0) :
    ∃ t, loadX s a va = .next t ∧
      resultX s.unlock t .read a.ra (loadValue a.size (readMem s.mem (memAddr pa) a.size)) := by
  rw [loadX_of_accessOk hok hr hio, Acc.base_of_back hb]
  exact ⟨_, rfl, resultX_retire ..⟩

/-- See `loadX_result`. -/
theorem loadXOr31_result {s : State} {a : Acc} {va : W64} {pa : PAddr} (h31 : a.ra ≠ 31#5) (hok : accessOk s a va pa)
    (hr : a.isR = true) (hio : isIo pa = false) (hb : a.back = 0) :
    ∃ t, loadXOr31 s a va = .next t ∧
      resultX s.unlock t .read a.ra (loadValue a.size (readMem s.mem (memAddr pa) a.size)) := by
  rw [loadXOr31, if_neg h31]
  exact loadX_result hok hr hio hb

/-- See `loadX_result`; into a floating register. -/
theorem loadF_result {s : State} {a : Acc} {va : W64} {pa : PAddr} {cvt : Nat → W64} (h31 : a.ra ≠ 31#5)
    (hok : accessOk s a va pa) (hr : a.isR = true) (hio : isIo pa = false) (hb : a.back = 0) :
    ∃ t, loadF s a va cvt = .next t ∧
      resultF s.unlock t .read a.ra (cvt (readMem s.mem (memAddr pa) a.size)) := by
  rw [loadF_of_accessOk h31 hok hr hio, Acc.base_of_back hb]
  exact ⟨_, rfl, resultF_retire ..⟩

/-- LDBU, LDHU, LDW and LDL of memory. -/
theorem scalarLoad_result {s : State} {ra rb : BitVec 5} {d : BitVec 16} {n : Nat} {pa : PAddr} (h31 : ra ≠ 31#5)
    (hready : ready s .none) (hio : isIo pa = false) (hok : accessOk s (loadAcc ra n) (s.ea16 rb d) pa) :
    ∃ t, scalarLoad s ra rb d n = .next t ∧
      resultX s.unlock t .read ra (loadValue n (readMem s.mem (memAddr pa) n)) := by
  rw [scalarLoad, plainStage_ready _ hready]
  exact loadXOr31_result h31 hok rfl hio rfl

/-- LDW_NC and LDL_NC of memory. -/
theorem ncLoad_result {s : State} {ra rb : BitVec 5} {e : BitVec 12} {n : Nat} {pa : PAddr} (h31 : ra ≠ 31#5)
    (hready : ready s .none) (hio : isIo pa = false)
    (hok : accessOk s { loadAcc ra n with nc := true } (s.ea12 rb e) pa) :
    ∃ t, ncLoad s ra rb e n = .next t ∧
      resultX s.unlock t .read ra (loadValue n (readMem s.mem (memAddr pa) n)) := by
  rw [ncLoad, plainStage_ready _ hready]
  exact loadXOr31_result h31 hok rfl hio rfl

/-- LDL_U of memory, under either setting of its parameter (log 17). -/
theorem execLdlU_result {s : State} {ra rb : BitVec 5} {d : BitVec 16} {pa : PAddr} (h31 : ra ≠ 31#5)
    (hready : ready s .none) (hio : isIo pa = false)
    (hok : accessOk s (loadAcc ra 8) (if s.par.ldlUChecksAlignment then s.ea16 rb d else s.ea16 rb d &&& ~~~7) pa) :
    ∃ t, execLdlU ra rb d s = .next t ∧
      resultX s.unlock t .read ra (loadValue 8 (readMem s.mem (memAddr pa) 8)) := by
  unfold execLdlU
  split at hok <;> rename_i hpar
  · rw [if_pos hpar]
    exact scalarLoad_result h31 hready hio hok
  · rw [if_neg hpar, plainStage_ready _ hready]
    exact loadXOr31_result h31 hok rfl hio rfl

/-- FLDS and FLDD need the floating unit where their destination is not F31 (D31). -/
theorem fldClass_of_ne {fa : BitVec 5} (h31 : fa ≠ 31#5) : fldClass fa = .scalar := if_neg h31

/-- Settles O32: each load is one of the shared forms. -/
theorem scalarLoads : Obligations.ScalarLoads := by
  intro s ra rb d e pa h31 hio
  refine ⟨fun h => ⟨scalarLoad_result h31 h hio, scalarLoad_result h31 h hio, scalarLoad_result h31 h hio,
    scalarLoad_result h31 h hio, execLdlU_result h31 h hio, ncLoad_result h31 h hio, ncLoad_result h31 h hio⟩,
    fun h => ⟨fun hok => ?_, fun hok => ?_, fun hok => ?_⟩⟩
  · show ∃ t, execFlds ra rb d s = .next t ∧ _
    rw [execFlds, fldClass_of_ne h31, decodeStage_ready _ _ h]
    exact loadF_result h31 hok rfl hio rfl
  · show ∃ t, execFldd ra rb d s = .next t ∧ _
    rw [execFldd, fldClass_of_ne h31, decodeStage_ready _ _ h]
    exact loadF_result h31 hok rfl hio rfl
  · show ∃ t, execLddNc ra rb e s = .next t ∧ _
    rw [execLddNc, decodeStage_ready _ _ h]
    exact loadF_result h31 hok rfl hio rfl

/-! ### Stores -/

/-- A store to memory is ordered after what it must not overtake (R245). -/
theorem accessOk.timely_of {s : State} {a : Acc} {va : W64} {pa : PAddr} (hok : accessOk s a va pa) (hw : a.isW = true)
    (hio : isIo pa = false) : a.cached pa = true ∨ s.track.hasEarly (memAddr (a.base pa)) a.size = false := by
  cases hc : a.cached pa
  · exact .inr (hok.timely hw hio hc)
  · exact .inl rfl

/-- A store to memory, by its result. -/
theorem storeV_result {s : State} {a : Acc} {va : W64} {pa : PAddr} {v : Nat} (hwf : Memory.wf s.mem = true)
    (hok : accessOk s { a with data := some v } va pa) (hr : a.isR = false) (hw : a.isW = true) (hio : isIo pa = false) :
    ∃ t, storeV s a va v = .next t ∧ resultStore s.unlock t (memAddr (a.base pa)) a.size v :=
  ⟨_, storeV_of_accessOk hok hr hw hio, resultStore_retire s.unlock _ _ _ _ hwf (hok.timely_of hw hio)⟩

/-- STB, STH, STW and STL to memory. -/
theorem scalarStore_result {s : State} {ra rb : BitVec 5} {d : BitVec 16} {n : Nat} {pa : PAddr}
    (hwf : Memory.wf s.mem = true) (hready : ready s .none) (hio : isIo pa = false)
    (hok : accessOk s { storeAcc ra n with data := some (s.getX ra).toNat } (s.ea16 rb d) pa) :
    ∃ t, scalarStore s ra rb d n = .next t ∧ resultStore s.unlock t (memAddr pa) n (s.getX ra).toNat := by
  rw [scalarStore, plainStage_ready _ hready, ← Acc.base_of_back (a := storeAcc ra n) rfl pa]
  exact storeV_result hwf hok rfl rfl hio

/-- STW_NC and STL_NC to memory. -/
theorem ncStore_result {s : State} {ra rb : BitVec 5} {e : BitVec 12} {n : Nat} {pa : PAddr}
    (hwf : Memory.wf s.mem = true) (hready : ready s .none) (hio : isIo pa = false)
    (hok : accessOk s { storeAcc ra n with data := some (s.getX ra).toNat, nc := true } (s.ea12 rb e) pa) :
    ∃ t, ncStore s ra rb e n = .next t ∧ resultStore s.unlock t (memAddr pa) n (s.getX ra).toNat := by
  rw [ncStore, plainStage_ready _ hready, ← Acc.base_of_back (a := { storeAcc ra n with nc := true }) rfl pa]
  exact storeV_result hwf hok rfl rfl hio

/-- Settles O35: each store is one of the shared forms. -/
theorem scalarStores : Obligations.ScalarStores := by
  intro s ra rb d e pa hwf hio
  refine ⟨fun h => ⟨scalarStore_result hwf h hio, scalarStore_result hwf h hio, scalarStore_result hwf h hio,
    scalarStore_result hwf h hio, ncStore_result hwf h hio, ncStore_result hwf h hio⟩,
    fun h => ⟨fun hok => ?_, fun hok => ?_, fun hok => ?_⟩⟩
  · show ∃ t, execFsts ra rb d s = .next t ∧ _
    rw [execFsts, decodeStage_ready _ _ h, ← Acc.base_of_back (a := storeAcc ra 4) rfl pa]
    exact storeV_result hwf hok rfl rfl hio
  · show ∃ t, execFstd ra rb d s = .next t ∧ _
    rw [execFstd, decodeStage_ready _ _ h, ← Acc.base_of_back (a := storeAcc ra 8) rfl pa]
    exact storeV_result hwf hok rfl rfl hio
  · show ∃ t, execStdNc ra rb e s = .next t ∧ _
    rw [execStdNc, decodeStage_ready _ _ h, ← Acc.base_of_back (a := { storeAcc ra 8 with nc := true }) rfl pa]
    exact storeV_result hwf hok rfl rfl hio

end Sys2Proof.Machine

/-! ## Privileged loads and stores, atomics, lock accesses: settles O43, O44, O45, O46, O47 -/

namespace Sys2Proof.Machine

/-- What retiring changes (R38, R651). -/
theorem State.retire_eq (s : State) (e : EventClass) :
    s.retire e = { s with pc := s.pc + 4, csr := (s.count e).csr } := by
  unfold State.retire State.count
  split <;> rfl

/-! ### Privileged loads and stores -/

/-- A privileged load of memory at an aligned address (R420). -/
theorem priLoad_aligned {s : State} {ra rb : BitVec 5} {e : BitVec 12} {f : AccForm} {n : Nat} {pa : PAddr}
    (hready : ready s .none) (hm : s.mode = 0#2) (hio : isIo pa = false) (hal : (s.ea12 rb e).toNat % n = 0)
    (hok : accessOk s (priLoadAcc ra f n) (s.ea12 rb e) pa) :
    ∃ t, priLoad s ra rb e f n = .next t ∧
      resultX s.unlock t .read ra (loadValue n (readMem s.mem (memAddr pa) n)) := by
  rw [priLoad, privStage_ready _ hready hm]
  dsimp only
  rw [if_pos (show misBy n (s.ea12 rb e) = 0 from hal)]
  exact loadX_result hok rfl hio rfl

/-- A privileged load of memory at a misaligned address (U23). -/
theorem priLoad_misaligned {s : State} {ra rb : BitVec 5} {e : BitVec 12} {f : AccForm} {n : Nat} {pa : PAddr}
    (hready : ready s .none) (hm : s.mode = 0#2) (hio : isIo pa = false) (hal : (s.ea12 rb e).toNat % n ≠ 0)
    (hok : accessOk s { priLoadAcc ra f n with back := (s.ea12 rb e).toNat % n } (s.ea12 rb e) pa) :
    ∃ t v, priLoad s ra rb e f n = .next t ∧ resultX s.unlock t .read ra v := by
  rw [priLoad, privStage_ready _ hready hm]
  dsimp only
  rw [if_neg (show misBy n (s.ea12 rb e) ≠ 0 from hal),
    show misBy n (s.ea12 rb e) = (s.ea12 rb e).toNat % n from rfl, doLoad_of_accessOk hok rfl hio]
  exact ⟨_, _, rfl, resultX_retire ..⟩

/-- Both cases of a privileged load of memory. -/
theorem priLoad_result {s : State} {ra rb : BitVec 5} {e : BitVec 12} {pa : PAddr} (hready : ready s .none)
    (hm : s.mode = 0#2) (hio : isIo pa = false) (f : AccForm) (n : Nat) :
    ((s.ea12 rb e).toNat % n = 0 → accessOk s (priLoadAcc ra f n) (s.ea12 rb e) pa →
      ∃ t, priLoad s ra rb e f n = .next t ∧
        resultX s.unlock t .read ra (loadValue n (readMem s.mem (memAddr pa) n))) ∧
    ((s.ea12 rb e).toNat % n ≠ 0 →
      accessOk s { priLoadAcc ra f n with back := (s.ea12 rb e).toNat % n } (s.ea12 rb e) pa →
      ∃ t v, priLoad s ra rb e f n = .next t ∧ resultX s.unlock t .read ra v) :=
  ⟨priLoad_aligned hready hm hio, priLoad_misaligned hready hm hio⟩

/-- Both cases of a privileged store to memory (R425, U23). -/
theorem priStore_result {s : State} {ra rb : BitVec 5} {e : BitVec 12} {pa : PAddr} (hwf : Memory.wf s.mem = true)
    (hready : ready s .none) (hm : s.mode = 0#2) (hio : isIo pa = false) (f : AccForm) (n : Nat) :
    let ea := s.ea12 rb e
    (ea.toNat % n = 0 → accessOk s { priStoreAcc ra f n with data := some (s.getX ra).toNat } ea pa →
      ∃ t, priStore s ra rb e f n = .next t ∧ resultStore s.unlock t (memAddr pa) n (s.getX ra).toNat) ∧
    (ea.toNat % n ≠ 0 →
      (∀ b, accessOk s { priStoreAcc ra f n with back := ea.toNat % n, data := some b } ea pa) →
      ∃ t, priStore s ra rb e f n = .next t ∧
        storesOnly s.unlock t (memAddr (pa - BitVec.ofNat 48 (ea.toNat % n))) n) := by
  intro ea
  rw [priStore, privStage_ready _ hready hm]
  refine ⟨fun hal hok => ?_, fun hal hok => ?_⟩
  · dsimp only
    rw [if_pos (show misBy n ea = 0 from hal), ← Acc.base_of_back (a := priStoreAcc ra f n) rfl pa]
    exact storeV_result hwf hok rfl rfl hio
  · dsimp only
    rw [if_neg (show misBy n ea ≠ 0 from hal)]
    obtain ⟨t, ht, -, honly⟩ := storeV_result (a := { priStoreAcc ra f n with back := ea.toNat % n }) hwf
      (hok (misBytes s.freeCtr n)) rfl rfl hio
    exact ⟨t, ht, honly⟩

/-- Settles O43: the loads and the stores, each in both cases. -/
theorem privilegedAccesses : Obligations.PrivilegedAccesses := by
  intro s ra rb e pa hready hm hio
  refine ⟨?_, fun hwf => ?_⟩
  · have hload := priLoad_result (ra := ra) (rb := rb) (e := e) hready hm hio
    simp only [List.forall_mem_cons]
    exact ⟨hload .phys 4, hload .virt 4, hload .vpte 4, hload .phys 8, hload .virt 8, hload .vpte 8, List.forall_mem_nil _⟩
  · have hstore := priStore_result (ra := ra) (rb := rb) (e := e) hwf hready hm hio
    simp only [List.forall_mem_cons]
    exact ⟨hstore .phys 4, hstore .virt 4, hstore .phys 8, hstore .virt 8, List.forall_mem_nil _⟩

/-! ### Atomics -/

/-- What an atomic leaves beside the value in memory: one register, the lock, the count of a read (R463). -/
def AtomicFrame (s t : State) (lo n : Nat) (rd : BitVec 5) (old : W64) : Prop :=
  sameMemOutside s t lo n ∧ writesOnlyX s t rd old ∧ retires s t .read ∧ t.icache = (s.store lo n 0).icache ∧
    t.unsynced = (s.store lo n 0).unsynced ∧
    t = { s.unlock with
      pc := t.pc, x := t.x, sr := t.sr, csr := t.csr, mem := t.mem, icache := t.icache, unsynced := t.unsynced
      track := t.track }

/-- A store and a register write leave that frame once they retire. -/
theorem atomicFrame_retire {s : State} {c : Bool} {lo n : Nat} (v : Nat) (rd : BitVec 5) (old : W64)
    (hwf : Memory.wf s.mem = true) (he : c = true ∨ s.track.hasEarly lo n = false) :
    let t := ((s.unlock.write c lo n v).setX rd old).retire .read
    readMem t.mem lo n = v % 2 ^ (8 * n) ∧ AtomicFrame s t lo n rd old := by
  obtain ⟨hx, hsr⟩ := State.setX_congr (s := s) (u := s.unlock.write c lo n v) rd old (by simp) (by simp)
    (State.shadow_congr (by simp [State.mode]) (by simp) (by simp) (by simp) rd)
  have hmem := State.write_mem (s := s.unlock) v he
  refine ⟨?_, fun x hx => ?_, ?_, ⟨by simp, ?_⟩, ?_, ?_, ?_⟩
  · rw [State.retire_mem, State.setX_mem, hmem]
    exact readMem_write _ _ _ _ hwf
  · rw [State.retire_mem, State.setX_mem, hmem, State.unlock_mem, memGet_write _ _ _ _ hwf, if_neg (by omega)]
  · exact writesOnlyX_of (by rw [State.retire_x, hx]) (by rw [State.retire_sr, hsr]) (by simp [State.mode]) (by simp)
      (by simp) (by simp)
  · rw [State.retire_csr]
    exact State.count_csr_congr (by simp) (by simp [State.mode]) (by simp) (by simp) _
  · rw [State.retire_icache, State.setX_icache, State.write_icache (s := s.unlock) v he]
    rfl
  · rw [State.retire_unsynced, State.setX_unsynced, State.write_unsynced (s := s.unlock) v he]
    rfl
  · rw [State.setX_eq, State.write_of_ordered (s := s.unlock) v he, State.retire_eq]
    rfl

/-- An atomic on memory that raises no INCO, by its result. -/
theorem atomicX_result {s : State} {a : Acc} {va : W64} {pa : PAddr} {o : AtomicOp} {mt : Bool}
    (hwf : Memory.wf s.mem = true) (hok : accessOk s a va pa) (hr : a.isR = true) (hw : a.isW = true)
    (hio : isIo pa = false) (hb : a.back = 0)
    (hq : mt = true → (s.maskSeen = true ∨ s.csr.dcCtl.getLsbD 10 = false) ∨
      o.overflows a.size (readMem s.mem (memAddr pa) a.size) = false) :
    ∃ t, atomicX s a va o mt = .next t ∧
      readMem t.mem (memAddr pa) a.size = o.apply a.size (readMem s.mem (memAddr pa) a.size) % 2 ^ (8 * a.size) ∧
      AtomicFrame s t (memAddr pa) a.size a.ra (loadValue a.size (readMem s.mem (memAddr pa) a.size)) := by
  have he := hok.timely_of hw hio
  rw [atomicX_of_accessOk hok hr hio (by rwa [Acc.base_of_back hb]), Acc.base_of_back hb]
  rw [Acc.base_of_back hb] at he
  obtain ⟨hmem, hframe⟩ := atomicFrame_retire (s := s) (c := a.cached pa) _ a.ra
    (loadValue a.size (readMem s.mem (memAddr pa) a.size)) hwf he
  rw [Nat.mod_mod] at hmem
  exact ⟨_, rfl, hmem, hframe⟩

/-- An unprivileged atomic on memory that raises no INCO (R463). -/
theorem atomic_result {s : State} {ra rb : BitVec 5} {e : BitVec 12} {n : Nat} {pa : PAddr} {o : AtomicOp}
    {new : Nat} (hready : ready s .none) (hset : settledCsr s 0xC3) (hwf : Memory.wf s.mem = true) (hio : isIo pa = false)
    (hok : accessOk s (atomicAcc ra n) (s.ea12 rb e) pa) (hnew : o.apply n (readMem s.mem (memAddr pa) n) = new)
    (hq : (s.csr.icr.getLsbD 0 = true ∨ s.csr.dcCtl.getLsbD 10 = false) ∨
      o.overflows n (readMem s.mem (memAddr pa) n) = false) :
    ∃ t, atomic s ra rb e n o = .next t ∧
      readMem t.mem (memAddr pa) n = new % 2 ^ (8 * n) ∧
      AtomicFrame s t (memAddr pa) n ra (loadValue n (readMem s.mem (memAddr pa) n)) := by
  rw [atomic, plainStage_ready _ hready, ← hnew]
  exact atomicX_result hwf hok rfl rfl hio rfl fun _ => by rwa [State.maskSeen_of_settled hset]

/-- A privileged atomic on memory at an aligned address (R424). -/
theorem priAtomic_aligned {s : State} {ra rb : BitVec 5} {e : BitVec 12} {n : Nat} {pa : PAddr} {o : AtomicOp}
    {new : Nat} (hready : ready s .none) (hm : s.mode = 0#2) (hwf : Memory.wf s.mem = true) (hio : isIo pa = false)
    (hal : (s.ea12 rb e).toNat % n = 0)
    (hok : accessOk s { atomicAcc ra n with form := .phys, align := 1 } (s.ea12 rb e) pa)
    (hnew : o.apply n (readMem s.mem (memAddr pa) n) = new) :
    ∃ t, priAtomic s ra rb e n o = .next t ∧ readMem t.mem (memAddr pa) n = new % 2 ^ (8 * n) ∧
      AtomicFrame s t (memAddr pa) n ra (loadValue n (readMem s.mem (memAddr pa) n)) := by
  rw [priAtomic, privStage_ready _ hready hm, ← hnew]
  dsimp only
  rw [if_pos (show misBy n (s.ea12 rb e) = 0 from hal)]
  exact atomicX_result hwf hok rfl rfl hio rfl fun h => absurd h (by decide)

/-- A privileged atomic on memory at a misaligned address (U23). -/
theorem priAtomic_misaligned {s : State} {ra rb : BitVec 5} {e : BitVec 12} {n : Nat} {pa : PAddr} (o : AtomicOp)
    (hready : ready s .none) (hm : s.mode = 0#2) (hwf : Memory.wf s.mem = true) (hio : isIo pa = false)
    (hal : (s.ea12 rb e).toNat % n ≠ 0)
    (hok : accessOk s { atomicAcc ra n with form := .phys, align := 1, back := (s.ea12 rb e).toNat % n }
      (s.ea12 rb e) pa) :
    ∃ t v, priAtomic s ra rb e n o = .next t ∧
      AtomicFrame s t (memAddr (pa - BitVec.ofNat 48 ((s.ea12 rb e).toNat % n))) n ra v := by
  rw [priAtomic, privStage_ready _ hready hm]
  dsimp only
  rw [if_neg (show misBy n (s.ea12 rb e) ≠ 0 from hal),
    show misBy n (s.ea12 rb e) = (s.ea12 rb e).toNat % n from rfl, doAtomic_of_accessOk hok rfl hio]
  exact ⟨_, _, rfl, (atomicFrame_retire _ _ _ hwf (hok.timely_of rfl hio)).2⟩

/-- Settles O44: the six unprivileged atomics, the six privileged ones, and these misaligned. -/
theorem atomics : Obligations.Atomics := by
  intro s ra rb e pa hready hset hwf hio
  refine ⟨fun hok => ⟨fun hq => ?_, fun hq => ?_, ?_⟩, fun hok => ⟨fun hq => ?_, fun hq => ?_, ?_⟩,
    fun hm hal hok => ⟨?_, ?_, ?_⟩, fun hm hal hok => ⟨?_, ?_, ?_⟩, fun hm => ?_⟩
  · exact atomic_result (o := .inc) hready hset hwf hio hok rfl (hq.imp_right fun h => by simpa [AtomicOp.overflows] using h)
  · exact atomic_result (o := .dec) hready hset hwf hio hok rfl (hq.imp_right fun h => by simpa [AtomicOp.overflows] using h)
  · exact atomic_result (o := .set) hready hset hwf hio hok rfl (.inr rfl)
  · exact atomic_result (o := .inc) hready hset hwf hio hok rfl (hq.imp_right fun h => by simpa [AtomicOp.overflows] using h)
  · exact atomic_result (o := .dec) hready hset hwf hio hok rfl (hq.imp_right fun h => by simpa [AtomicOp.overflows] using h)
  · exact atomic_result (o := .set) hready hset hwf hio hok rfl (.inr rfl)
  · exact priAtomic_aligned (o := .inc) hready hm hwf hio hal hok rfl
  · exact priAtomic_aligned (o := .dec) hready hm hwf hio hal hok rfl
  · exact priAtomic_aligned (o := .set) hready hm hwf hio hal hok rfl
  · exact priAtomic_aligned (o := .inc) hready hm hwf hio hal hok rfl
  · exact priAtomic_aligned (o := .dec) hready hm hwf hio hal hok rfl
  · exact priAtomic_aligned (o := .set) hready hm hwf hio hal hok rfl
  · simp only [List.forall_mem_cons]
    exact ⟨priAtomic_misaligned .inc hready hm hwf hio, priAtomic_misaligned .dec hready hm hwf hio,
      priAtomic_misaligned .set hready hm hwf hio, priAtomic_misaligned .inc hready hm hwf hio,
      priAtomic_misaligned .dec hready hm hwf hio, priAtomic_misaligned .set hready hm hwf hio, List.forall_mem_nil _⟩

/-- A bit that is set or not, as a word. -/
theorem orBit_zero (w : W64) (b : Bool) : orBit w 0 b = w ||| (BitVec.ofBool b).setWidth 64 := by
  cases b
  · simp [orBit]
  · rfl

/-- The entries stand through a count. -/
@[simp] theorem State.count_entry (s : State) (e : EventClass) (off : BitVec 16) : (s.count e).entry off = s.entry off := by
  unfold State.entry
  rw [State.count_csr]

/-- ARITH (R561): what it records, and what it leaves. -/
theorem raiseArith_spec (s : State) (rd : BitVec 5) (bits : W64) : let t := s.raiseArith rd bits
    t.pc = s.entry 0xB80 ∧ t.csr.excPc = sext53 s.pc ∧
      excSumIs t rd (bits ||| (BitVec.ofBool (!s.fpcr.getLsbD 1)).setWidth 64) ∧ t.mem = s.mem ∧ t.x = s.x ∧ t.sr = s.sr ∧
      t.v = s.v ∧ t.fpcr = s.fpcr ∧ t.lock = { s.lock with valid := false } := by
  refine ⟨rfl, rfl, ?_, rfl, rfl, rfl, rfl, rfl, rfl⟩
  rw [← orBit_zero]
  exact BitVec.or_comm _ _

/-- An atomic that overflows with ICR[FD] = 0 and DC_CTL[ATOP_OVF_EN] = 1 (R463, R568). -/
theorem atomic_overflow {s : State} {ra rb : BitVec 5} {e : BitVec 12} {n : Nat} {pa : PAddr} {o : AtomicOp} {v v' : Nat}
    (hready : ready s .none) (hset : settledCsr s 0xC3) (hwf : Memory.wf s.mem = true) (hio : isIo pa = false)
    (hicr : s.csr.icr.getLsbD 0 = false) (hdc : s.csr.dcCtl.getLsbD 10 = true) (hov : o.overflows n v = true)
    (hv' : o.apply n v % 2 ^ (8 * n) = v') (hok : accessOk s (atomicAcc ra n) (s.ea12 rb e) pa)
    (hv : readMem s.mem (memAddr pa) n = v) :
    ∃ t, atomic s ra rb e n o = .next t ∧ t.pc = s.entry 0xB80 ∧ t.csr.excPc = sext53 s.pc ∧
      excSumIs t ra (BitVec.twoPow 64 14 ||| (BitVec.ofBool (!s.fpcr.getLsbD 1)).setWidth 64) ∧
      readMem t.mem (memAddr pa) n = v' ∧ sameMemOutside s t (memAddr pa) n ∧
      t.x = (s.setX ra (loadValue n v)).x ∧ t.sr = (s.setX ra (loadValue n v)).sr ∧
      t.v = s.v ∧ t.fpcr = s.fpcr ∧ t.lock = { s.lock with valid := false } := by
  have hop : (true && o.overflows n v && !s.maskSeen && s.dcEn 10) = true := by
    rw [hov, State.maskSeen_of_settled hset, hicr, State.dcEn, hdc]
    rfl
  have he := hok.timely_of rfl hio
  rw [Acc.base_of_back (a := atomicAcc ra n) rfl] at he
  rw [atomic, plainStage_ready _ hready, atomicX, doAtomic_of_accessOk hok rfl hio,
    Acc.base_of_back (a := atomicAcc ra n) rfl, show (atomicAcc ra n).size = n from rfl, hv, hv', settle]
  dsimp only
  rw [hop, if_pos rfl]
  obtain ⟨hx, hsr⟩ := State.setX_congr (s := s) (u := s.unlock.write ((atomicAcc ra n).cached pa) (memAddr pa) n v') ra
    (loadValue n v) (by simp) (by simp) (State.shadow_congr (by simp [State.mode]) (by simp) (by simp) (by simp) ra)
  have hmem : (s.unlock.write ((atomicAcc ra n).cached pa) (memAddr pa) n v').mem = writeMem s.mem (memAddr pa) n v' :=
    State.write_mem (s := s.unlock) v' he
  obtain ⟨hpc, hexc, hsum, hm, hxx, hsrr, hvv, hf, hl⟩ := raiseArith_spec
    (((s.unlock.write ((atomicAcc ra n).cached pa) (memAddr pa) n v').setX ra (loadValue n v)).count .read) ra
    (BitVec.twoPow 64 14)
  have hentry : ∀ u : State, u.csr = s.csr → u.entry 0xB80 = s.entry 0xB80 := fun u hu => by rw [State.entry, hu]; rfl
  refine ⟨_, rfl, hpc.trans ?_, hexc.trans ?_, ?_, ?_, fun x hx => ?_, hxx.trans ?_, hsrr.trans ?_, hvv.trans ?_,
    hf.trans ?_, hl.trans ?_⟩
  · rw [State.count_entry, hentry _ (by simp)]
  · simp
  · rw [State.count_fpcr, State.setX_fpcr, State.write_fpcr] at hsum
    exact hsum
  · refine (congrArg (readMem · (memAddr pa) n) hm).trans ?_
    rw [State.count_mem, State.setX_mem, hmem, readMem_write _ _ _ _ hwf, ← hv', Nat.mod_mod]
  · refine (congrArg (memGet · x) hm).trans ?_
    rw [State.count_mem, State.setX_mem, hmem, memGet_write _ _ _ _ hwf, if_neg (by omega)]
  · rw [State.count_x, hx]
  · rw [State.count_sr, hsr]
  · simp
  · simp
  · simp [State.unlock]

/-- Settles O45: the four atomics that can overflow. -/
theorem atomicOverflow : Obligations.AtomicOverflow := by
  intro s ra rb e pa hready hset hwf hio hicr hdc
  simp only [List.forall_mem_cons]
  exact ⟨atomic_overflow (o := .inc) hready hset hwf hio hicr hdc (by decide) (by decide),
    atomic_overflow (o := .dec) hready hset hwf hio hicr hdc (by decide) (by decide),
    atomic_overflow (o := .inc) hready hset hwf hio hicr hdc (by decide) (by decide),
    atomic_overflow (o := .dec) hready hset hwf hio hicr hdc (by decide) (by decide), List.forall_mem_nil _⟩

/-! ### Lock loads and stores -/

/-- A lock load, by its result (R456). -/
theorem lockLoad_result {s : State} {ra rb : BitVec 5} {e : BitVec 12} {n : Nat} {pa : PAddr} (hready : ready s .none)
    (hok : accessOk s { loadAcc ra n with lock := true } (s.ea12 rb e) pa) :
    ∃ t, lockLoad s ra rb e n = .next t ∧ t.lock.valid = true ∧ t.lock.addr = pa ∧ t.lock.long = decide (n = 8) ∧
      t.lock.flag = s.lock.flag ∧ t.lock.success = s.lock.success ∧ t.lock.steps = 0 ∧
      writesOnlyX s t ra (loadValue n (readMem s.mem (memAddr pa) n)) ∧ retires s t .read ∧ sameMem s t ∧
      t = { s with pc := t.pc, x := t.x, sr := t.sr, csr := t.csr, lock := t.lock } := by
  have hspace : isIo pa = false ∧ pa.getLsbD 46 = false := by
    have hlegal := hok.legal
    simp [Acc.typeIllegal] at hlegal
    exact hlegal.2
  have hload : s.load false (memAddr pa) n = (readMem s.mem (memAddr pa) n, s) := by
    have hrace := hok.ordered rfl hspace.1
    rw [Acc.uncached, hspace.2, Acc.base_of_back rfl] at hrace
    exact State.load_of_ordered hok.alone hrace
  rw [lockLoad, plainStage_ready _ hready, dataPhase_of_accessOk hok]
  dsimp only
  rw [hload]
  generalize hl : ({ s.lock with valid := true, addr := pa, long := decide (n = 8), line := true, steps := 0 } : Lock) = l
  generalize loadValue n (readMem s.mem (memAddr pa) n) = w
  obtain ⟨hx, hsr⟩ := State.setX_congr (s := s) (u := { s with lock := l }) ra w rfl rfl rfl
  have hlock : (({ s with lock := l }.setX ra w).retire .read).lock = l := by simp
  refine ⟨_, rfl, ?_, ?_, ?_, ?_, ?_, ?_, ?_, ⟨by simp, ?_⟩, fun a => by simp, ?_⟩
  · rw [hlock, ← hl]
  · rw [hlock, ← hl]
  · rw [hlock, ← hl]
  · rw [hlock, ← hl]
  · rw [hlock, ← hl]
  · rw [hlock, ← hl]
  · exact writesOnlyX_of (by rw [State.retire_x, hx]) (by rw [State.retire_sr, hsr]) (by simp [State.mode]) (by simp)
      (by simp; rfl) (by simp)
  · rw [State.retire_csr]
    exact State.count_csr_congr (by simp) (by simp [State.mode]) (by simp; rfl) (by simp) _
  · rw [State.setX_eq, State.retire_eq]

/-- Settles O46: both lock loads. -/
theorem lockLoads : Obligations.LockLoads := by
  intro s ra rb e pa hready
  exact ⟨fun hok => lockLoad_result hready hok, fun hok => lockLoad_result hready hok⟩

/-- The condition of a lock store (R458). -/
theorem lockOk_iff (l : Lock) (pa : PAddr) (n : Nat) (b : Bool) (hb : decide (n = 8) = b) : lockOk l pa n = true ↔
    l.valid = true ∧ l.flag = true ∧ l.addr = pa ∧ l.long = b ∧ l.line = true ∧ l.steps ≤ 16 := by
  subst hb
  simp only [lockOk, Bool.and_eq_true, decide_eq_true_eq, and_assoc]

/-- What a lock store in a legal slot leaves (R458). -/
theorem lockStore_eq {s : State} {ra rb : BitVec 5} {e : BitVec 12} {n : Nat} {pa : PAddr} (hready : ready s .none)
    (hpair : lstPaired s = true)
    (hok : accessOk s { storeAcc ra n with lock := true, data := some (s.getX ra).toNat } (s.ea12 rb e) pa) :
    lockStore s ra rb e n = .next (let t := if lockOk s.lock pa n then s.save true (memAddr pa) n (s.getX ra).toNat else s
      { t with lock := { t.lock with valid := false, flag := false, success := lockOk s.lock pa n } }.retire .write) := by
  have hmatch : (if lockOk s.lock pa n then matchPhase s { storeAcc ra n with
      lock := true, data := some (s.getX ra).toNat } (s.ea12 rb e) pa else .ok ()) = .ok () := by
    split
    · exact hok.quiet
    · rfl
  rw [lockStore, hpair, decodeStage_ready _ _ hready]
  dsimp only
  rw [addressPhase_of_partOk hok.topartOk]
  dsimp only
  rw [hmatch]
  dsimp only
  rw [physicalPhase_of_partOk hok.topartOk]

/-- A lock store whose condition holds. -/
theorem lockStore_stores {s : State} {ra rb : BitVec 5} {e : BitVec 12} {n : Nat} {pa : PAddr} (hready : ready s .none)
    (hwf : Memory.wf s.mem = true) (hpair : lstPaired s = true)
    (hok : accessOk s { storeAcc ra n with lock := true, data := some (s.getX ra).toNat } (s.ea12 rb e) pa)
    (hl : lockOk s.lock pa n = true) :
    ∃ t, lockStore s ra rb e n = .next t ∧ readMem t.mem (memAddr pa) n = (s.getX ra).toNat % 2 ^ (8 * n) ∧
      sameMemOutside s t (memAddr pa) n ∧ retires s t .write ∧ t.icache = (s.store (memAddr pa) n 0).icache ∧
      t.unsynced = (s.store (memAddr pa) n 0).unsynced ∧
      t = { s with
        pc := t.pc, csr := t.csr, mem := t.mem, icache := t.icache, unsynced := t.unsynced, track := t.track
        lock := { s.lock with valid := false, flag := false, success := true } } := by
  have hsave : s.save true (memAddr pa) n (s.getX ra).toNat = s.write true (memAddr pa) n (s.getX ra).toNat :=
    State.save_of_alone hok.alone
  have hcached : true = true ∨ s.track.hasEarly (memAddr pa) n = false := .inl rfl
  have hmem := State.write_mem (s := s) (s.getX ra).toNat hcached
  rw [lockStore_eq hready hpair hok, hl, if_pos rfl, hsave]
  refine ⟨_, rfl, ?_, fun x hx => ?_, ⟨by simp, ?_⟩, ?_, ?_, ?_⟩
  · rw [State.retire_mem, hmem, readMem_write _ _ _ _ hwf]
  · rw [State.retire_mem, hmem, memGet_write _ _ _ _ hwf, if_neg (by omega)]
  · rw [State.retire_csr]
    exact State.count_csr_congr (by simp) (by simp [State.mode]) (by exact s.write_oldValues ..) (by simp) _
  · rw [State.retire_icache, State.write_icache _ hcached]
  · rw [State.retire_unsynced, State.write_unsynced _ hcached]
  · rw [State.write_of_ordered _ hcached, State.retire_eq]
    rfl

/-- A lock store whose condition fails. -/
theorem lockStore_fails {s : State} {ra rb : BitVec 5} {e : BitVec 12} {n : Nat} {pa : PAddr} (hready : ready s .none)
    (hpair : lstPaired s = true)
    (hok : accessOk s { storeAcc ra n with lock := true, data := some (s.getX ra).toNat } (s.ea12 rb e) pa)
    (hl : lockOk s.lock pa n = false) :
    ∃ t, lockStore s ra rb e n = .next t ∧ sameMem s t ∧ retires s t .write ∧
      t = { s with
        pc := t.pc, csr := t.csr, lock := { s.lock with valid := false, flag := false, success := false } } := by
  rw [lockStore_eq hready hpair hok, hl, if_neg Bool.false_ne_true]
  refine ⟨_, rfl, fun x => by simp, ⟨by simp, ?_⟩, ?_⟩
  · rw [State.retire_csr]
    exact State.count_csr_congr (by rfl) (by rfl) (by rfl) (by rfl) _
  · rw [State.retire_eq]

/-- Settles O47: both lock stores, by their condition. -/
theorem lockStores : Obligations.LockStores := by
  intro s ra rb e pa hready hwf hpair
  simp only [List.forall_mem_cons]
  refine ⟨fun hok => ⟨fun h => ?_, fun h => ?_⟩, fun hok => ⟨fun h => ?_, fun h => ?_⟩, List.forall_mem_nil _⟩
  · exact lockStore_stores hready hwf hpair hok ((lockOk_iff s.lock pa 4 false rfl).2 h)
  · exact lockStore_fails hready hpair hok (Bool.eq_false_iff.2 fun hl => h ((lockOk_iff s.lock pa 4 false rfl).1 hl))
  · exact lockStore_stores hready hwf hpair hok ((lockOk_iff s.lock pa 8 true rfl).2 h)
  · exact lockStore_fails hready hpair hok (Bool.eq_false_iff.2 fun hl => h ((lockOk_iff s.lock pa 8 true rfl).1 hl))

end Sys2Proof.Machine

/-! ## Vector loads and stores: settles O51, O52 -/

namespace Sys2Proof.Machine

/-! ### Elements of a vector in memory -/

/-- Eight bytes of a wide read, as a lane. -/
theorem ofNat_readMem_lane (m : List Host.Cell) (a n i : Nat) (h : 8 * i + 8 ≤ n) :
    BitVec.ofNat 64 (readMem m (a + 8 * i) 8) = BitVec.ofNat 64 (readMem m a n / 2 ^ (64 * i)) := by
  apply BitVec.eq_of_toNat_eq
  rw [readMem_part m a n (8 * i) 8 h, show 8 * (8 * i) = 64 * i by omega, BitVec.toNat_ofNat, BitVec.toNat_ofNat, Nat.mod_mod]

/-- Four bytes of a wide read, as an element. -/
theorem ofNat_readMem_element (m : List Host.Cell) (a n i : Nat) (h : 4 * i + 4 ≤ n) :
    BitVec.ofNat 32 (readMem m (a + 4 * i) 4) = BitVec.ofNat 32 (readMem m a n / 2 ^ (32 * i)) := by
  apply BitVec.eq_of_toNat_eq
  rw [readMem_part m a n (4 * i) 4 h, show 8 * (4 * i) = 32 * i by omega, BitVec.toNat_ofNat, BitVec.toNat_ofNat, Nat.mod_mod]

/-- The lanes that sixteen bytes of singles fill (R843). -/
theorem lane_singlesToVec (m : Nat) (i : Fin 4) :
    lane (singlesToVec m) i.val = singleToReg (BitVec.ofNat 32 (m / 2 ^ (32 * i.val))) := by
  rw [singlesToVec, lane_ofLanes]
  fin_cases i <;> rfl

/-- One value in all four lanes (R846). -/
theorem lane_replicate4 (w : W64) (i : Fin 4) : lane (replicate4 w) i.val = w := by
  rw [replicate4, lane_ofLanes]
  fin_cases i <;> rfl

/-! ### Loads -/

/-- A vector register written by a load that retires, by its lanes. -/
theorem resultV_load {s : State} {fd : BitVec 5} {v : V256} {n : BitVec 4} {l : Fin 4 → W64}
    (h : ∀ i : Fin 4, lane v i.val = l i) : resultV s ((s.setV fd v n).retire .read) .read fd l := by
  have hr := resultV_retire s .read fd v n
  rwa [show (fun i : Fin 4 => lane v i.val) = l from funext h] at hr

/-- An aligned vector load, by its lanes (R842). -/
theorem vecLoad_result {s : State} {a : Acc} {va : W64} {pa : PAddr} {int : Bool} {cvt : Nat → V256} {l : Fin 4 → W64}
    (hready : ready s .simd) (h31 : a.ra ≠ 31#5) (hs : a.simd = true) (hR : a.isR = true) (hb : a.back = 0)
    (hl : ∀ i : Fin 4, lane (cvt (readMem s.mem (memAddr pa) a.size)) i.val = l i) (hok : accessOk s a va pa) :
    ∃ t, vecLoad s a va int cvt = .next t ∧ resultV s.unlock t .read a.ra l := by
  rw [vecLoad_of_accessOk hready h31 hs hR hok, Acc.base_of_back hb]
  exact ⟨_, rfl, resultV_load hl⟩

/-- An unaligned vector load, by its lanes (R848). -/
theorem vecLoadU_result {s : State} {a : Acc} {va : W64} {pa pb : PAddr} {int : Bool} {cvt : Nat → V256}
    {l : Fin 4 → W64} {k : Nat} (hready : ready s .simd) (h31 : a.ra ≠ 31#5) (hs : a.simd = true) (hR : a.isR = true)
    (hb : a.back = 0) (hk : k = lowPart va a.size)
    (hl : ∀ i : Fin 4, lane (cvt (readMem s.mem (memAddr pa) k + readMem s.mem (memAddr pb) (a.size - k) * 2 ^ (8 * k)))
      i.val = l i)
    (hok : accessOk s { a with size := k } va pa ∧
      (k < a.size → partOk s { a with size := a.size - k, align := 1 } (va + BitVec.ofNat 64 k) pb)) :
    ∃ t, vecLoadU s a va int cvt = .next t ∧ resultV s.unlock t .read a.ra l := by
  have hke : k ≤ a.size := hk ▸ Nat.min_le_left ..
  rw [vecLoadU, simdStage, decodeStage_ready _ _ hready, if_neg h31,
    splitLoad_of_accessOk hs hR k hk hke hb hok.1 hok.2]
  exact ⟨_, rfl, resultV_load hl⟩

/-- Settles O51: each load by the lanes its conversion gives. -/
theorem vectorLoads : Obligations.VectorLoads := by
  refine ⟨fun s fa rb d pa hready h31 => ⟨?_, ?_, ?_, ?_, fun hok => ⟨?_, ?_⟩⟩,
    fun s fa rb d pa pb hready h31 => ⟨?_, ?_, ?_⟩⟩
  · show _ → ∃ t, execVldd fa rb d s = .next t ∧ _
    exact vecLoad_result hready h31 rfl rfl rfl fun i =>
      (lane_ofNat _ _ i.isLt).trans (ofNat_readMem_lane _ _ 32 _ (by omega)).symm
  · show _ → ∃ t, execVlddNc fa rb d s = .next t ∧ _
    exact vecLoad_result hready h31 rfl rfl rfl fun i =>
      (lane_ofNat _ _ i.isLt).trans (ofNat_readMem_lane _ _ 32 _ (by omega)).symm
  · show _ → ∃ t, execVlds fa rb d s = .next t ∧ _
    exact vecLoad_result hready h31 rfl rfl rfl fun i =>
      (lane_singlesToVec _ i).trans (congrArg singleToReg (ofNat_readMem_element _ _ 16 _ (by omega)).symm)
  · show _ → ∃ t, execLdde fa rb d s = .next t ∧ _
    exact vecLoad_result hready h31 rfl rfl rfl fun i => lane_replicate4 _ i
  · show ∃ t, execLdse fa rb d s = .next t ∧ _
    exact vecLoad_result hready h31 rfl rfl rfl (fun i => lane_replicate4 _ i) hok
  · show ∃ t, execLdwe fa rb d s = .next t ∧ _
    exact vecLoad_result hready h31 rfl rfl rfl (fun i => lane_replicate4 _ i) hok
  · show _ → ∃ t, execVldwU fa rb d s = .next t ∧ _
    exact vecLoadU_result hready h31 rfl rfl rfl rfl fun i => lane_ofNat _ _ i.isLt
  · show _ → ∃ t, execVlddU fa rb d s = .next t ∧ _
    exact vecLoadU_result hready h31 rfl rfl rfl rfl fun i => lane_ofNat _ _ i.isLt
  · show _ → ∃ t, execVldsU fa rb d s = .next t ∧ _
    exact vecLoadU_result hready h31 rfl rfl rfl rfl fun i => lane_singlesToVec _ i

/-! ### Stores -/

/-- A vector store of an image, by its result (R852). -/
theorem vecStore_result {s : State} {a : Acc} {va : W64} {pa : PAddr} {im : Nat} (hready : ready s .simd)
    (hwf : Memory.wf s.mem = true) (hR : a.isR = false) (hW : a.isW = true) (hs : a.simd = true)
    (hb : a.back = 0) (hok : accessOk s { a with data := some im } va pa) :
    ∃ t, vecStore s a va im = .next t ∧ resultStore s.unlock t (memAddr pa) a.size im := by
  have hio := isIo_false_of_simd (a := { a with data := some im }) hs hok.topartOk
  rw [vecStore, simdStage, decodeStage_ready _ _ hready, ← Acc.base_of_back hb pa]
  exact storeV_result hwf hok hR hW hio

/-- A lane of a stored vector is read back. -/
theorem lane_of_resultStore {s t : State} {lo i : Nat} {v : V256} (h : resultStore s t lo 32 v.toNat) (hi : i < 4) :
    BitVec.ofNat 64 (readMem t.mem (lo + 8 * i) 8) = lane v i := by
  obtain ⟨hread, -⟩ := h
  rw [ofNat_readMem_lane _ lo 32 i (by omega), hread, Nat.mod_eq_of_lt v.isLt, lane]
  apply BitVec.eq_of_toNat_eq
  rw [BitVec.toNat_ofNat, BitVec.extractLsb'_toNat, Nat.shiftRight_eq_div_pow]

/-- The image of a vector stored as singles, element by element (R853). -/
theorem vecToSingles_element (v : V256) {i : Nat} (hi : i < 4) :
    BitVec.ofNat 32 (vecToSingles v / 2 ^ (32 * i)) = regToSingle (lane v i) := by
  have hpart : ∀ w : BitVec 128, BitVec.ofNat 32 (w.toNat / 2 ^ (32 * i)) = w.extractLsb' (32 * i) 32 := fun w => by
    apply BitVec.eq_of_toNat_eq
    rw [BitVec.toNat_ofNat, BitVec.extractLsb'_toNat, Nat.shiftRight_eq_div_pow]
  rw [vecToSingles, hpart]
  apply BitVec.eq_of_getLsbD_eq
  intro j hj
  rw [BitVec.getLsbD_extractLsb', BitVec.getLsbD_append, BitVec.getLsbD_append, BitVec.getLsbD_append]
  interval_cases i
  · simp [hj]
  · simp [hj, show ¬32 + j < 32 by omega]
  · simp [hj, show ¬64 + j < 32 by omega, show ¬64 + j - 32 < 32 by omega, show 64 + j - 32 - 32 = j by omega]
  · simp [hj, show ¬96 + j < 32 by omega, show ¬96 + j - 32 < 32 by omega, show ¬96 + j - 32 - 32 < 32 by omega,
      show 96 + j - 32 - 32 - 32 = j by omega]

/-- An element of a vector stored as singles is read back. -/
theorem element_of_resultStore {s t : State} {lo i : Nat} {v : V256} (h : resultStore s t lo 16 (vecToSingles v))
    (hi : i < 4) : BitVec.ofNat 32 (readMem t.mem (lo + 4 * i) 4) = regToSingle (lane v i) := by
  obtain ⟨hread, -⟩ := h
  have hlt : vecToSingles v < 2 ^ (8 * 16) := BitVec.isLt _
  rw [ofNat_readMem_element _ lo 16 i (by omega), hread, Nat.mod_eq_of_lt hlt, vecToSingles_element v hi]

/-- The UL form (R852). -/
theorem vecStoreLow_result {s : State} {a : Acc} {va : W64} {pa : PAddr} {im : Nat} (hready : ready s .simd)
    (hwf : Memory.wf s.mem = true) (hR : a.isR = false) (hW : a.isW = true) (hs : a.simd = true) (hb : a.back = 0)
    (hok : accessOk s { a with size := min a.size (32 - va.toNat % 32), data := some im } va pa) :
    ∃ t, vecStoreLow s a va im = .next t ∧
      resultStore s.unlock t (memAddr pa) (min a.size (32 - va.toNat % 32)) im := by
  rw [vecStoreLow, simdStage, decodeStage_ready _ _ hready,
    ← Acc.base_of_back (a := { a with size := min a.size (32 - va.toNat % 32) }) hb pa]
  exact storeV_result hwf hok hR hW (isIo_false_of_simd (a := { a with
    size := min a.size (32 - va.toNat % 32), data := some im }) hs hok.topartOk)

/-- Both cases of the UH form (R852): with nothing above the boundary it is checked and stores nothing, else the bytes below
the effective address. -/
theorem vecStoreHigh_result {s : State} {a : Acc} {va : W64} {pa : PAddr} {im : Nat} (hready : ready s .simd)
    (hwf : Memory.wf s.mem = true) (hR : a.isR = false) (hW : a.isW = true) (hs : a.simd = true) :
    let k := va.toNat % 32
    ((k = 0 ∨ a.size ≤ k) → addressPhase s a va = .ok pa → matchPhase s a va pa = .ok () →
      ∃ t, vecStoreHigh s a va im = .next t ∧ resultNone s.unlock t .write) ∧
    (0 < k → k < a.size →
      let high := im / 2 ^ (8 * (a.size - k))
      accessOk s { a with size := k, data := some high, back := k } va pa →
      ∃ t, vecStoreHigh s a va im = .next t ∧
        resultStore s.unlock t (memAddr (pa - BitVec.ofNat 48 k)) k high) := by
  intro k
  rw [vecStoreHigh, simdStage, decodeStage_ready _ _ hready, highStore]
  refine ⟨fun hk haddr hmatch => ?_, fun hk0 hk hok => ?_⟩
  · have hnone : ¬0 < highPart va a.size := by
      show ¬0 < if k < a.size then k else 0
      split <;> omega
    rw [checkHigh, if_neg hnone, haddr]
    dsimp only
    rw [hmatch]
    exact ⟨_, rfl, resultNone_retire ..⟩
  · have hpart : highPart va a.size = k := if_pos hk
    rw [checkHigh, hpart, if_pos hk0]
    have hio : isIo pa = false := isIo_false_of_simd (a := { a with
      size := k, data := some (im / 2 ^ (8 * (a.size - k))), back := k }) hs hok.topartOk
    obtain ⟨t, ht, hst⟩ := storeV_result (a := { a with size := k, back := k }) hwf hok hR hW hio
    refine ⟨t, ?_, hst⟩
    rw [← ht, storeV, doStore]
    dsimp only
    rw [dataPhase_of_accessOk hok]
    rfl

/-- Settles O52: the whole forms by their elements, the UL and UH forms by the part they store. -/
theorem vectorStores : Obligations.VectorStores := by
  refine ⟨fun s fa rb d pa hready hwf => ⟨?_, fun hok => ?_⟩, fun s fa rb d pa hready hwf => ⟨?_, ?_⟩⟩
  · simp only [List.forall_mem_cons]
    refine ⟨fun hok => ?_, fun hok => ?_, List.forall_mem_nil _⟩
    · show ∃ t, execVstd fa rb d s = .next t ∧ _
      obtain ⟨t, ht, hst⟩ := vecStore_result hready hwf rfl rfl rfl rfl hok
      exact ⟨t, ht, hst.2, fun i hi => lane_of_resultStore hst hi⟩
    · show ∃ t, execVstdNc fa rb d s = .next t ∧ _
      obtain ⟨t, ht, hst⟩ := vecStore_result (a := { vecStoreAcc fa 32 32 8 with nc := true }) hready hwf rfl rfl rfl rfl hok
      exact ⟨t, ht, hst.2, fun i hi => lane_of_resultStore hst hi⟩
  · show ∃ t, execVsts fa rb d s = .next t ∧ _
    obtain ⟨t, ht, hst⟩ := vecStore_result hready hwf rfl rfl rfl rfl hok
    exact ⟨t, ht, hst.2, fun i hi => element_of_resultStore hst hi⟩
  · simp only [List.forall_mem_cons]
    exact ⟨show _ → ∃ t, execVstwUl fa rb d s = .next t ∧ _ from vecStoreLow_result hready hwf rfl rfl rfl rfl,
      show _ → ∃ t, execVstdUl fa rb d s = .next t ∧ _ from vecStoreLow_result hready hwf rfl rfl rfl rfl,
      show _ → ∃ t, execVstsUl fa rb d s = .next t ∧ _ from vecStoreLow_result hready hwf rfl rfl rfl rfl,
      List.forall_mem_nil _⟩
  · simp only [List.forall_mem_cons]
    exact ⟨vecStoreHigh_result (a := vecStoreAcc fa 32 4 0) hready hwf rfl rfl rfl,
      vecStoreHigh_result (a := vecStoreAcc fa 32 8 0) hready hwf rfl rfl rfl,
      vecStoreHigh_result (a := vecStoreAcc fa 16 4 0) hready hwf rfl rfl rfl, List.forall_mem_nil _⟩

end Sys2Proof.Machine

/-! ## The exceptions of a data access: settles O36, O37, O38 -/

namespace Sys2Proof.Machine

/-! ### What a data exception records -/

/-- A data exception with everything it records (R545): `flags` is DS_STAT beside OPCODE, WR and the errata of R680. -/
def DataFault (s t : State) (off : BitVec 16) (ra : BitVec 5) (wr : Option Bool) (dva flags : W64) : Prop :=
  faultsTo s t off ∧ t.csr.dva = dva ∧ excSumIs t ra 0 ∧ keepsFetchRecords s t ∧ recordsAccess s t wr ∧ dsFlagsAre t flags

/-- The places of OPCODE and WR in DS_STAT (R149). -/
theorem dsAccessMask_getLsbD : ∀ n, n < 64 → (0x3F1 : W64).getLsbD n = decide (n = 0 ∨ (4 ≤ n ∧ n < 10)) := by decide

/-- DS_STAT after an exception: the opcode, the write flag, and every other flag old or new (R149, R150). -/
theorem dsStatOf_fields (old flags : W64) (op : BitVec 6) (wr : Bool) :
    (dsStatOf old flags op wr).extractLsb' 4 6 = op ∧ (dsStatOf old flags op wr).getLsbD 0 = wr ∧
      dsStatOf old flags op wr &&& ~~~(0x3F1 : W64) = (old ||| flags) &&& ~~~(0x3F1 : W64) := by
  have hbit : ∀ n, (dsStatOf old flags op wr).getLsbD n = if n = 0 then wr else
      if 4 ≤ n ∧ n < 10 then op.getLsbD (n - 4) else (old ||| flags).getLsbD n := by
    intro n
    rw [dsStatOf, getLsbD_putField _ _ _ (by decide), getLsbD_putField _ _ _ (by decide)]
    by_cases h0 : n = 0
    · subst h0
      simp
    · rw [if_neg (by omega), if_neg h0]
  refine ⟨?_, ?_, ?_⟩
  · apply BitVec.eq_of_getLsbD_eq
    intro n hn
    rw [BitVec.getLsbD_extractLsb', hbit, if_neg (by omega), if_pos (by omega), Nat.add_sub_cancel_left]
    simp [hn]
  · rw [hbit, if_pos rfl]
  · apply BitVec.eq_of_getLsbD_eq
    intro n hn
    rw [BitVec.getLsbD_and, BitVec.getLsbD_and, BitVec.getLsbD_not, dsAccessMask_getLsbD n hn, hbit]
    by_cases h0 : n = 0
    · simp [h0]
    · by_cases h4 : 4 ≤ n ∧ n < 10
      · simp [h4]
      · simp [h0, h4]

/-- What a data exception does where no clear of DS_STAT is in flight (R545, R750). -/
theorem raiseData_spec {s : State} (hset : settledCsr s 0x48) (off : BitVec 16) (ra : BitVec 5) (wr : Bool)
    (base flags dva : W64) : let t := s.raiseData off ra wr base flags dva
    faultsTo s t off ∧ t.csr.dva = dva ∧ excSumIs t ra 0 ∧ keepsFetchRecords s t ∧
      (t.csr.dsStat.extractLsb' 4 6 = s.opcode ∧ t.csr.dsStat.getLsbD 0 = wr) ∧
      t.csr.dsStat &&& ~~~(0x3F1 : W64) = (base ||| flags) &&& ~~~(0x3F1 : W64) := by
  have hds : (s.raiseData off ra wr base flags dva).csr.dsStat = dsStatOf base flags s.opcode wr := by
    show (if s.flagStays 0x48 then dsStatOf base flags s.opcode wr else s.csr.dsStat) = _
    rw [State.flagStays_of_settled hset, if_pos rfl]
  obtain ⟨hop, hwr, hrest⟩ := dsStatOf_fields base flags s.opcode wr
  rw [← hds] at hop hwr hrest
  exact ⟨⟨rfl, rfl⟩, rfl, excSumOf_zero _, ⟨rfl, rfl⟩, ⟨hop, hwr⟩, hrest⟩

/-- Without further flags the old ones stand. -/
theorem or_noFlags (x : W64) : x ||| (0 : W64) = x := BitVec.or_zero

/-- The errata set no flag but DA_MATCH and DV_MATCH (R680). -/
theorem errataFlags_mask (s : State) (a : Acc) (va : W64) (pa : Option PAddr) (first : Bool) :
    errataFlags s a va pa first &&& ~~~(0x82000 : W64) = 0 := by
  have h : ∀ b c : Bool, orBit (orBit 0 19 b) 13 c &&& ~~~(0x82000 : W64) = 0 := by decide
  exact h _ _

/-- Flags beside the errata stand under the wider mask. -/
theorem dsFlagsAre_of {t : State} {base flags new : W64}
    (h : t.csr.dsStat &&& ~~~(0x3F1 : W64) = (base ||| flags) &&& ~~~(0x3F1 : W64))
    (hflags : flags &&& ~~~(0x82000 : W64) = new) : dsFlagsAre t (base ||| new) := by
  have hmask : ~~~(0x823F1 : W64) = ~~~(0x3F1 : W64) &&& ~~~(0x82000 : W64) := by decide
  have hself : ~~~(0x82000 : W64) &&& ~~~(0x82000 : W64) = ~~~(0x82000 : W64) := by decide
  unfold dsFlagsAre
  subst hflags
  rw [hmask, ← BitVec.and_assoc, h, BitVec.and_assoc]
  apply BitVec.eq_of_getLsbD_eq
  intro n hn
  simp only [BitVec.getLsbD_and, BitVec.getLsbD_or]
  cases base.getLsbD n <;> cases flags.getLsbD n <;> cases (~~~(0x3F1 : W64)).getLsbD n <;>
    cases (~~~(0x82000 : W64)).getLsbD n <;> rfl

/-! ### An instruction that first checks an access -/

/-- The instruction `i` makes the access `a` at `va`: what stops the access at its address checks ends the instruction. -/
structure ChecksAs (s : State) (i : Instr) (va : W64) (ra : BitVec 5) (wr : Option Bool) (a : Acc) : Prop where
  stops : ∀ t, addressPhase s a va = .error t → exec i s = .next t
  ra_eq : a.ra = ra
  reads : a.isR = decide (wr ≠ some true)
  writes : a.isW = decide (wr ≠ some false)

/-- The write flag that the access records (R545, U24). -/
theorem ChecksAs.wr_eq {s : State} {i : Instr} {va : W64} {ra : BitVec 5} {wr : Option Bool} {a : Acc}
    (h : ChecksAs s i va ra wr a) (b : Bool) (hb : wr = some b) : a.wr s = b := by
  rw [Acc.wr, h.reads, h.writes, hb]
  cases b <;> rfl

/-- A stopped access records the instruction. -/
theorem ChecksAs.fault {s : State} {i : Instr} {va : W64} {ra : BitVec 5} {wr : Option Bool} {a : Acc}
    (h : ChecksAs s i va ra wr a) (hset : settledCsr s 0x48) {off : BitVec 16} {base flags new : W64}
    (hflags : flags &&& ~~~(0x82000 : W64) = new)
    (herr : addressPhase s a va = .error (s.raiseData off a.ra (a.wr s) base flags va)) :
    ∃ t, exec i s = .next t ∧ DataFault s t off ra wr va (base ||| new) := by
  obtain ⟨hf, hdva, hsum, hkeep, ⟨hop, hwr⟩, hrest⟩ := raiseData_spec hset off a.ra (a.wr s) base flags va
  rw [h.ra_eq] at hsum
  exact ⟨_, h.stops _ herr, hf, hdva, h.ra_eq ▸ hsum, hkeep, ⟨hop, fun b hb => hwr.trans (h.wr_eq b hb)⟩,
    dsFlagsAre_of hrest hflags⟩

/-- An address that is not sign-extended (R546). -/
theorem ChecksAs.badDva {s : State} {i : Instr} {va : W64} {ra : BitVec 5} {wr : Option Bool} {a : Acc}
    (h : ChecksAs s i va ra wr a) (hset : settledCsr s 0x48) (hform : a.form ≠ .phys) (hc : canonical va = false) :
    ∃ t, exec i s = .next t ∧ DataFault s t 0xC80 ra wr va (s.csr.dsStat ||| 0x800) := by
  refine h.fault hset (flags := setBit (errataFlags s a va none true) 11) ?_ ?_
  · rw [setBit, BitVec.and_or_distrib_right, errataFlags_mask]
    decide
  · rw [addressPhase, if_pos ⟨hform, by rw [hc]; rfl⟩]
    rfl

/-- The checks after the sign extension. -/
theorem addressPhase_of_canonical {s : State} {a : Acc} {va : W64} (hc : canonical va = true) :
    addressPhase s a va = if va.toNat % a.align ≠ 0 then .error (s.unalign a va)
      else match translateD s a.form a.isR a.isW va with
        | .miss => .error (s.dtbMiss a va)
        | .denied flags pa => .error (s.dfault a (flags ||| errataFlags s a va (some pa) false) va)
        | .page pa => if a.typeIllegal pa then .error (s.dfault a (setBit (errataFlags s a va (some pa) false) 12) va)
            else .ok pa := by
  rw [addressPhase, hc, if_neg fun h => absurd h.2 (by decide)] <;> rfl

/-- A misaligned scalar access (R544). -/
theorem ChecksAs.unalign_scalar {s : State} {i : Instr} {va : W64} {ra : BitVec 5} {wr : Option Bool} {a : Acc}
    (h : ChecksAs s i va ra wr a) (hset : settledCsr s 0x48) (hsimd : a.simd = false) (hc : canonical va = true)
    (hal : va.toNat % a.align ≠ 0) : ∃ t, exec i s = .next t ∧ DataFault s t 0xB00 ra wr va 0 := by
  have herr : addressPhase s a va = .error (s.raiseData 0xB00 a.ra (a.wr s) 0 (errataFlags s a va none true) va) := by
    rw [addressPhase_of_canonical hc, if_pos hal, State.unalign, hsimd]
    simp [orBit]
  exact h.fault hset (errataFlags_mask ..) herr

/-- A misaligned SIMD access (R544). -/
theorem ChecksAs.unalign_simd {s : State} {i : Instr} {va : W64} {ra : BitVec 5} {wr : Option Bool} {a : Acc}
    (h : ChecksAs s i va ra wr a) (hset : settledCsr s 0x48) (hsimd : a.simd = true) (hc : canonical va = true)
    (hal : va.toNat % a.align ≠ 0) : ∃ t, exec i s = .next t ∧ DataFault s t 0xB00 ra wr va
      (if 0 < a.elem ∧ va.toNat % a.elem = 0 then s.csr.dsStat ||| 0x8000 else s.csr.dsStat) := by
  have herr : addressPhase s a va = .error (s.raiseData 0xB00 a.ra (a.wr s) s.csr.dsStat
      (orBit 0 15 (decide (0 < a.elem) && decide (va.toNat % a.elem = 0)) ||| errataFlags s a va none true) va) := by
    rw [addressPhase_of_canonical hc, if_pos hal, State.unalign, hsimd]
    rfl
  by_cases hmv : 0 < a.elem ∧ va.toNat % a.elem = 0
  · rw [if_pos hmv]
    refine h.fault hset ?_ herr
    rw [decide_eq_true hmv.1, decide_eq_true hmv.2, BitVec.and_or_distrib_right, errataFlags_mask]
    decide
  · have hno : (decide (0 < a.elem) && decide (va.toNat % a.elem = 0)) = false := by
      rw [Bool.and_eq_false_iff, decide_eq_false_iff_not, decide_eq_false_iff_not]
      exact not_and_or.1 hmv
    have hfault := h.fault hset (new := 0) (by rw [hno, BitVec.and_or_distrib_right, errataFlags_mask]; decide) herr
    rwa [if_neg hmv, ← or_noFlags s.csr.dsStat]

/-- An access that passes the checks of its address, but for its translation. -/
theorem addressPhase_of_aligned {s : State} {a : Acc} {va : W64} (hc : canonical va = true)
    (hal : va.toNat % a.align = 0) :
    addressPhase s a va = match translateD s a.form a.isR a.isW va with
      | .miss => .error (s.dtbMiss a va)
      | .denied flags pa => .error (s.dfault a (flags ||| errataFlags s a va (some pa) false) va)
      | .page pa => if a.typeIllegal pa then .error (s.dfault a (setBit (errataFlags s a va (some pa) false) 12) va)
          else .ok pa := by
  rw [addressPhase_of_canonical hc, if_neg (not_not.2 hal)]

/-- The single miss (R531, R532). -/
theorem ChecksAs.miss {s : State} {i : Instr} {va : W64} {ra : BitVec 5} {wr : Option Bool} {a : Acc}
    (h : ChecksAs s i va ra wr a) (hset : settledCsr s 0x48) (hform : a.form ≠ .vpte) (hc : canonical va = true)
    (hal : va.toNat % a.align = 0) (hmiss : translateD s a.form a.isR a.isW va = .miss) :
    ∃ t, exec i s = .next t ∧
      DataFault s t (if va.getLsbD 52 then 0x900 else 0x880) ra wr va s.csr.dsStat := by
  have herr : addressPhase s a va = .error (s.raiseData (if va.getLsbD 52 then 0x900 else 0x880) a.ra (a.wr s)
      s.csr.dsStat (errataFlags s a va none false) va) := by
    rw [addressPhase_of_aligned hc hal, hmiss, State.dtbMiss, if_neg hform]
  have hfault := h.fault hset (errataFlags_mask ..) herr
  rwa [or_noFlags] at hfault

/-- The double miss (R530). -/
theorem ChecksAs.doubleMiss {s : State} {i : Instr} {va : W64} {ra : BitVec 5} {wr : Option Bool} {a : Acc}
    (h : ChecksAs s i va ra wr a) (hform : a.form = .vpte) (hc : canonical va = true)
    (hal : va.toNat % a.align = 0) (hmiss : translateD s a.form a.isR a.isW va = .miss) :
    ∃ t, exec i s = .next t ∧ faultsTo s t 0x800 ∧ excSumIs t ra 0 ∧ t.csr.dva = s.csr.dva ∧
      t.csr.dsStat = s.csr.dsStat := by
  have herr : addressPhase s a va = .error (s.raise 0x800 a.ra 0) := by
    rw [addressPhase_of_aligned hc hal, hmiss, State.dtbMiss, if_pos hform]
  exact ⟨_, h.stops _ herr, ⟨rfl, rfl⟩, h.ra_eq ▸ excSumOf_zero a.ra, rfl, rfl⟩

/-- An access whose page forbids it (R545). -/
theorem ChecksAs.denied {s : State} {i : Instr} {va : W64} {ra : BitVec 5} {wr : Option Bool} {a : Acc}
    (h : ChecksAs s i va ra wr a) (hset : settledCsr s 0x48) (hc : canonical va = true) (hal : va.toNat % a.align = 0)
    {flags : W64} {pa : PAddr} (hden : translateD s a.form a.isR a.isW va = .denied flags pa)
    (hflags : flags &&& ~~~(0x82000 : W64) = flags) :
    ∃ t, exec i s = .next t ∧ DataFault s t 0xC80 ra wr va (s.csr.dsStat ||| flags) := by
  refine h.fault hset (flags := flags ||| errataFlags s a va (some pa) false) ?_ ?_
  · rw [BitVec.and_or_distrib_right, errataFlags_mask, hflags, or_noFlags]
  · rw [addressPhase_of_aligned hc hal, hden]
    rfl

/-- An access whose instruction may not go to its page (R547). -/
theorem ChecksAs.typeIllegal {s : State} {i : Instr} {va : W64} {ra : BitVec 5} {wr : Option Bool} {a : Acc}
    (h : ChecksAs s i va ra wr a) (hset : settledCsr s 0x48) (hc : canonical va = true) (hal : va.toNat % a.align = 0)
    {pa : PAddr} (hpage : translateD s a.form a.isR a.isW va = .page pa) (htype : a.typeIllegal pa = true) :
    ∃ t, exec i s = .next t ∧ DataFault s t 0xC80 ra wr va (s.csr.dsStat ||| 0x1000) := by
  refine h.fault hset (flags := setBit (errataFlags s a va (some pa) false) 12) ?_ ?_
  · rw [setBit, BitVec.and_or_distrib_right, errataFlags_mask]
    decide
  · rw [addressPhase_of_aligned hc hal, hpage]
    dsimp only
    rw [if_pos htype]
    rfl

end Sys2Proof.Machine

/-! ## The access each memory instruction makes: settles O36 -/

namespace Sys2Proof.Machine

variable {s : State} {i : Instr} {ra rb : BitVec 5} {d : BitVec 16} {e : BitVec 12} {n : Nat}
  {body : State → Host.Outcome State Fault Refusal}

/-! ### The scalar instructions -/

/-- A load that an address check stops. -/
theorem loadF_of_addressPhase_error {a : Acc} {va : W64} {t : State} {cvt : Nat → W64} (h31 : a.ra ≠ 31#5)
    (h : addressPhase s a va = .error t) : loadF s a va cvt = .next t := by
  rw [loadF, if_neg h31, doLoad, dataPhase_of_addressPhase_error h, settle]

/-- A load to another register than R31. -/
theorem scalarLoad_checks (hready : ready s .none) (h31 : ra ≠ 31#5) (hi : exec i s = scalarLoad s ra rb d n) :
    ChecksAs s i (s.ea16 rb d) ra (some false) (loadAcc ra n) where
  stops t h := by rw [hi, scalarLoad, plainStage_ready _ hready, loadXOr31_of_addressPhase_error h31 h]
  ra_eq := rfl
  reads := rfl
  writes := rfl

/-- LDL_U, as the parameter says (R819, log 17). -/
theorem ldlU_checks (hready : ready s .none) (h31 : ra ≠ 31#5) :
    ChecksAs s (.ldlU ra rb d) (if s.par.ldlUChecksAlignment then s.ea16 rb d else s.ea16 rb d &&& ~~~7) ra (some false)
      (loadAcc ra 8) where
  stops t h := by
    show execLdlU ra rb d s = _
    rw [execLdlU]
    split at h
    next hpar => rw [if_pos hpar, scalarLoad, plainStage_ready _ hready, loadXOr31_of_addressPhase_error h31 h]
    next hpar => rw [if_neg hpar, plainStage_ready _ hready, loadXOr31_of_addressPhase_error h31 h]
  ra_eq := rfl
  reads := rfl
  writes := rfl

/-- A non-cacheable load to another register than R31. -/
theorem ncLoad_checks (hready : ready s .none) (h31 : ra ≠ 31#5) (hi : exec i s = ncLoad s ra rb e n) :
    ChecksAs s i (s.ea12 rb e) ra (some false) { loadAcc ra n with nc := true } where
  stops t h := by
    rw [hi, ncLoad, plainStage_ready _ hready,
      loadXOr31_of_addressPhase_error (a := { loadAcc ra n with nc := true }) h31 h]
  ra_eq := rfl
  reads := rfl
  writes := rfl

/-- A store. -/
theorem scalarStore_checks (hready : ready s .none) (hi : exec i s = scalarStore s ra rb d n) :
    ChecksAs s i (s.ea16 rb d) ra (some true) { storeAcc ra n with data := some (s.getX ra).toNat } where
  stops t h := by rw [hi, scalarStore, plainStage_ready _ hready, storeV_of_addressPhase_error h]
  ra_eq := rfl
  reads := rfl
  writes := rfl

/-- A non-cacheable store. -/
theorem ncStore_checks (hready : ready s .none) (hi : exec i s = ncStore s ra rb e n) :
    ChecksAs s i (s.ea12 rb e) ra (some true)
      { storeAcc ra n with nc := true, data := some (s.getX ra).toNat } where
  stops t h := by
    rw [hi, ncStore, plainStage_ready _ hready, storeV_of_addressPhase_error (a := { storeAcc ra n with nc := true }) h]
  ra_eq := rfl
  reads := rfl
  writes := rfl

/-- A lock load. -/
theorem lockLoad_checks (hready : ready s .none) (hi : exec i s = lockLoad s ra rb e n) :
    ChecksAs s i (s.ea12 rb e) ra (some false) { loadAcc ra n with lock := true } where
  stops t h := by
    rw [hi, lockLoad, plainStage_ready _ hready]
    dsimp only
    rw [dataPhase_of_addressPhase_error h]
  ra_eq := rfl
  reads := rfl
  writes := rfl

/-- A lock store in its slot. -/
theorem lockStore_checks (hready : ready s .none) (hpair : lstPaired s = true)
    (hi : exec i s = lockStore s ra rb e n) :
    ChecksAs s i (s.ea12 rb e) ra (some true) { storeAcc ra n with lock := true, data := some (s.getX ra).toNat } where
  stops t h := by
    rw [hi, lockStore, hpair, decodeStage_ready _ _ hready]
    dsimp only
    rw [h]
  ra_eq := rfl
  reads := rfl
  writes := rfl

/-- An unprivileged atomic. -/
theorem atomic_checks {o : AtomicOp} (hready : ready s .none) (hi : exec i s = atomic s ra rb e n o) :
    ChecksAs s i (s.ea12 rb e) ra none (atomicAcc ra n) where
  stops t h := by
    rw [hi, atomic, plainStage_ready _ hready, atomicX, doAtomic, dataPhase_of_addressPhase_error h, settle]
  ra_eq := rfl
  reads := rfl
  writes := rfl

/-- A floating load to another register than F31. -/
theorem loadF_checks {a : Acc} {va : W64} {cvt : Nat → W64} {f : FpClass} (hready : ready s f) (h31 : a.ra ≠ 31#5)
    (hR : a.isR = true) (hW : a.isW = false)
    (hi : exec i s = decodeStage s true false f body) (hb : body s = loadF s a va cvt) :
    ChecksAs s i va a.ra (some false) a where
  stops t h := by rw [hi, decodeStage_ready _ _ hready, hb, loadF_of_addressPhase_error h31 h]
  ra_eq := rfl
  reads := hR
  writes := hW

/-- A floating store. -/
theorem storeF_checks {a : Acc} {va : W64} {v : Nat} (hready : ready s .scalar) (hR : a.isR = false) (hW : a.isW = true)
    (hi : exec i s = decodeStage s true false .scalar body) (hb : body s = storeV s a va v) :
    ChecksAs s i va a.ra (some true) { a with data := some v } where
  stops t h := by rw [hi, decodeStage_ready _ _ hready, hb, storeV_of_addressPhase_error h]
  ra_eq := rfl
  reads := hR
  writes := hW

/-- The instruction `p.1` makes a scalar access with the address, the alignment and the write flag named beside it. -/
def ChecksScalar (s : State) (ra : BitVec 5) (p : Instr × W64 × Nat × Option Bool) : Prop :=
  ∃ a, ChecksAs s p.1 p.2.1 ra p.2.2.2 a ∧ a.form = .normal ∧ a.simd = false ∧ a.align = p.2.2.1

/-- Every scalar memory instruction does. -/
theorem scalarAccesses_check (hready : ready s .none) : ∀ p ∈ scalarAccesses s ra rb d e, ChecksScalar s ra p := by
  have hscalar : fpEnabled s.csr .scalar = true → ready s .scalar := fun hfp => ⟨hready.1, hready.2.1, hfp⟩
  unfold scalarAccesses
  simp only [List.forall_mem_append, List.forall_mem_cons]
  refine ⟨⟨⟨⟨⟨?_, ?_, ?_, ?_, ?_, ?_, ?_, ?_, ?_, ?_, ?_, ?_, ?_, ?_, List.forall_mem_nil _⟩, ?_⟩, ?_⟩, ?_⟩, ?_⟩
  · exact ⟨_, scalarStore_checks hready rfl, rfl, rfl, rfl⟩
  · exact ⟨_, scalarStore_checks hready rfl, rfl, rfl, rfl⟩
  · exact ⟨_, scalarStore_checks hready rfl, rfl, rfl, rfl⟩
  · exact ⟨_, scalarStore_checks hready rfl, rfl, rfl, rfl⟩
  · exact ⟨_, ncStore_checks hready rfl, rfl, rfl, rfl⟩
  · exact ⟨_, ncStore_checks hready rfl, rfl, rfl, rfl⟩
  · exact ⟨_, lockLoad_checks hready rfl, rfl, rfl, rfl⟩
  · exact ⟨_, lockLoad_checks hready rfl, rfl, rfl, rfl⟩
  · exact ⟨_, atomic_checks hready (o := .inc) rfl, rfl, rfl, rfl⟩
  · exact ⟨_, atomic_checks hready (o := .inc) rfl, rfl, rfl, rfl⟩
  · exact ⟨_, atomic_checks hready (o := .dec) rfl, rfl, rfl, rfl⟩
  · exact ⟨_, atomic_checks hready (o := .dec) rfl, rfl, rfl, rfl⟩
  · exact ⟨_, atomic_checks hready (o := .set) rfl, rfl, rfl, rfl⟩
  · exact ⟨_, atomic_checks hready (o := .set) rfl, rfl, rfl, rfl⟩
  · split
    · exact List.forall_mem_nil _
    next h31 =>
      simp only [List.forall_mem_cons]
      exact ⟨⟨_, scalarLoad_checks hready h31 rfl, rfl, rfl, rfl⟩, ⟨_, scalarLoad_checks hready h31 rfl, rfl, rfl, rfl⟩,
        ⟨_, scalarLoad_checks hready h31 rfl, rfl, rfl, rfl⟩, ⟨_, scalarLoad_checks hready h31 rfl, rfl, rfl, rfl⟩,
        ⟨_, ldlU_checks hready h31, rfl, rfl, rfl⟩, ⟨_, ncLoad_checks hready h31 rfl, rfl, rfl, rfl⟩,
        ⟨_, ncLoad_checks hready h31 rfl, rfl, rfl, rfl⟩, List.forall_mem_nil _⟩
  · split
    next hpair =>
      simp only [List.forall_mem_cons]
      exact ⟨⟨_, lockStore_checks hready hpair rfl, rfl, rfl, rfl⟩,
        ⟨_, lockStore_checks hready hpair rfl, rfl, rfl, rfl⟩, List.forall_mem_nil _⟩
    · exact List.forall_mem_nil _
  · split
    next hfp =>
      simp only [List.forall_mem_cons]
      exact ⟨⟨_, storeF_checks (a := storeAcc ra 4) (hscalar hfp) rfl rfl (by rfl) (by rfl), rfl, rfl, rfl⟩,
        ⟨_, storeF_checks (a := storeAcc ra 8) (hscalar hfp) rfl rfl (by rfl) (by rfl), rfl, rfl, rfl⟩,
        ⟨_, storeF_checks (a := { storeAcc ra 8 with nc := true }) (hscalar hfp) rfl rfl (by rfl) (by rfl), rfl, rfl, rfl⟩,
        List.forall_mem_nil _⟩
    · exact List.forall_mem_nil _
  · split
    next hfp =>
      have hfld : ready s (fldClass ra) := fldClass_of_ne hfp.2 ▸ hscalar hfp.1
      simp only [List.forall_mem_cons]
      exact ⟨⟨_, loadF_checks (a := loadAcc ra 4) hfld hfp.2 rfl rfl (by rfl) (by rfl), rfl, rfl, rfl⟩,
        ⟨_, loadF_checks (a := loadAcc ra 8) hfld hfp.2 rfl rfl (by rfl) (by rfl), rfl, rfl, rfl⟩,
        ⟨_, loadF_checks (a := { loadAcc ra 8 with nc := true }) (hscalar hfp.1) hfp.2 rfl rfl (by rfl) (by rfl),
          rfl, rfl, rfl⟩,
        List.forall_mem_nil _⟩
    · exact List.forall_mem_nil _

/-! ### The vector instructions -/

/-- The instruction makes a vector access: the alignment it is checked for, its element, its write flag. -/
def ChecksVector (s : State) (ra rb : BitVec 5) (d : BitVec 16) (p : Instr × Nat × Nat × Bool) : Prop :=
  ∃ a, ChecksAs s p.1 (s.ea16 rb d) ra (some p.2.2.2) a ∧ a.form = .normal ∧ a.simd = true ∧ a.align = p.2.1 ∧
    a.elem = p.2.2.1

variable {a : Acc} {int : Bool} {cvt : Nat → V256} {image : Nat}

/-- A vector load. -/
theorem vecLoad_checks (hready : ready s .simd) (h31 : a.ra ≠ 31#5) (hR : a.isR = true) (hW : a.isW = false)
    (hf : a.form = .normal) (hs : a.simd = true) (hi : exec i s = vecLoad s a (s.ea16 rb d) int cvt) :
    ChecksVector s a.ra rb d (i, a.align, a.elem, false) := by
  refine ⟨a, ⟨fun t h => ?_, rfl, hR, hW⟩, hf, hs, rfl, rfl⟩
  rw [hi, vecLoad, simdStage, decodeStage_ready _ _ hready, if_neg h31, doLoad, dataPhase_of_addressPhase_error h, settle]

/-- An unaligned vector load: its first part is checked first. -/
theorem vecLoadU_checks (hready : ready s .simd) (h31 : a.ra ≠ 31#5) (hR : a.isR = true) (hW : a.isW = false)
    (hf : a.form = .normal) (hs : a.simd = true) (hi : exec i s = vecLoadU s a (s.ea16 rb d) int cvt) :
    ChecksVector s a.ra rb d (i, a.align, a.elem, false) := by
  refine ⟨{ a with size := lowPart (s.ea16 rb d) a.size }, ⟨fun t h => ?_, rfl, hR, hW⟩, hf, hs, rfl, rfl⟩
  have hread : splitRead s a (s.ea16 rb d) 32 = .error t := by
    rw [splitRead]
    dsimp only
    rw [dataPhase_of_addressPhase_error h]
  rw [hi, vecLoadU, simdStage, decodeStage_ready _ _ hready, if_neg h31, splitLoad, hread]
  rfl

/-- A vector store. -/
theorem vecStore_checks (hready : ready s .simd) (hR : a.isR = false) (hW : a.isW = true) (hf : a.form = .normal)
    (hs : a.simd = true) (hi : exec i s = vecStore s a (s.ea16 rb d) image) :
    ChecksVector s a.ra rb d (i, a.align, a.elem, true) := by
  refine ⟨{ a with data := some image }, ⟨fun t h => ?_, rfl, hR, hW⟩, hf, hs, rfl, rfl⟩
  rw [hi, vecStore, simdStage, decodeStage_ready _ _ hready, storeV_of_addressPhase_error h]

/-- A store of the UL form. -/
theorem vecStoreLow_checks (hready : ready s .simd) (hR : a.isR = false) (hW : a.isW = true) (hf : a.form = .normal)
    (hs : a.simd = true) (hi : exec i s = vecStoreLow s a (s.ea16 rb d) image) :
    ChecksVector s a.ra rb d (i, a.align, a.elem, true) := by
  refine ⟨{ a with size := lowPart (s.ea16 rb d) a.size, data := some image }, ⟨fun t h => ?_, rfl, hR, hW⟩,
    hf, hs, rfl, rfl⟩
  rw [hi, vecStoreLow, simdStage, decodeStage_ready _ _ hready]
  exact storeV_of_addressPhase_error h

/-- A store of the UH form, whether anything lies above the boundary or not. -/
theorem vecStoreHigh_checks (hready : ready s .simd) (hR : a.isR = false) (hW : a.isW = true) (hf : a.form = .normal)
    (hs : a.simd = true) (hi : exec i s = vecStoreHigh s a (s.ea16 rb d) image) :
    ChecksVector s a.ra rb d (i, a.align, a.elem, true) := by
  have hexec : ∀ t, checkHigh s a (s.ea16 rb d) image = .error t → exec i s = .next t := by
    intro t h
    rw [hi, vecStoreHigh, simdStage, decodeStage_ready _ _ hready, highStore, h, settle]
  by_cases hk : 0 < highPart (s.ea16 rb d) a.size
  · refine ⟨{ a with
      size := highPart (s.ea16 rb d) a.size, back := highPart (s.ea16 rb d) a.size
      data := some (image / 2 ^ (8 * (a.size - highPart (s.ea16 rb d) a.size))) },
      ⟨fun t h => hexec t ?_, rfl, hR, hW⟩, hf, hs, rfl, rfl⟩
    rw [checkHigh]
    dsimp only
    rw [if_pos hk, dataPhase_of_addressPhase_error h]
  · refine ⟨a, ⟨fun t h => hexec t ?_, rfl, hR, hW⟩, hf, hs, rfl, rfl⟩
    rw [checkHigh]
    dsimp only
    rw [if_neg hk, h]

/-- Every vector memory instruction makes its access. -/
theorem vectorAccesses_check (hready : ready s .simd) : ∀ p ∈ vectorAccesses ra rb d, ChecksVector s ra rb d p := by
  unfold vectorAccesses
  simp only [List.forall_mem_append, List.forall_mem_cons]
  refine ⟨⟨?_, ?_, ?_, ?_, ?_, ?_, ?_, ?_, ?_, List.forall_mem_nil _⟩, ?_⟩
  · exact vecStore_checks (a := { vecStoreAcc ra 32 32 8 with nc := true }) hready rfl rfl rfl rfl rfl
  · exact vecStore_checks (a := vecStoreAcc ra 32 32 8) hready rfl rfl rfl rfl rfl
  · exact vecStore_checks (a := vecStoreAcc ra 16 16 4) hready rfl rfl rfl rfl rfl
  · exact vecStoreLow_checks (a := vecStoreAcc ra 32 4 0) hready rfl rfl rfl rfl rfl
  · exact vecStoreHigh_checks (a := vecStoreAcc ra 32 4 0) hready rfl rfl rfl rfl rfl
  · exact vecStoreLow_checks (a := vecStoreAcc ra 16 4 0) hready rfl rfl rfl rfl rfl
  · exact vecStoreHigh_checks (a := vecStoreAcc ra 16 4 0) hready rfl rfl rfl rfl rfl
  · exact vecStoreLow_checks (a := vecStoreAcc ra 32 8 0) hready rfl rfl rfl rfl rfl
  · exact vecStoreHigh_checks (a := vecStoreAcc ra 32 8 0) hready rfl rfl rfl rfl rfl
  · split
    · exact List.forall_mem_nil _
    next h31 =>
      simp only [List.forall_mem_cons]
      refine ⟨?_, ?_, ?_, ?_, ?_, ?_, ?_, ?_, ?_, List.forall_mem_nil _⟩
      · exact vecLoad_checks (a := { vecLoadAcc ra 32 32 8 with nc := true }) hready h31 rfl rfl rfl rfl rfl
      · exact vecLoad_checks (a := vecLoadAcc ra 32 32 8) hready h31 rfl rfl rfl rfl rfl
      · exact vecLoad_checks (a := vecLoadAcc ra 16 16 4) hready h31 rfl rfl rfl rfl rfl
      · exact vecLoad_checks (a := vecLoadAcc ra 4 4 0) hready h31 rfl rfl rfl rfl (show execLdwe ra rb d s = _ from rfl)
      · exact vecLoad_checks (a := vecLoadAcc ra 4 4 0) hready h31 rfl rfl rfl rfl (show execLdse ra rb d s = _ from rfl)
      · exact vecLoad_checks (a := vecLoadAcc ra 8 8 0) hready h31 rfl rfl rfl rfl (show execLdde ra rb d s = _ from rfl)
      · exact vecLoadU_checks (a := vecLoadAcc ra 32 4 0) hready h31 rfl rfl rfl rfl rfl
      · exact vecLoadU_checks (a := vecLoadAcc ra 16 4 0) hready h31 rfl rfl rfl rfl rfl
      · exact vecLoadU_checks (a := vecLoadAcc ra 32 8 0) hready h31 rfl rfl rfl rfl rfl

/-- The sign-extended addresses, as O36 writes them. -/
theorem canonical_iff (va : W64) : canonical va = true ↔ va = (va.setWidth 53).signExtend 64 := by
  rw [canonical, decide_eq_true_eq, sext53, BitVec.setWidth_eq_extractLsb' (by decide)]

/-- See `canonical_iff`. -/
theorem canonical_eq_false_iff (va : W64) : canonical va = false ↔ va ≠ (va.setWidth 53).signExtend 64 := by
  rw [← Bool.not_eq_true, canonical_iff]

/-- Settles O36: the sign extension is checked first, then the alignment. -/
theorem addressFaults : Obligations.AddressFaults := by
  refine ⟨fun s ra rb d e hready hset p hp => ?_, fun s fa rb d hready hset p hp => ?_⟩
  · obtain ⟨a, hchecks, hform, hsimd, halign⟩ := scalarAccesses_check hready p hp
    refine ⟨fun hbad => ?_, fun hok hal => ?_⟩
    · exact hchecks.badDva hset (by rw [hform]; decide) ((canonical_eq_false_iff _).2 hbad)
    · exact hchecks.unalign_scalar hset hsimd ((canonical_iff _).2 hok) (by rwa [halign])
  · obtain ⟨a, hchecks, hform, hsimd, halign, helem⟩ := vectorAccesses_check hready p hp
    refine ⟨fun hbad => ?_, fun hok hal => ?_⟩
    · exact hchecks.badDva hset (by rw [hform]; decide) ((canonical_eq_false_iff _).2 hbad)
    · have hfault := hchecks.unalign_simd hset hsimd ((canonical_iff _).2 hok) (by rwa [halign])
      rwa [helem] at hfault

end Sys2Proof.Machine

/-! ## DTB misses and the permission check: settles O37, O38 -/

namespace Sys2Proof.Machine

variable {s : State} {i : Instr} {ra rb : BitVec 5} {d : BitVec 16} {e : BitVec 12} {n : Nat}

/-! ### The privileged forms through the DTB -/

/-- The instruction makes a privileged access of the form `f`, whose alignment is not checked (R227). -/
def ChecksPri (s : State) (ra rb : BitVec 5) (e : BitVec 12) (f : AccForm) (p : Instr × Bool) : Prop :=
  ∃ a, ChecksAs s p.1 (s.ea12 rb e) ra (some p.2) a ∧ a.form = f ∧ a.align = 1

/-- A privileged load, aligned or not. -/
theorem priLoad_checks {f : AccForm} (hready : ready s .none) (hm : s.mode = 0#2)
    (hi : exec i s = priLoad s ra rb e f n) : ChecksPri s ra rb e f (i, false) := by
  by_cases h0 : misBy n (s.ea12 rb e) = 0
  · refine ⟨priLoadAcc ra f n, ⟨fun t h => ?_, rfl, rfl, rfl⟩, rfl, rfl⟩
    rw [hi, priLoad, privStage_ready _ hready hm]
    dsimp only
    rw [if_pos h0, loadX, doLoad, dataPhase_of_addressPhase_error h, settle]
  · refine ⟨{ priLoadAcc ra f n with back := misBy n (s.ea12 rb e) }, ⟨fun t h => ?_, rfl, rfl, rfl⟩, rfl, rfl⟩
    rw [hi, priLoad, privStage_ready _ hready hm]
    dsimp only
    rw [if_neg h0, doLoad, dataPhase_of_addressPhase_error h, settle]

/-- A privileged store, aligned or not. -/
theorem priStore_checks {f : AccForm} (hready : ready s .none) (hm : s.mode = 0#2)
    (hi : exec i s = priStore s ra rb e f n) : ChecksPri s ra rb e f (i, true) := by
  by_cases h0 : misBy n (s.ea12 rb e) = 0
  · refine ⟨{ priStoreAcc ra f n with data := some (s.getX ra).toNat }, ⟨fun t h => ?_, rfl, rfl, rfl⟩, rfl, rfl⟩
    rw [hi, priStore, privStage_ready _ hready hm]
    dsimp only
    rw [if_pos h0, storeV_of_addressPhase_error h]
  · refine ⟨{ priStoreAcc ra f n with back := misBy n (s.ea12 rb e), data := some (misBytes s.freeCtr n) },
      ⟨fun t h => ?_, rfl, rfl, rfl⟩, rfl, rfl⟩
    rw [hi, priStore, privStage_ready _ hready hm]
    dsimp only
    rw [if_neg h0]
    exact storeV_of_addressPhase_error (a := { priStoreAcc ra f n with back := misBy n (s.ea12 rb e) }) h

/-! ### A lookup that finds nothing -/

/-- Which entry an access hits (R281). -/
theorem dtbHits_iff {c : Csrs} {va : W64} {x : DtbEntry} : dtbHits c va x = true ↔
    x.va >>> (5 * x.gh.toNat) = va.extractLsb' 13 40 >>> (5 * x.gh.toNat) ∧ x.vpn = c.dtbPcr.extractLsb' 62 2 ∧
      (x.ks = true ∨ x.upn = c.dtbPcr.extractLsb' 54 8) := by
  unfold dtbHits
  simp only [Bool.and_eq_true, Bool.or_eq_true, decide_eq_true_eq, pageMatch_iff, and_assoc]
  rfl

/-- An access that no entry hits (R310 step 4). -/
theorem translateD_eq_miss {f : AccForm} {r w : Bool} {va : W64} (hf : f ≠ .phys)
    (hvm : s.mode = 1#2 → va.getLsbD 52 = true) (hno : ∀ x ∈ s.dtb, ¬dtbHits s.csr va x = true) :
    translateD s f r w va = .miss := by
  have hmapped : ¬(f = .phys ∨ (s.mode = 1#2 ∧ va.getLsbD 52 = false)) := by
    rintro (h | ⟨hm, hlow⟩)
    · exact hf h
    · exact Bool.false_ne_true (hlow.symm.trans (hvm hm))
  rw [translateD, if_neg hmapped, dtbLookup_none fun x hx => Bool.eq_false_iff.2 (hno x hx)]

/-- HM is not VM. -/
theorem superpage_of_hm {P : Prop} (hm : s.mode = 0#2) : s.mode = 1#2 → P :=
  fun h => absurd (hm.symm.trans h) (by decide)

/-- A miss of the second part of an unaligned access: DVA is the effective address (R801, log 71). -/
theorem secondMiss_dataFault {a : Acc} {high ea : W64} (hset : settledCsr s 0x48) (hform : a.form ≠ .vpte)
    (hwr : a.wr s.unlock = false) : let t := s.unlock.dtbMiss a high
    DataFault s { t with csr := { t.csr with dva := ea } } (if high.getLsbD 52 then 0x900 else 0x880) a.ra (some false) ea
      s.csr.dsStat := by
  obtain ⟨-, -, hsum, hkeep, ⟨hop, hw⟩, hrest⟩ := raiseData_spec (s := s.unlock) hset
    (if high.getLsbD 52 then 0x900 else 0x880) a.ra (a.wr s.unlock) s.csr.dsStat
    (errataFlags s.unlock a high none false) high
  have hmiss : s.unlock.dtbMiss a high = s.unlock.raiseData (if high.getLsbD 52 then 0x900 else 0x880) a.ra
      (a.wr s.unlock) s.csr.dsStat (errataFlags s.unlock a high none false) high := by
    rw [State.dtbMiss, if_neg hform]
    rfl
  have hflags := dsFlagsAre_of hrest (errataFlags_mask ..)
  rw [or_noFlags] at hflags
  dsimp only
  rw [hmiss]
  exact ⟨⟨rfl, rfl⟩, rfl, hsum, hkeep, ⟨hop, fun b hb => hw.trans (hwr.trans (Option.some.inj hb))⟩, hflags⟩

/-- The second part of an unaligned load, where no entry hits it. -/
theorem splitRead_secondMiss {a : Acc} {va : W64} {pa : PAddr} (hR : a.isR = true) (hs : a.simd = true)
    (hf : a.form = .normal) {k : Nat} (hk : k = lowPart va a.size) (hlt : k < a.size)
    (h1 : accessOk s { a with size := k } va pa) (hc : canonical (va + BitVec.ofNat 64 k) = true)
    (hvm : s.mode = 1#2 → (va + BitVec.ofNat 64 k).getLsbD 52 = true)
    (hno : ∀ x ∈ s.dtb, ¬dtbHits s.csr (va + BitVec.ofNat 64 k) x = true) :
    let t := s.unlock.dtbMiss { a with size := a.size - k, align := 1 } (va + BitVec.ofNat 64 k)
    splitRead s a va 32 = .error { t with csr := { t.csr with dva := va } } := by
  have hmiss : translateD s.unlock a.form a.isR a.isW (va + BitVec.ofNat 64 k) = .miss :=
    translateD_eq_miss (s := s.unlock) (by rw [hf]; decide) hvm hno
  have hphase : addressPhase s.unlock { a with size := a.size - k, align := 1 } (va + BitVec.ofNat 64 k) =
      .error (s.unlock.dtbMiss { a with size := a.size - k, align := 1 } (va + BitVec.ofNat 64 k)) := by
    rw [addressPhase_of_aligned hc (Nat.mod_one _)]
    dsimp only
    rw [hmiss]
  rw [splitRead]
  dsimp only
  rw [← hk, dataPhase_of_accessOk h1]
  dsimp only
  rw [pendRead_of_partOk h1.topartOk hR (isIo_false_of_simd (a := { a with size := k }) hs h1.topartOk),
    if_neg (Nat.ne_of_lt hlt)]
  dsimp only
  rw [highPhase, hphase]

/-- An unaligned vector load whose second part misses. -/
theorem vecLoadU_secondMiss {a : Acc} {int : Bool} {cvt : Nat → V256} {pa : PAddr} (hready : ready s .simd)
    (h31 : a.ra ≠ 31#5) (hset : settledCsr s 0x48) (hR : a.isR = true) (hW : a.isW = false) (hs : a.simd = true)
    (hf : a.form = .normal) {va : W64} {k : Nat} (hk : k = 32 - va.toNat % 32)
    (hlt : k < a.size) (h1 : accessOk s { a with size := k } va pa)
    (hc : canonical (va + BitVec.ofNat 64 k) = true)
    (hvm : s.mode = 1#2 → (va + BitVec.ofNat 64 k).getLsbD 52 = true)
    (hno : ∀ x ∈ s.dtb, ¬dtbHits s.csr (va + BitVec.ofNat 64 k) x = true)
    (hi : exec i s = vecLoadU s a va int cvt) :
    ∃ t, exec i s = .next t ∧ DataFault s t (if (va + BitVec.ofNat 64 k).getLsbD 52 then 0x900 else 0x880) a.ra
      (some false) va s.csr.dsStat := by
  have hlow : k = lowPart va a.size := by
    rw [hk] at hlt ⊢
    exact (Nat.min_eq_right hlt.le).symm
  have hread := splitRead_secondMiss hR hs hf hlow hlt h1 hc hvm hno
  have hwr : Acc.wr { a with size := a.size - k, align := 1 } s.unlock = false := by
    simp [Acc.wr, hR, hW]
  refine ⟨_, ?_, secondMiss_dataFault (a := { a with size := a.size - k, align := 1 }) hset (by simp [hf]) hwr⟩
  rw [hi, vecLoadU, simdStage, decodeStage_ready _ _ hready, if_neg h31, splitLoad, hread]
  rfl

/-- Settles O37: every access that no entry hits enters its miss handler. -/
theorem tlbMisses : Obligations.TlbMisses := by
  intro s ra rb d e hready hset misses single
  have hno : ∀ {ea : W64}, misses ea → ∀ x ∈ s.dtb, ¬dtbHits s.csr ea x = true := by
    intro ea h x hx hhit
    exact h x hx (dtbHits_iff.1 hhit)
  refine ⟨fun p hp hc hal hvm hmiss => ?_, fun hsimd hc hvm hmiss p hp hal => ?_,
    fun hm hc hmiss => ⟨?_, ?_⟩, fun hsimd h31 => ?_⟩
  · obtain ⟨a, hchecks, hform, -, halign⟩ := scalarAccesses_check hready p hp
    have hphys : a.form ≠ .phys := by rw [hform]; decide
    exact hchecks.miss hset (by rw [hform]; decide) hc (by rwa [halign]) (translateD_eq_miss hphys hvm (hno hmiss))
  · obtain ⟨a, hchecks, hform, -, halign, -⟩ := vectorAccesses_check hsimd p hp
    have hphys : a.form ≠ .phys := by rw [hform]; decide
    exact hchecks.miss hset (by rw [hform]; decide) hc (by rwa [halign]) (translateD_eq_miss hphys hvm (hno hmiss))
  · have hsingle : ∀ p, ChecksPri s ra rb e .virt p → single p.1 (s.ea12 rb e) (some p.2) := by
      rintro p ⟨a, hchecks, hform, halign⟩
      have hphys : a.form ≠ .phys := by rw [hform]; decide
      exact hchecks.miss hset (by rw [hform]; decide) hc (by rw [halign, Nat.mod_one])
        (translateD_eq_miss hphys (superpage_of_hm hm) (hno hmiss))
    simp only [List.forall_mem_cons]
    exact ⟨hsingle _ (priLoad_checks hready hm rfl), hsingle _ (priLoad_checks hready hm rfl),
      hsingle _ (priStore_checks hready hm rfl), hsingle _ (priStore_checks hready hm rfl), List.forall_mem_nil _⟩
  · have hdouble : ∀ i, ChecksPri s ra rb e .vpte (i, false) → ∃ t, exec i s = .next t ∧ faultsTo s t 0x800 ∧
        excSumIs t ra 0 ∧ t.csr.dva = s.csr.dva ∧ t.csr.dsStat = s.csr.dsStat := by
      rintro i ⟨a, hchecks, hform, halign⟩
      have hphys : a.form ≠ .phys := by rw [hform]; decide
      exact hchecks.doubleMiss hform hc (by rw [halign, Nat.mod_one])
        (translateD_eq_miss hphys (superpage_of_hm hm) (hno hmiss))
    simp only [List.forall_mem_cons]
    exact ⟨hdouble _ (priLoad_checks hready hm rfl), hdouble _ (priLoad_checks hready hm rfl), List.forall_mem_nil _⟩
  · simp only [List.forall_mem_cons]
    exact ⟨fun pa hlt h1 hc hvm hmiss => vecLoadU_secondMiss (a := vecLoadAcc ra 32 4 0) hsimd h31 hset
        rfl rfl rfl rfl rfl hlt h1 hc hvm (hno hmiss) rfl,
      fun pa hlt h1 hc hvm hmiss => vecLoadU_secondMiss (a := vecLoadAcc ra 16 4 0) hsimd h31 hset
        rfl rfl rfl rfl rfl hlt h1 hc hvm (hno hmiss) rfl,
      fun pa hlt h1 hc hvm hmiss => vecLoadU_secondMiss (a := vecLoadAcc ra 32 8 0) hsimd h31 hset
        rfl rfl rfl rfl rfl hlt h1 hc hvm (hno hmiss) rfl,
      List.forall_mem_nil _⟩

/-! ### The permission check -/

/-- The four modes. -/
theorem mode_cases : ∀ m : BitVec 2, m = 0#2 ∨ m = 1#2 ∨ m = 2#2 ∨ m = 3#2 := by decide

/-- Which mode may read the page (R311). -/
theorem DtbEntry.readable_iff (x : DtbEntry) (m : BitVec 2) : x.readable m = true ↔
    (m = 0#2 ∧ x.hre = true) ∨ (m = 1#2 ∧ x.vre = true) ∨ (m = 2#2 ∧ x.kre = true) ∨ (m = 3#2 ∧ x.ure = true) := by
  rcases mode_cases m with rfl | rfl | rfl | rfl <;> simp [DtbEntry.readable]

/-- Which mode may write the page (R311). -/
theorem DtbEntry.writable_iff (x : DtbEntry) (m : BitVec 2) : x.writable m = true ↔
    (m = 0#2 ∧ x.hwe = true) ∨ (m = 1#2 ∧ x.vwe = true) ∨ (m = 2#2 ∧ x.kwe = true) ∨ (m = 3#2 ∧ x.uwe = true) := by
  rcases mode_cases m with rfl | rfl | rfl | rfl <;> simp [DtbEntry.writable]

/-- The mode an access is checked for (R296). -/
theorem State.checkMode_eq (s : State) {f : AccForm} (hf : f ≠ .phys) :
    s.checkMode f = if f = .normal then s.mode else s.csr.dtbPcr.extractLsb' 0 2 := by
  cases f
  case normal => rfl
  case phys => exact absurd rfl hf
  case virt => rfl
  case vpte => rfl

/-- An access whose address one entry hits (R310 step 5). -/
theorem translateD_of_one {f : AccForm} {r w : Bool} {va : W64} {x : DtbEntry} (hf : f ≠ .phys)
    (hvm : s.mode = 1#2 → va.getLsbD 52 = true) (hone : s.dtb.filter (dtbHits s.csr va) = [x]) :
    translateD s f r w va =
      if denyFlags x (if f = .normal then s.mode else s.csr.dtbPcr.extractLsb' 0 2) r w = 0 then
        .page (joinPage x.gh (x.pa ++ 0#13) (va.extractLsb' 0 48))
      else .denied (denyFlags x (if f = .normal then s.mode else s.csr.dtbPcr.extractLsb' 0 2) r w)
        (joinPage x.gh (x.pa ++ 0#13) (va.extractLsb' 0 48)) := by
  have hmapped : ¬(f = .phys ∨ (s.mode = 1#2 ∧ va.getLsbD 52 = false)) := by
    rintro (h | ⟨hm, hlow⟩)
    · exact hf h
    · exact Bool.false_ne_true (hlow.symm.trans (hvm hm))
  rw [translateD, if_neg hmapped, dtbLookup_one _ _ _ hone, ← State.checkMode_eq s hf]

/-- An access goes on exactly where every permission it needs is given (R310 step 5). -/
theorem denyFlags_eq_zero_iff (x : DtbEntry) (m : BitVec 2) (r w : Bool) : denyFlags x m r w = 0 ↔
    (r = true → x.readable m = true ∧ x.faultOnRead = false) ∧
      (w = true → x.writable m = true ∧ x.faultOnWrite = false) := by
  rw [denyFlags_eq_zero]
  cases r <;> cases w <;> simp; tauto

/-- The flags of a denied access (R313, D25). -/
theorem denyFlags_spec (x : DtbEntry) (m : BitVec 2) (r w : Bool) : let flags := denyFlags x m r w
    (flags.getLsbD 1 = true ↔ (r = true ∧ ¬x.readable m = true) ∨ (w = true ∧ ¬x.writable m = true)) ∧
      (flags.getLsbD 2 = true ↔ r = true ∧ x.faultOnRead = true) ∧
      (flags.getLsbD 3 = true ↔ w = true ∧ x.faultOnWrite = true) ∧ flags &&& ~~~14 = 0 := by
  refine ⟨by rw [denyFlags_getLsbD]; simp, by rw [denyFlags_getLsbD]; simp, by rw [denyFlags_getLsbD]; simp, ?_⟩
  have h : ∀ a b c : Bool, orBit (orBit (orBit 0 1 a) 2 b) 3 c &&& ~~~(14 : W64) = 0 := by decide
  exact h _ _ _

/-- The flags of a denied access are none of the errata's. -/
theorem denyFlags_errata (x : DtbEntry) (m : BitVec 2) (r w : Bool) :
    denyFlags x m r w &&& ~~~(0x82000 : W64) = denyFlags x m r w := by
  have h : ∀ a b c : Bool, orBit (orBit (orBit 0 1 a) 2 b) 3 c &&& ~~~(0x82000 : W64) =
      orBit (orBit (orBit 0 1 a) 2 b) 3 c := by decide
  exact h _ _ _

/-- Settles O38: the check of the one entry that hits, and the DFAULT of an access that it stops. -/
theorem permissionCheck : Obligations.PermissionCheck := by
  intro s x re we allowed flagged one pm
  have hallowed : ∀ m r w, denyFlags x m r w = 0 ↔ allowed m r w := by
    intro m r w
    rw [denyFlags_eq_zero_iff, DtbEntry.readable_iff, DtbEntry.writable_iff]
  have hflagged : ∀ m r w, flagged (denyFlags x m r w) m r w := by
    intro m r w
    have hspec := denyFlags_spec x m r w
    rwa [DtbEntry.readable_iff, DtbEntry.writable_iff] at hspec
  refine ⟨fun f r w va hone hf => ?_, fun ra rb d e hready hset => ?_⟩
  · dsimp only
    rw [translateD_of_one hf hone.2 hone.1, ← hallowed]
    generalize (if f = .normal then s.mode else s.csr.dtbPcr.extractLsb' 0 2) = m
    split
    next h0 => exact ⟨⟨fun _ => h0, fun _ => ⟨_, rfl⟩⟩, fun flags pa h => nomatch h⟩
    next h0 =>
      refine ⟨⟨fun ⟨pa, h⟩ => (nomatch h), fun h => absurd h h0⟩, fun flags pa h => ?_⟩
      obtain ⟨rfl, -⟩ := DataTrans.denied.inj h
      exact hflagged _ _ _
  · intro stopped
    have hstop : ∀ {i ea wr m a}, ChecksAs s i ea ra wr a → a.form ≠ .phys → canonical ea = true →
        ea.toNat % a.align = 0 → one ea → m = (if a.form = .normal then s.mode else pm) → stopped i ea wr m := by
      intro i ea wr m a hchecks hf hc hal hone hm hno
      subst hm
      have hden := translateD_of_one (r := a.isR) (w := a.isW) hf hone.2 hone.1
      rw [hchecks.reads, hchecks.writes, if_neg (mt (hallowed _ _ _).1 hno), ← hchecks.reads, ← hchecks.writes] at hden
      obtain ⟨t, hexec, hfault, hdva, hsum, hkeep, hrec, hds⟩ := hchecks.denied hset hc hal hden (denyFlags_errata ..)
      rw [hchecks.reads, hchecks.writes] at hds
      exact ⟨t, _, hexec, hfault, hdva, hsum, hkeep, hrec, hflagged _ _ _, hds⟩
    refine ⟨fun p hp hc hal hone => ?_, fun hsimd hc hone p hp hal => ?_, fun hm hc hone => ?_⟩
    · obtain ⟨a, hchecks, hform, -, halign⟩ := scalarAccesses_check hready p hp
      exact hstop hchecks (by rw [hform]; decide) hc (by rwa [halign]) hone (by rw [hform, if_pos rfl])
    · obtain ⟨a, hchecks, hform, -, halign, -⟩ := vectorAccesses_check hsimd p hp
      exact hstop hchecks (by rw [hform]; decide) hc (by rwa [halign]) hone (by rw [hform, if_pos rfl])
    · have hpri : ∀ f p, f ≠ .phys → f ≠ .normal → ChecksPri s ra rb e f p →
          stopped p.1 (s.ea12 rb e) (some p.2) pm := by
        rintro f p hphys hnormal ⟨a, hchecks, rfl, halign⟩
        exact hstop hchecks hphys hc (by rw [halign, Nat.mod_one]) hone (if_neg hnormal).symm
      simp only [List.forall_mem_cons]
      exact ⟨hpri .virt _ (by decide) (by decide) (priLoad_checks hready hm rfl),
        hpri .virt _ (by decide) (by decide) (priLoad_checks hready hm rfl),
        hpri .vpte _ (by decide) (by decide) (priLoad_checks hready hm rfl),
        hpri .vpte _ (by decide) (by decide) (priLoad_checks hready hm rfl),
        hpri .virt _ (by decide) (by decide) (priStore_checks hready hm rfl),
        hpri .virt _ (by decide) (by decide) (priStore_checks hready hm rfl), List.forall_mem_nil _⟩

end Sys2Proof.Machine

/-! ## Access violations: settles O40 -/

namespace Sys2Proof.Machine

variable {s : State} {i : Instr} {ra rb : BitVec 5} {d : BitVec 16} {e : BitVec 12} {n : Nat}

/-! ### The platform's answer -/

/-- A platform ACV1 (R548): DFAULT with the physical address in DVA[47:0]. -/
def PlatformFault (s t : State) (ra : BitVec 5) (wr : Bool) (pa : PAddr) : Prop :=
  t.pc = s.entry 0xC80 ∧ t.csr.excPc = sext53 s.pc ∧ t.csr.dva.extractLsb' 0 48 = pa ∧ excSumIs t ra 0 ∧
    recordsAccess s t (some wr) ∧ t.csr.dsStat.getLsbD 12 = true ∧ sameMem s t ∧ t.x = s.x ∧ t.sr = s.sr ∧ t.v = s.v ∧
    t.lock = { s.lock with valid := false }

/-- DVA[47:0] where it holds a physical address (R158). -/
theorem State.dvaOf_low (s : State) (pa : PAddr) : (s.dvaOf pa).extractLsb' 0 48 = pa := by
  rw [State.dvaOf]
  apply BitVec.eq_of_getLsbD_eq
  intro n hn
  rw [BitVec.getLsbD_extractLsb', Nat.zero_add, BitVec.getLsbD_append, if_pos hn]
  simp [hn]

/-- What asking the platform leaves alone. -/
structure Asked (s u : State) : Prop where
  passed : Passed s u
  mem : u.mem = s.mem
  fgroup : u.fgroup = s.fgroup
  unsynced : u.unsynced = s.unsynced
  freeCtr : u.freeCtr = s.freeCtr

/-- The state in which a refused access enters DFAULT: the request error is recorded, the write window closed. -/
theorem asked_of_request (s : State) (b c : Bool) :
    Asked s (let u := if b then s.requestError else s
      if c then { u with ioWin := none } else u) := by
  have hrequest : Asked s (if b then s.requestError else s) := by
    cases b
    · exact ⟨Passed.refl s, rfl, rfl, rfl, rfl⟩
    · exact ⟨⟨checked_requestError s, by simp, by simp⟩, by simp, by simp, by simp, by simp⟩
  generalize (if b then s.requestError else s) = u at hrequest
  obtain ⟨hp, hmem, hg, hun, hctr⟩ := hrequest
  cases c
  · exact ⟨hp, hmem, hg, hun, hctr⟩
  · exact ⟨hp.trans ⟨⟨rfl, rfl, rfl, rfl, rfl, rfl, rfl, rfl, id, rfl, rfl, rfl⟩, rfl, rfl⟩, hmem, hg, hun, hctr⟩

/-- The current opcode depends on the pc and the latched group. -/
theorem State.opcode_congr {u : State} (hpc : u.pc = s.pc) (hg : u.fgroup = s.fgroup) : u.opcode = s.opcode := by
  unfold State.opcode State.word State.groupWord State.slot
  rw [hpc, hg]

/-- A DFAULT with ACV1 after the platform was asked. -/
theorem dfault_platformFault {u : State} {a : Acc} {pa : PAddr} (hu : Asked s u) (hset : settledCsr s 0x48) :
    PlatformFault s (u.dfault a (setBit 0 12) (s.dvaOf pa)) a.ra (a.wr s) pa := by
  obtain ⟨⟨hc, hpc, hlock⟩, hmem, hg, hun, hctr⟩ := hu
  have hsetu : settledCsr u 0x48 := by
    unfold settledCsr
    rwa [hun]
  have hwr : a.wr u = a.wr s := by
    unfold Acc.wr
    rw [hctr]
  obtain ⟨-, -, hsum, -, ⟨hopc, hw⟩, hrest⟩ :=
    raiseData_spec hsetu 0xC80 a.ra (a.wr u) u.csr.dsStat (setBit 0 12) (s.dvaOf pa)
  have hbit : (u.dfault a (setBit 0 12) (s.dvaOf pa)).csr.dsStat.getLsbD 12 = true := by
    have h12 := congrArg (fun w : W64 => w.getLsbD 12) hrest
    have hmask : (~~~(0x3F1 : W64)).getLsbD 12 = true := by decide
    have hset12 : (setBit (0 : W64) 12).getLsbD 12 = true := by decide
    rw [BitVec.getLsbD_and, BitVec.getLsbD_and, BitVec.getLsbD_or, hmask, hset12, Bool.and_true, Bool.and_true,
      Bool.or_true] at h12
    exact h12
  exact ⟨entry_congr hc.priBase _, congrArg sext53 hpc, s.dvaOf_low pa, hsum,
    ⟨hopc.trans (State.opcode_congr hpc hg), fun b hb => hw.trans (hwr.trans (Option.some.inj hb))⟩, hbit,
    fun x => congrArg (memGet · x) hmem, hc.x, hc.sr, hc.v, congrArg (fun l : Lock => { l with valid := false }) hlock⟩

/-- What the platform refuses (R548). -/
theorem platformPhase_of_refused {a : Acc} {pa : PAddr} (hwait : a.isR = true ∨ a.cached pa = true)
    (hrefused : platformOk s (a.base pa) (a.isW && !a.isR) a.size = false) (hset : settledCsr s 0x48) :
    ∃ t, platformPhase s a pa = .error t ∧ PlatformFault s t a.ra (a.wr s) pa := by
  have hcond : ((a.isR || a.cached pa) && !platformOk s (a.base pa) (a.isW && !a.isR) a.size) = true := by
    rw [hrefused, Bool.not_false, Bool.and_true, Bool.or_eq_true]
    exact hwait
  refine ⟨_, ?_, dfault_platformFault (asked_of_request s (a.isR && (isIo pa || a.isW)) (isIo pa)) hset⟩
  rw [platformPhase, if_pos hcond]

/-- A load that only the platform refuses. -/
theorem scalarLoad_platformFault {pa : PAddr} (hready : ready s .none) (hset : settledCsr s 0x48)
    (hnone : s.armedData = none) (hfpga : s.par.fpga = false) (h31 : ra ≠ 31#5)
    (haddr : addressPhase s (loadAcc ra n) (s.ea16 rb d) = .ok pa)
    (hmatch : matchPhase s (loadAcc ra n) (s.ea16 rb d) pa = .ok ()) (hrefused : platformOk s pa false n = false)
    (hi : exec i s = scalarLoad s ra rb d n) : ∃ t, exec i s = .next t ∧ PlatformFault s t ra false pa := by
  have hbase : (loadAcc ra n).base pa = pa := Acc.base_of_back rfl pa
  obtain ⟨t, herr, hfault⟩ := platformPhase_of_refused (a := loadAcc ra n) (.inl rfl) (by rw [hbase]; exact hrefused) hset
  refine ⟨t, ?_, hfault⟩
  have hra : (loadAcc ra n).ra ≠ 31#5 := h31
  rw [hi, scalarLoad, plainStage_ready _ hready, loadXOr31, if_neg hra, loadX, doLoad, dataPhase, haddr]
  dsimp only
  rw [hmatch, physicalPhase, arrayPhase_of_quiet _ _ _ hnone hfpga]
  dsimp only
  rw [herr]
  rfl

/-- A store whose platform check and responses follow as `phase` says. -/
theorem scalarStore_of_phases {pa : PAddr} (hready : ready s .none) (hnone : s.armedData = none)
    (hfpga : s.par.fpga = false) {a : Acc} (ha : a = { storeAcc ra n with data := some (s.getX ra).toNat })
    (haddr : addressPhase s a (s.ea16 rb d) = .ok pa) (hmatch : matchPhase s a (s.ea16 rb d) pa = .ok ())
    (hi : exec i s = scalarStore s ra rb d n) :
    exec i s = match platformPhase s a pa with
      | .error t => .next t
      | .ok () => .next ((performWrite s.unlock (storeAcc ra n) pa (s.getX ra).toNat).retire .write) := by
  subst ha
  rw [hi, scalarStore, plainStage_ready _ hready, storeV, doStore, dataPhase, haddr]
  dsimp only
  rw [hmatch, physicalPhase, arrayPhase_of_quiet _ _ _ hnone hfpga]
  dsimp only
  cases platformPhase s { storeAcc ra n with data := some (s.getX ra).toNat } pa with
  | error t => rfl
  | ok u =>
    dsimp only
    rw [responsePhase_of_quiet _ _ hnone]
    rfl

/-- A store to cacheable memory that only the platform refuses. -/
theorem scalarStore_platformFault {pa : PAddr} (hready : ready s .none) (hset : settledCsr s 0x48)
    (hnone : s.armedData = none) (hfpga : s.par.fpga = false)
    (haddr : addressPhase s { storeAcc ra n with data := some (s.getX ra).toNat } (s.ea16 rb d) = .ok pa)
    (hmatch : matchPhase s { storeAcc ra n with data := some (s.getX ra).toNat } (s.ea16 rb d) pa = .ok ())
    (hcached : (storeAcc ra n).cached pa = true) (hrefused : platformOk s pa true n = false)
    (hi : exec i s = scalarStore s ra rb d n) : ∃ t, exec i s = .next t ∧ PlatformFault s t ra true pa := by
  obtain ⟨t, herr, hfault⟩ := platformPhase_of_refused (s := s)
    (a := { storeAcc ra n with data := some (s.getX ra).toNat }) (.inr hcached)
    (by rw [Acc.base_of_back rfl pa]; exact hrefused) hset
  refine ⟨t, ?_, hfault⟩
  rw [scalarStore_of_phases hready hnone hfpga rfl haddr hmatch hi, herr]

/-! ### A lost write -/

/-- Counting an instruction withdraws no request. -/
theorem State.count_raw_of_set {vec : Nat} (ev : EventClass) (h : s.csr.raw.getLsbD vec = true) :
    (s.count ev).csr.raw.getLsbD vec = true := by
  unfold State.count
  split
  · unfold State.addPc0 orRaw
    dsimp only
    split
    · rw [BitVec.getLsbD_or, h, Bool.true_or]
    · exact h
  · exact h

/-- A write that the platform refuses without a fault (R358): it is lost, and the machine check is requested. -/
theorem writeAddrError_raw (k : WriteKind) : (s.writeAddrError k).csr.raw.getLsbD s.csr.mchkVec.toNat = true := by
  have h : ∀ u : State, u.csr.intVec = s.csr.intVec →
      (u.machineCheck.emit .softwareFault).csr.raw.getLsbD s.csr.mchkVec.toNat = true := by
    intro u hu
    have hvec : u.csr.mchkVec = s.csr.mchkVec := by
      unfold Csrs.mchkVec
      rw [hu]
    show (u.csr.raw ||| BitVec.twoPow 256 u.csr.mchkVec.toNat).getLsbD s.csr.mchkVec.toNat = true
    rw [hvec, BitVec.getLsbD_or, BitVec.getLsbD_twoPow]
    simp [(s.csr.mchkVec).isLt]
  unfold State.writeAddrError
  apply h
  split <;> rfl

/-- What a lost write leaves (R358). -/
structure LostWrite (s t : State) : Prop where
  mem : t.mem = s.mem
  out : t.out = .softwareFault :: s.out
  raw : t.csr.raw.getLsbD s.csr.mchkVec.toNat = true
  x : t.x = s.x
  sr : t.sr = s.sr
  v : t.v = s.v
  pc : t.pc = s.pc

/-- A refused write of any space is lost. -/
theorem performWrite_lost {a : Acc} {pa : PAddr} {v : Nat} (hback : a.back = 0)
    (hrefused : platformOk s pa true a.size = false) : LostWrite s (performWrite s.unlock a pa v) := by
  have hlost : ∀ (u : State) (k : WriteKind), u.mem = s.mem → u.out = s.out → u.csr = s.csr → u.x = s.x →
      u.sr = s.sr → u.v = s.v → u.pc = s.pc → LostWrite s (u.writeAddrError k) := by
    intro u k hmem hout hcsr hx hsr hv hpc
    refine ⟨by simp [hmem], ?_, by rw [← hcsr]; exact writeAddrError_raw k, by simp [hx], by simp [hsr], by simp [hv],
      by simp [hpc]⟩
    unfold State.writeAddrError
    split <;> exact congrArg _ hout
  have hbase : a.base pa = pa := Acc.base_of_back hback pa
  rw [performWrite]
  rw [hbase]
  unfold platformOk at hrefused
  split
  next hio =>
    rw [if_pos hio] at hrefused
    have hlegal : ioLegal s.unlock true (ioAddr pa) a.size = false := hrefused
    rw [hlegal]
    exact hlost _ _ rfl rfl rfl rfl rfl rfl rfl
  next hio =>
    rw [if_neg hio] at hrefused
    have hplat : platformOk s.unlock pa true a.size = false := by
      rw [platformOk, if_neg hio]
      exact hrefused
    rw [hplat]
    exact hlost _ _ rfl rfl rfl rfl rfl rfl rfl

/-- A store to non-cacheable memory or to I/O space that the platform refuses. -/
theorem scalarStore_lost {pa : PAddr} (hready : ready s .none) (hnone : s.armedData = none)
    (hfpga : s.par.fpga = false)
    (haddr : addressPhase s { storeAcc ra n with data := some (s.getX ra).toNat } (s.ea16 rb d) = .ok pa)
    (hmatch : matchPhase s { storeAcc ra n with data := some (s.getX ra).toNat } (s.ea16 rb d) pa = .ok ())
    (hcached : (storeAcc ra n).cached pa = false) (hrefused : platformOk s pa true n = false)
    (hi : exec i s = scalarStore s ra rb d n) :
    ∃ t, exec i s = .next t ∧ t.pc = s.pc + 4 ∧ sameMem s t ∧ t.out = .softwareFault :: s.out ∧
      t.csr.raw.getLsbD s.csr.mchkVec.toNat = true ∧ t.x = s.x ∧ t.sr = s.sr ∧ t.v = s.v := by
  have hpass : platformPhase s { storeAcc ra n with data := some (s.getX ra).toNat } pa = .ok () := by
    have hno : Acc.cached { storeAcc ra n with data := some (s.getX ra).toNat } pa = false := hcached
    rw [platformPhase, hno]
    rfl
  obtain ⟨hmem, hout, hraw, hx, hsr, hv, hpc⟩ :=
    performWrite_lost (s := s) (a := storeAcc ra n) (v := (s.getX ra).toNat) rfl hrefused
  refine ⟨_, by rw [scalarStore_of_phases hready hnone hfpga rfl haddr hmatch hi, hpass], ?_, ?_, ?_, ?_, ?_, ?_, ?_⟩
  · rw [State.retire_pc, hpc]
  · intro x
    rw [State.retire_mem, hmem]
  · rw [State.retire_out, hout]
  · rw [State.retire_csr]
    exact State.count_raw_of_set _ hraw
  · rw [State.retire_x, hx]
  · rw [State.retire_sr, hsr]
  · rw [State.retire_v, hv]

/-- Memory beyond MEM_SIZE (R230). -/
theorem platformOk_of_beyond {pa : PAddr} {w : Bool} (hio : pa.getLsbD 47 = false) (h : s.par.memSize < memAddr pa + n) :
    platformOk s pa w n = false := by
  rw [platformOk, isIo, hio, if_neg (by decide), decide_eq_false_iff_not]
  omega

/-- I/O space where no register answers (R230). -/
theorem platformOk_of_noRegister {pa : PAddr} {w : Bool} (hio : pa.getLsbD 47 = true)
    (h : ioLegal s w (ioAddr pa) n = false) : platformOk s pa w n = false := by
  rw [platformOk, isIo, hio, if_pos rfl, h]

/-! ### ACV1 by the instruction type -/

/-- An atomic to I/O space (R547). -/
theorem typeIllegal_of_atomic {a : Acc} {pa : PAddr} (ha : a.atomic = true) (hio : pa.getLsbD 47 = true) :
    a.typeIllegal pa = true := by
  simp [Acc.typeIllegal, isIo, ha, hio]

/-- A non-cacheable access to I/O space (R547). -/
theorem typeIllegal_of_nc {a : Acc} {pa : PAddr} (ha : a.nc = true) (hio : pa.getLsbD 47 = true) :
    a.typeIllegal pa = true := by
  simp [Acc.typeIllegal, isIo, ha, hio]

/-- A SIMD access to I/O space (R547). -/
theorem typeIllegal_of_simd {a : Acc} {pa : PAddr} (ha : a.simd = true) (hio : pa.getLsbD 47 = true) :
    a.typeIllegal pa = true := by
  simp [Acc.typeIllegal, isIo, ha, hio]

/-- A lock access to I/O or non-cacheable space (R547). -/
theorem typeIllegal_of_lock {a : Acc} {pa : PAddr} (ha : a.lock = true)
    (h : pa.getLsbD 47 = true ∨ pa.getLsbD 46 = true) : a.typeIllegal pa = true := by
  rcases h with h | h <;> simp [Acc.typeIllegal, isIo, ha, h]

/-- An access of the form `wr` that its type may not make at `pa`. -/
theorem ChecksAs.violation {va : W64} {wr : Option Bool} {a : Acc} {pa : PAddr} (h : ChecksAs s i va ra wr a)
    (hset : settledCsr s 0x48) (hform : a.form = .normal) (hc : canonical va = true) (hal : va.toNat % a.align = 0)
    (hpage : translateD s .normal (decide (wr ≠ some true)) (decide (wr ≠ some false)) va = .page pa)
    (htype : a.typeIllegal pa = true) : ∃ t, exec i s = .next t ∧ DataFault s t 0xC80 ra wr va (s.csr.dsStat ||| 0x1000) := by
  rw [← h.reads, ← h.writes, ← hform] at hpage
  exact h.typeIllegal hset hc hal hpage htype

/-- The classes of an access that is not an atomic. -/
theorem class_of_some (w : Bool) : decide (some w ≠ some true) = !w ∧ decide (some w ≠ some false) = w := by
  cases w <;> decide

/-- Settles O40: ACV1 by type, ACV1 by the platform, and the lost write. -/
theorem accessViolations : Obligations.AccessViolations := by
  refine ⟨fun s ra rb d e pa hready hset => ?_, fun s ra rb d pa hready hset hnone hfpga => ?_⟩
  · intro fault ea
    have hviolates : ∀ {i va a} (w : Bool), ChecksAs s i va ra (some w) a → a.form = .normal → canonical va = true →
        va.toNat % a.align = 0 → translateD s .normal (!w) w va = .page pa → a.typeIllegal pa = true →
        fault i va (some w) := by
      intro i va a w hchecks hform hc hal hpage
      obtain ⟨hr, hw⟩ := class_of_some w
      exact hchecks.violation hset hform hc hal (by rw [hr, hw]; exact hpage)
    refine ⟨?_, ?_, ?_, fun hsimd hc hio p hp hal hpage => ?_⟩
    · have hatomic : ∀ {i n o}, exec i s = atomic s ra rb e n o → canonical ea = true → ea.toNat % n = 0 →
          translateD s .normal true true ea = .page pa → pa.getLsbD 47 = true → fault i ea none :=
        fun hi hc hal hpage hio =>
          (atomic_checks hready hi).violation hset rfl hc hal hpage (typeIllegal_of_atomic rfl hio)
      simp only [List.forall_mem_cons]
      exact ⟨hatomic (o := .inc) rfl, hatomic (o := .dec) rfl, hatomic (o := .set) rfl, hatomic (o := .inc) rfl,
        hatomic (o := .dec) rfl, hatomic (o := .set) rfl, List.forall_mem_nil _⟩
    · simp only [List.forall_mem_append, List.forall_mem_cons]
      refine ⟨⟨fun hc hal hpage hio => ?_, fun hc hal hpage hio => ?_, List.forall_mem_nil _⟩, ?_⟩
      · exact hviolates true (ncStore_checks (n := 4) hready rfl) rfl hc hal hpage (typeIllegal_of_nc rfl hio)
      · exact hviolates true (ncStore_checks (n := 8) hready rfl) rfl hc hal hpage (typeIllegal_of_nc rfl hio)
      · split
        · exact List.forall_mem_nil _
        next h31 =>
          simp only [List.forall_mem_cons]
          refine ⟨fun hc hal hpage hio => ?_, fun hc hal hpage hio => ?_, List.forall_mem_nil _⟩
          · exact hviolates false (ncLoad_checks (n := 4) hready h31 rfl) rfl hc hal hpage (typeIllegal_of_nc rfl hio)
          · exact hviolates false (ncLoad_checks (n := 8) hready h31 rfl) rfl hc hal hpage (typeIllegal_of_nc rfl hio)
    · simp only [List.forall_mem_append, List.forall_mem_cons]
      refine ⟨⟨fun hc hal hpage hsp => ?_, fun hc hal hpage hsp => ?_, List.forall_mem_nil _⟩, ?_⟩
      · exact hviolates false (lockLoad_checks (n := 4) hready rfl) rfl hc hal hpage (typeIllegal_of_lock rfl hsp)
      · exact hviolates false (lockLoad_checks (n := 8) hready rfl) rfl hc hal hpage (typeIllegal_of_lock rfl hsp)
      · split
        next hpair =>
          simp only [List.forall_mem_cons]
          refine ⟨fun hc hal hpage hsp => ?_, fun hc hal hpage hsp => ?_, List.forall_mem_nil _⟩
          · exact hviolates true (lockStore_checks (n := 4) hready hpair rfl) rfl hc hal hpage
              (typeIllegal_of_lock rfl hsp)
          · exact hviolates true (lockStore_checks (n := 8) hready hpair rfl) rfl hc hal hpage
              (typeIllegal_of_lock rfl hsp)
        · exact List.forall_mem_nil _
    · obtain ⟨a, hchecks, hform, hs, halign, -⟩ := vectorAccesses_check hsimd p hp
      exact hviolates _ hchecks hform hc (by rwa [halign]) hpage (typeIllegal_of_simd hs hio)
  · intro ea fault
    have hload : ∀ {i n}, exec i s = scalarLoad s ra rb d n → ra ≠ 31#5 → addressPhase s (loadAcc ra n) ea = .ok pa →
        matchPhase s (loadAcc ra n) ea pa = .ok () →
        (pa.getLsbD 47 = false → s.par.memSize < memAddr pa + n → fault i false) ∧
        (pa.getLsbD 47 = true → ioLegal s false (ioAddr pa) n = false → fault i false) := by
      intro i n hi h31 haddr hmatch
      have hrefused := fun h => scalarLoad_platformFault hready hset hnone hfpga h31 haddr hmatch h hi
      exact ⟨fun hio h => hrefused (platformOk_of_beyond hio h), fun hio h => hrefused (platformOk_of_noRegister hio h)⟩
    have hstore : ∀ {i n}, exec i s = scalarStore s ra rb d n →
        addressPhase s { storeAcc ra n with data := some (s.getX ra).toNat } ea = .ok pa →
        matchPhase s { storeAcc ra n with data := some (s.getX ra).toNat } ea pa = .ok () →
        (pa.getLsbD 47 = false → pa.getLsbD 46 = false → s.par.memSize < memAddr pa + n → fault i true) ∧
        ((pa.getLsbD 47 = false ∧ pa.getLsbD 46 = true ∧ s.par.memSize < memAddr pa + n) ∨
            (pa.getLsbD 47 = true ∧ ioLegal s true (ioAddr pa) n = false) →
          ∃ t, exec i s = .next t ∧ t.pc = s.pc + 4 ∧ sameMem s t ∧ t.out = .softwareFault :: s.out ∧
            t.csr.raw.getLsbD s.csr.mchkVec.toNat = true ∧ t.x = s.x ∧ t.sr = s.sr ∧ t.v = s.v) := by
      intro i n hi haddr hmatch
      have hcached : (storeAcc ra n).cached pa = (!pa.getLsbD 47 && !pa.getLsbD 46) := rfl
      have hlost := fun h => scalarStore_lost (i := i) hready hnone hfpga haddr hmatch h
      refine ⟨fun hio hnc h => ?_, ?_⟩
      · exact scalarStore_platformFault hready hset hnone hfpga haddr hmatch (by rw [hcached, hio, hnc]; rfl)
          (platformOk_of_beyond hio h) hi
      · rintro (⟨hio, hnc, h⟩ | ⟨hio, h⟩)
        · exact hlost (by rw [hcached, hio, hnc]; rfl) (platformOk_of_beyond hio h) hi
        · exact hlost (by rw [hcached, hio]; rfl) (platformOk_of_noRegister hio h) hi
    simp only [List.forall_mem_cons]
    exact ⟨⟨hload rfl, hload rfl, hload rfl, hload rfl, List.forall_mem_nil _⟩,
      hstore rfl, hstore rfl, hstore rfl, hstore rfl, List.forall_mem_nil _⟩

end Sys2Proof.Machine

/-! ## The debug matches of a data access: settles O39 -/

namespace Sys2Proof.Machine

variable {s : State} {i : Instr} {ra rb : BitVec 5} {d : BitVec 16} {e : BitVec 12} {n : Nat}

/-! ### The address match -/

/-- A field of two bits that holds 3. -/
theorem extractTwo_eq_three (w : W64) (k : Nat) :
    w.extractLsb' k 2 = 3#2 ↔ w.getLsbD k = true ∧ w.getLsbD (k + 1) = true := by
  have hlow : w.getLsbD k = (w.extractLsb' k 2).getLsbD 0 := by rw [BitVec.getLsbD_extractLsb']; simp
  have hhigh : w.getLsbD (k + 1) = (w.extractLsb' k 2).getLsbD 1 := by rw [BitVec.getLsbD_extractLsb']; simp
  rw [hlow, hhigh]
  generalize w.extractLsb' k 2 = m
  revert m
  decide

/-- The classes of an access (R675). -/
theorem daClass_iff (c : Csrs) (w : Bool) : daClass c (!w) w = true ↔
    c.daMatch.getLsbD (if w then 54 else 53) = true ∨ c.daMatch.extractLsb' 53 2 = 3#2 := by
  rw [extractTwo_eq_three]
  unfold daClass
  have hcases : ∀ x y : Bool, ((x && true || y && false || x && y) = true ↔ x = true ∨ x = true ∧ y = true) ∧
      ((x && false || y && true || x && y) = true ↔ y = true ∨ x = true ∧ y = true) := by decide
  cases w
  · exact (hcases _ _).1
  · exact (hcases _ _).2

/-- The compared bits agree, or differ, as DA_MATCH_MODE says (R675). -/
theorem daBitsOk_iff {c : Csrs} {a : W64} {k : Nat} (hk : k ≤ 64) : daBitsOk c a k = true ↔
    ∀ n, n < k → c.daMask.getLsbD n = true → (c.daMatchMode.getLsbD n = true ↔ c.daMatch.getLsbD n = a.getLsbD n) := by
  have hbit : ∀ n, n < 64 → (c.daMask &&& ((a ^^^ c.daMatch) ^^^ c.daMatchMode ^^^ BitVec.allOnes 64) &&&
      (BitVec.allOnes 64 >>> (64 - k))).getLsbD n = (c.daMask.getLsbD n && (((a.getLsbD n ^^ c.daMatch.getLsbD n) ^^
        c.daMatchMode.getLsbD n) ^^ true) && decide (n < k)) := by
    intro n hn
    rw [BitVec.getLsbD_and, BitVec.getLsbD_and, BitVec.getLsbD_xor, BitVec.getLsbD_xor, BitVec.getLsbD_xor,
      BitVec.getLsbD_ushiftRight, BitVec.getLsbD_allOnes, BitVec.getLsbD_allOnes, decide_eq_true hn]
    congr 1
    rw [decide_eq_decide]
    omega
  have hcase : ∀ m x y z : Bool, (m && (((x ^^ y) ^^ z) ^^ true)) = false ↔ (m = true → (z = true ↔ y = x)) := by decide
  rw [daBitsOk, decide_eq_true_eq]
  constructor
  · intro h n hn
    have hn0 := hbit n (by omega)
    rw [h, decide_eq_true hn, Bool.and_true] at hn0
    exact (hcase ..).1 (hn0.symm.trans (by simp))
  · intro h
    apply BitVec.eq_of_getLsbD_eq
    intro n hn
    rw [hbit n hn]
    show _ = (0#64).getLsbD n
    rw [BitVec.getLsbD_zero]
    by_cases hnk : n < k
    · rw [(hcase ..).2 (h n hnk), Bool.false_and]
    · rw [decide_eq_false hnk, Bool.and_false]

/-- The address match of an access (R675). -/
theorem daHit_iff {c : Csrs} {a : Acc} {va : W64} {pa : PAddr} {w : Bool} (hr : a.isR = !w) (hw : a.isW = w) :
    daHit c a va pa = true ↔
      (c.daMatch.getLsbD (if w then 54 else 53) = true ∨ c.daMatch.extractLsb' 53 2 = 3#2) ∧
        ∀ n, n < 53 → ((c.daMatch.getLsbD 55 = true ∨ a.form = .phys) → n < 48) → c.daMask.getLsbD n = true →
          (c.daMatchMode.getLsbD n = true ↔ c.daMatch.getLsbD n =
            (if c.daMatch.getLsbD 55 ∨ a.form = .phys then pa.getLsbD n else va.getLsbD n)) := by
  have hcond : (c.daMatch.getLsbD 55 || decide (a.form = .phys)) = true ↔ c.daMatch.getLsbD 55 = true ∨ a.form = .phys := by
    rw [Bool.or_eq_true, decide_eq_true_eq]
  rw [daHit, Bool.and_eq_true, hr, hw, daClass_iff]
  refine and_congr_right fun _ => ?_
  by_cases hphys : c.daMatch.getLsbD 55 = true ∨ a.form = .phys
  · rw [if_pos (hcond.2 hphys), daBitsOk_iff (by decide)]
    refine forall_congr' fun n => ?_
    rw [if_pos hphys]
    refine ⟨fun h hn hlow => ?_, fun h hlow => ?_⟩
    · have h48 := hlow hphys
      have hset : (pa.setWidth 64).getLsbD n = pa.getLsbD n := by
        rw [BitVec.getLsbD_setWidth, decide_eq_true (by omega), Bool.true_and]
      rw [← hset]
      exact h h48
    · have hset : (pa.setWidth 64).getLsbD n = pa.getLsbD n := by
        rw [BitVec.getLsbD_setWidth, decide_eq_true (by omega), Bool.true_and]
      rw [hset]
      exact h (by omega) fun _ => hlow
  · rw [if_neg (mt hcond.1 hphys), daBitsOk_iff (by decide)]
    refine forall_congr' fun n => ?_
    rw [if_neg hphys]
    exact ⟨fun h hn _ => h hn, fun h hn => h hn fun hp => absurd hp hphys⟩

/-! ### The value match -/

/-- The byte lanes of `k` bytes at offset `o` in their aligned eight. -/
theorem lanes_getLsbD (o k n : Nat) (hn : n < 64) :
    (BitVec.ofNat 64 ((2 ^ (8 * k) - 1) * 2 ^ (8 * o) / 2 ^ (64 * 0))).getLsbD n = decide (o ≤ n / 8 ∧ n / 8 < o + k) := by
  rw [Nat.mul_zero, Nat.pow_zero, Nat.div_one, BitVec.getLsbD_ofNat, decide_eq_true hn, Bool.true_and,
    Nat.testBit_mul_two_pow, Nat.testBit_two_pow_sub_one, ← Bool.decide_and, decide_eq_decide]
  omega

/-- The stored bytes in their lanes. -/
theorem image_getLsbD (w : W64) (o k n : Nat) (hn : n < 64) (hlane : o ≤ n / 8 ∧ n / 8 < o + k) :
    (BitVec.ofNat 64 (w.toNat % 2 ^ (8 * k) * 2 ^ (8 * o) / 2 ^ (64 * 0))).getLsbD n = (w <<< (8 * o)).getLsbD n := by
  have hlow : n - 8 * o < 8 * k := by omega
  have hge : 8 * o ≤ n := by omega
  rw [Nat.mul_zero, Nat.pow_zero, Nat.div_one, BitVec.getLsbD_ofNat, decide_eq_true hn, Bool.true_and,
    Nat.testBit_mul_two_pow, Nat.testBit_mod_two_pow, BitVec.getLsbD_shiftLeft, decide_eq_true hn,
    decide_eq_true hlow, decide_eq_true hge, decide_eq_false (Nat.not_lt.2 hge)]
  simp only [Bool.true_and, Bool.not_false]
  rfl

/-- A word matches where every byte that DV_MASK names is stored and agrees (R677). -/
theorem dvWordHit_iff {c : Csrs} {w : W64} {o k : Nat} :
    dvWordHit c (BitVec.ofNat 64 ((2 ^ (8 * k) - 1) * 2 ^ (8 * o) / 2 ^ (64 * 0)))
        (BitVec.ofNat 64 (w.toNat % 2 ^ (8 * k) * 2 ^ (8 * o) / 2 ^ (64 * 0))) = true ↔
      (∀ n, n < 64 → c.dvMask.getLsbD n = true → o ≤ n / 8 ∧ n / 8 < o + k) ∧
        ((w <<< (8 * o)) ^^^ c.dvMatch) &&& c.dvMask = 0 := by
  have hlanes : c.dvMask &&& ~~~(BitVec.ofNat 64 ((2 ^ (8 * k) - 1) * 2 ^ (8 * o) / 2 ^ (64 * 0))) = 0 ↔
      ∀ n, n < 64 → c.dvMask.getLsbD n = true → o ≤ n / 8 ∧ n / 8 < o + k := by
    constructor
    · intro h n hn hmask
      have hbit := congrArg (fun x : W64 => x.getLsbD n) h
      rw [BitVec.getLsbD_and, BitVec.getLsbD_not, lanes_getLsbD o k n hn, hmask] at hbit
      simpa [hn] using hbit
    · intro h
      apply BitVec.eq_of_getLsbD_eq
      intro n hn
      rw [BitVec.getLsbD_and, BitVec.getLsbD_not, lanes_getLsbD o k n hn]
      cases hmask : c.dvMask.getLsbD n
      · simp
      · simp [hn, h n hn hmask]
  rw [dvWordHit, Bool.and_eq_true, decide_eq_true_eq, decide_eq_true_eq, hlanes]
  refine and_congr_right fun hstored => Eq.congr_left ?_
  apply BitVec.eq_of_getLsbD_eq
  intro n hn
  rw [BitVec.getLsbD_and, BitVec.getLsbD_and, BitVec.getLsbD_xor, BitVec.getLsbD_xor]
  cases hmask : c.dvMask.getLsbD n
  · rw [Bool.and_false, Bool.and_false]
  · rw [image_getLsbD w o k n hn (hstored n hn hmask)]

/-- A load meets no value match. -/
theorem dvHit_of_noData {a : Acc} {va : W64} (ha : a.data = none) : dvHit s a va = false := by
  rw [dvHit, ha]

/-- The value match of an aligned scalar store (R677). -/
theorem dvHit_iff {a : Acc} {va w : W64} (hdata : a.data = some w.toNat) (hsimd : a.simd = false) (hback : a.back = 0)
    (hpos : 0 < a.size) (hfit : va.toNat % 8 + a.size ≤ 8) : dvHit s a va = true ↔
      s.csr.dcCtl.getLsbD 19 = true ∧
        (∀ n, n < 64 → s.csr.dvMask.getLsbD n = true → va.toNat % 8 ≤ n / 8 ∧ n / 8 < va.toNat % 8 + a.size) ∧
        ((w <<< (8 * (va.toNat % 8))) ^^^ s.csr.dvMatch) &&& s.csr.dvMask = 0 := by
  have hrange : (va.toNat % 8 + a.size + 7) / 8 = 1 := by omega
  rw [dvHit, hdata]
  dsimp only
  rw [hback, Nat.sub_zero, hsimd, hrange, Bool.and_eq_true, ← dvWordHit_iff]
  simp [State.dcEn]

/-! ### The match phase -/

/-- A match that stops the access (R679), with its flags and DVA. -/
theorem matchPhase_of_hits {a : Acc} {va : W64} {pa : PAddr} {ha hv : Bool} (hA : daHit s.csr a va pa = ha)
    (hV : dvHit s a va = hv) (h : if s.dcEn 20 then ha = true ∧ hv = true else ha = true ∨ hv = true) :
    matchPhase s a va pa = .error (s.dfault a (orBit (orBit (orBit 0 13 ha) 19 hv) 20 (ha && hv))
      (if s.dcEn 20 then s.dvaOf pa else if ha then va else s.dvaOf pa)) := by
  rw [matchPhase, hA, hV]
  split
  next hboth =>
    rw [if_pos hboth] at h
    rw [if_pos (by rw [h.1, h.2]; rfl)]
  next hboth =>
    rw [if_neg hboth] at h
    rw [if_pos (by rw [Bool.or_eq_true]; exact h)]

/-- Where no match stops the access. -/
theorem matchPhase_ok {a : Acc} {va : W64} {pa : PAddr}
    (h : if s.dcEn 20 then ¬(daHit s.csr a va pa = true ∧ dvHit s a va = true)
      else ¬daHit s.csr a va pa = true ∧ ¬dvHit s a va = true) : matchPhase s a va pa = .ok () := by
  rw [matchPhase]
  split
  next hboth =>
    rw [if_pos hboth] at h
    rw [if_neg (by rwa [Bool.and_eq_true])]
  next hboth =>
    rw [if_neg hboth] at h
    rw [if_neg (by rw [Bool.or_eq_true, not_or]; exact h)]

/-- The access of O39: a plain load or store of `n` bytes. -/
def plainAcc (s : State) (ra : BitVec 5) (w : Bool) (f : AccForm) (n : Nat) : Acc :=
  { ra := ra, isR := !w, isW := w, form := f, size := n, align := if f = .normal then n else 1
    data := if w then some (s.getX ra).toNat else none }

/-- The address of a plain access passes every check before the matches. -/
theorem addressPhase_plainAcc {w : Bool} {f : AccForm} {va : W64} {pa : PAddr} (hc : f = .phys ∨ canonical va = true)
    (hn : n ≤ 8) (hal : va.toNat % n = 0) (hpage : translateD s f (!w) w va = .page pa) :
    addressPhase s (plainAcc s ra w f n) va = .ok pa := by
  have hcanon : ¬((plainAcc s ra w f n).form ≠ .phys ∧ (!canonical va) = true) := by
    rintro ⟨hform, hno⟩
    rcases hc with hc | hc
    · exact hform hc
    · rw [hc] at hno
      exact absurd hno (by decide)
  have halign : va.toNat % (plainAcc s ra w f n).align = 0 := by
    show va.toNat % (if f = .normal then n else 1) = 0
    split
    · exact hal
    · exact Nat.mod_one _
  have htype : (plainAcc s ra w f n).typeIllegal pa = false := by
    have h16 : ¬16 ≤ n := by omega
    simp [Acc.typeIllegal, plainAcc, h16]
  have hpage' : translateD s (plainAcc s ra w f n).form (plainAcc s ra w f n).isR (plainAcc s ra w f n).isW va = .page pa :=
    hpage
  rw [addressPhase, if_neg hcanon, if_neg (not_not.2 halign), hpage']
  dsimp only
  rw [htype]
  rfl

/-- The instruction `i` makes the plain access: a match ends it. -/
def MatchesAs (s : State) (ra : BitVec 5) (i : Instr) (va : W64) (w : Bool) (f : AccForm) (n : Nat) : Prop :=
  ∀ pa t, addressPhase s (plainAcc s ra w f n) va = .ok pa →
    matchPhase s (plainAcc s ra w f n) va pa = .error t → exec i s = .next t

/-- The matches come after the address checks (R529). -/
theorem dataPhase_of_matchPhase_error {a : Acc} {va : W64} {pa : PAddr} {t : State} (haddr : addressPhase s a va = .ok pa)
    (h : matchPhase s a va pa = .error t) : dataPhase s a va = .error t := by
  rw [dataPhase, haddr]
  dsimp only
  rw [h]

/-- A load to another register than R31. -/
theorem scalarLoad_matches (hready : ready s .none) (h31 : ra ≠ 31#5) (hi : exec i s = scalarLoad s ra rb d n) :
    MatchesAs s ra i (s.ea16 rb d) false .normal n := by
  intro pa t haddr h
  have hdata : dataPhase s (loadAcc ra n) (s.ea16 rb d) = .error t := dataPhase_of_matchPhase_error haddr h
  have hra : (loadAcc ra n).ra ≠ 31#5 := h31
  rw [hi, scalarLoad, plainStage_ready _ hready, loadXOr31, if_neg hra, loadX, doLoad, hdata, settle]

/-- A store. -/
theorem scalarStore_matches (hready : ready s .none) (hi : exec i s = scalarStore s ra rb d n) :
    MatchesAs s ra i (s.ea16 rb d) true .normal n := by
  intro pa t haddr h
  have hdata : dataPhase s { storeAcc ra n with data := some (s.getX ra).toNat } (s.ea16 rb d) = .error t :=
    dataPhase_of_matchPhase_error haddr h
  rw [hi, scalarStore, plainStage_ready _ hready, storeV, doStore, hdata, settle]

/-- A privileged load without translation, at an aligned address. -/
theorem priLoad_matches (hready : ready s .none) (hm : s.mode = 0#2) (hal : (s.ea12 rb e).toNat % n = 0)
    (hi : exec i s = priLoad s ra rb e .phys n) : MatchesAs s ra i (s.ea12 rb e) false .phys n := by
  intro pa t haddr h
  have hdata : dataPhase s (priLoadAcc ra .phys n) (s.ea12 rb e) = .error t := dataPhase_of_matchPhase_error haddr h
  have h0 : misBy n (s.ea12 rb e) = 0 := hal
  rw [hi, priLoad, privStage_ready _ hready hm]
  dsimp only
  rw [if_pos h0, loadX, doLoad, hdata, settle]

/-- A privileged store without translation, at an aligned address. -/
theorem priStore_matches (hready : ready s .none) (hm : s.mode = 0#2) (hal : (s.ea12 rb e).toNat % n = 0)
    (hi : exec i s = priStore s ra rb e .phys n) : MatchesAs s ra i (s.ea12 rb e) true .phys n := by
  intro pa t haddr h
  have hdata : dataPhase s { priStoreAcc ra .phys n with data := some (s.getX ra).toNat } (s.ea12 rb e) = .error t :=
    dataPhase_of_matchPhase_error haddr h
  have h0 : misBy n (s.ea12 rb e) = 0 := hal
  rw [hi, priStore, privStage_ready _ hready hm]
  dsimp only
  rw [if_pos h0, storeV, doStore, hdata, settle]

/-- A DFAULT of a debug match: where DVA points and the flags beside OPCODE and WR (R679). -/
def MatchFault (s : State) (i : Instr) (ra : BitVec 5) (w : Bool) (at' : W64 → Prop) (flags : W64) : Prop :=
  ∃ t, exec i s = .next t ∧ faultsTo s t 0xC80 ∧ at' t.csr.dva ∧ excSumIs t ra 0 ∧ keepsFetchRecords s t ∧
    recordsAccess s t (some w) ∧ t.csr.dsStat &&& ~~~(0x3F1 : W64) = (s.csr.dsStat ||| flags) &&& ~~~(0x3F1 : W64)

/-- The fault of a match. -/
theorem MatchesAs.fault {va : W64} {w : Bool} {f : AccForm} {pa : PAddr} (h : MatchesAs s ra i va w f n)
    (hset : settledCsr s 0x48) (haddr : addressPhase s (plainAcc s ra w f n) va = .ok pa) {ha hv : Bool}
    (hA : daHit s.csr (plainAcc s ra w f n) va pa = ha) (hV : dvHit s (plainAcc s ra w f n) va = hv)
    (hstop : if s.dcEn 20 then ha = true ∧ hv = true else ha = true ∨ hv = true) {at' : W64 → Prop}
    (hat : at' (if s.dcEn 20 then s.dvaOf pa else if ha then va else s.dvaOf pa)) :
    MatchFault s i ra w at' (orBit (orBit (orBit 0 13 ha) 19 hv) 20 (ha && hv)) := by
  have hwr : (plainAcc s ra w f n).wr s = w := by
    cases w <;> rfl
  obtain ⟨hfault, hdva, hsum, hkeep, ⟨hop, hw⟩, hrest⟩ :=
    raiseData_spec hset 0xC80 ra ((plainAcc s ra w f n).wr s) s.csr.dsStat (orBit (orBit (orBit 0 13 ha) 19 hv) 20 (ha && hv))
      (if s.dcEn 20 then s.dvaOf pa else if ha then va else s.dvaOf pa)
  exact ⟨_, h pa _ haddr (matchPhase_of_hits hA hV hstop), hfault, hdva ▸ hat, hsum, hkeep,
    ⟨hop, fun b hb => hw.trans (hwr.trans (Option.some.inj hb))⟩, hrest⟩

/-! ### The instructions of O39 -/

/-- An instruction of O39 with its class, form and size. -/
abbrev PlainAccess := Instr × Bool × AccForm × Nat

/-- The plain stores. -/
def plainStores (ra rb : BitVec 5) (d : BitVec 16) : List PlainAccess :=
  [(Instr.stb ra rb d, true, AccForm.normal, 1), (Instr.sth ra rb d, true, .normal, 2),
    (Instr.stw ra rb d, true, .normal, 4), (Instr.stl ra rb d, true, .normal, 8)]

/-- The plain loads. -/
def plainLoads (ra rb : BitVec 5) (d : BitVec 16) : List PlainAccess :=
  [(Instr.ldbu ra rb d, false, AccForm.normal, 1), (Instr.ldhu ra rb d, false, .normal, 2),
    (Instr.ldw ra rb d, false, .normal, 4), (Instr.ldl ra rb d, false, .normal, 8)]

/-- The plain accesses without translation. -/
def plainPhysical (ra rb : BitVec 5) (e : BitVec 12) : List PlainAccess :=
  [(Instr.priLdwP ra rb e, false, AccForm.phys, 4), (Instr.priLdlP ra rb e, false, .phys, 8),
    (Instr.priStwP ra rb e, true, .phys, 4), (Instr.priStlP ra rb e, true, .phys, 8)]

/-- The plain loads and stores that run. -/
def plainAccesses (s : State) (ra rb : BitVec 5) (d : BitVec 16) (e : BitVec 12) : List PlainAccess :=
  plainStores ra rb d ++ (if ra = 31#5 then [] else plainLoads ra rb d) ++ (if s.mode = 0#2 then plainPhysical ra rb e else [])

/-- Where a plain access goes. -/
def plainAddr (s : State) (rb : BitVec 5) (d : BitVec 16) (e : BitVec 12) (f : AccForm) : W64 :=
  if f = .phys then s.ea12 rb e else s.ea16 rb d

/-- Every one makes its access where it is aligned. -/
theorem plainAccesses_match (hready : ready s .none) : ∀ p ∈ plainAccesses s ra rb d e,
    ((plainAddr s rb d e p.2.2.1).toNat % p.2.2.2 = 0 →
      MatchesAs s ra p.1 (plainAddr s rb d e p.2.2.1) p.2.1 p.2.2.1 p.2.2.2) ∧
    (p.2.2.2 = 1 ∨ p.2.2.2 = 2 ∨ p.2.2.2 = 4 ∨ p.2.2.2 = 8) := by
  unfold plainAccesses plainStores plainLoads plainPhysical
  simp only [List.forall_mem_append, List.forall_mem_cons]
  refine ⟨⟨⟨?_, ?_, ?_, ?_, List.forall_mem_nil _⟩, ?_⟩, ?_⟩
  · exact ⟨fun _ => scalarStore_matches hready rfl, by decide⟩
  · exact ⟨fun _ => scalarStore_matches hready rfl, by decide⟩
  · exact ⟨fun _ => scalarStore_matches hready rfl, by decide⟩
  · exact ⟨fun _ => scalarStore_matches hready rfl, by decide⟩
  · split
    · exact List.forall_mem_nil _
    next h31 =>
      simp only [List.forall_mem_cons]
      exact ⟨⟨fun _ => scalarLoad_matches hready h31 rfl, by decide⟩, ⟨fun _ => scalarLoad_matches hready h31 rfl, by decide⟩,
        ⟨fun _ => scalarLoad_matches hready h31 rfl, by decide⟩, ⟨fun _ => scalarLoad_matches hready h31 rfl, by decide⟩,
        List.forall_mem_nil _⟩
  · split
    next hm =>
      simp only [List.forall_mem_cons]
      exact ⟨⟨fun hal => priLoad_matches hready hm hal rfl, by decide⟩, ⟨fun hal => priLoad_matches hready hm hal rfl, by decide⟩,
        ⟨fun hal => priStore_matches hready hm hal rfl, by decide⟩, ⟨fun hal => priStore_matches hready hm hal rfl, by decide⟩,
        List.forall_mem_nil _⟩
    · exact List.forall_mem_nil _

/-- The value match of a plain access (R677). -/
theorem dvHit_plainAcc {w : Bool} {f : AccForm} {va : W64} (hpos : 0 < n) (hfit : va.toNat % 8 + n ≤ 8) :
    dvHit s (plainAcc s ra w f n) va = true ↔ w = true ∧ s.csr.dcCtl.getLsbD 19 = true ∧
      (∀ k, k < 64 → s.csr.dvMask.getLsbD k = true → va.toNat % 8 ≤ k / 8 ∧ k / 8 < va.toNat % 8 + n) ∧
      ((s.getX ra <<< (8 * (va.toNat % 8))) ^^^ s.csr.dvMatch) &&& s.csr.dvMask = 0 := by
  cases w
  · rw [dvHit_of_noData rfl]
    simp
  · rw [dvHit_iff (a := plainAcc s ra true f n) rfl rfl rfl hpos hfit]
    exact ⟨fun h => ⟨rfl, h⟩, fun h => h.2⟩

/-- Settles O39: the two matches, and the DFAULT they raise. -/
theorem dataMatches : Obligations.DataMatches := by
  intro s ra rb d e pa hready hset acc p hp w ea hc hal hpage phys bit A o V virtual physical fault
  obtain ⟨hmatches, hsize⟩ := plainAccesses_match hready p hp
  have hfit : 0 < p.2.2.2 ∧ ea.toNat % 8 + p.2.2.2 ≤ 8 ∧ p.2.2.2 ≤ 8 := by
    rcases hsize with h | h | h | h <;> rw [h] at hal ⊢ <;> omega
  have haddr := addressPhase_plainAcc (ra := ra) hc hfit.2.2 hal hpage
  have hA : daHit s.csr (plainAcc s ra w p.2.2.1 p.2.2.2) ea pa = true ↔ A := daHit_iff rfl rfl
  have hV : dvHit s (plainAcc s ra w p.2.2.1 p.2.2.2) ea = true ↔ V := dvHit_plainAcc hfit.1 hfit.2.1
  have hfault := fun {ha hv} hAe hVe hstop {at'} hat =>
    (hmatches hal).fault (ha := ha) (hv := hv) hset haddr hAe hVe hstop (at' := at') hat
  have hphys : physical (s.dvaOf pa) := s.dvaOf_low pa
  have hnot : ∀ {b : Bool} {P : Prop}, (b = true ↔ P) → ¬P → b = false := fun h hn => Bool.eq_false_iff.2 (mt h.1 hn)
  have hen : s.dcEn 20 = s.csr.dcCtl.getLsbD 20 := rfl
  refine ⟨fun h20 ha hv => ?_, fun h20 ha hv => ?_, fun h20 ha hv => ?_, fun h20 ha hv => ?_, fun hno => ?_⟩
  · exact hfault (hA.2 ha) (hnot hV hv) (by rw [hen, h20]; simp) (at' := virtual) (by rw [hen, h20]; rfl)
  · exact hfault (hnot hA ha) (hV.2 hv) (by rw [hen, h20]; simp) (at' := physical) (by rw [hen, h20]; exact hphys)
  · exact hfault (hA.2 ha) (hV.2 hv) (by rw [hen, h20]; simp) (at' := virtual) (by rw [hen, h20]; rfl)
  · exact hfault (hA.2 ha) (hV.2 hv) (by rw [hen, h20]; simp) (at' := physical) (by rw [hen, h20]; exact hphys)
  · apply matchPhase_ok
    show if s.dcEn 20 then ¬(daHit s.csr (plainAcc s ra w p.2.2.1 p.2.2.2) ea pa = true ∧
      dvHit s (plainAcc s ra w p.2.2.1 p.2.2.2) ea = true) else ¬daHit s.csr (plainAcc s ra w p.2.2.1 p.2.2.2) ea pa = true ∧
      ¬dvHit s (plainAcc s ra w p.2.2.1 p.2.2.2) ea = true
    rw [hA, hV, hen]
    rcases hno with ⟨h20, hno⟩ | ⟨h20, hno⟩
    · rw [h20]
      exact hno
    · rw [h20]
      exact hno

end Sys2Proof.Machine

/-! ## Accesses to I/O space: settles O34 -/

namespace Sys2Proof.Machine

variable {s : State} {i : Instr} {ra rb : BitVec 5} {d : BitVec 16} {e : BitVec 12} {n : Nat}

/-! ### One request shown outside -/

/-- The device was read once: `w` is what it answered (R243, R256). -/
def ReadsDevice (s t : State) (a n : Nat) (w : W64) : Prop :=
  t.pc = s.pc + 4 ∧ t.csr = (s.count .read).csr ∧ sameMem s t ∧ t.out = .ioRead a n w :: s.out ∧
    w.toNat < 2 ^ (8 * n) ∧
    t = { s.unlock with pc := t.pc, x := t.x, sr := t.sr, v := t.v, csr := t.csr, ioWin := none, out := t.out }

/-- The device was written once (R243). -/
def WritesDevice (s t : State) (a n v : Nat) : Prop :=
  ∃ joined, retires s t .write ∧ sameMem s t ∧
    t.out = .ioWrite a n (BitVec.ofNat 64 (v % 2 ^ (8 * n))) joined :: s.out ∧ (n < 4 → joined = false) ∧
    t = { s.unlock with pc := t.pc, csr := t.csr, ioWin := t.ioWin, out := t.out }

/-- The sizes of a scalar access. -/
def ScalarSize (n : Nat) : Prop := n = 1 ∨ n = 2 ∨ n = 4 ∨ n = 8

/-- What a device answers fits the access. -/
theorem ioValue_lt (s : State) (a k : Nat) (hn : ScalarSize n) : (ioValue s a n k).toNat < 2 ^ (8 * n) := by
  have hmask : ∀ v : W64, (v &&& (BitVec.allOnes 64 >>> (64 - 8 * n))).toNat < 2 ^ (8 * n) := by
    intro v
    rw [BitVec.toNat_and]
    refine Nat.lt_of_le_of_lt Nat.and_le_right ?_
    rcases hn with rfl | rfl | rfl | rfl <;> decide
  unfold ioValue
  split
  · split
    next h =>
      rw [h.2]
      rw [BitVec.toNat_setWidth]
      exact Nat.lt_of_le_of_lt (Nat.mod_le _ _) (BitVec.isLt _)
    · exact hmask _
  · exact hmask _

/-- The state after the device was read, before the register is written. -/
def State.askedDevice (s : State) (a n : Nat) (w : W64) : State :=
  { s.unlock with ioWin := none, out := .ioRead a n w :: s.out }

/-- A load of I/O space reads the device. -/
theorem doLoad_io {a : Acc} {va : W64} {pa : PAddr} (hok : accessOk s a va pa) (hio : isIo pa = true) :
    doLoad s a va = .ok ((ioValue s.unlock (ioAddr (a.base pa)) a.size).toNat,
      s.askedDevice (ioAddr (a.base pa)) a.size (ioValue s.unlock (ioAddr (a.base pa)) a.size)) := by
  have harmed : s.unlock.armedData ≠ some .multiEcc := by
    show s.armedData ≠ _
    rw [hok.noError]
    decide
  rw [doLoad, dataPhase_of_accessOk hok]
  dsimp only
  rw [performRead]
  dsimp only
  rw [if_neg harmed, if_pos hio]
  rfl

/-- A load of I/O space that writes an integer register. -/
theorem readsDevice_setX {a : Nat} {w v : W64} (hw : w.toNat < 2 ^ (8 * n)) :
    let t := ((s.askedDevice a n w).setX ra v).retire .read
    ReadsDevice s t a n w ∧ writesOnlyX s t ra v ∧ t.v = s.v := by
  have hcsr : (((s.askedDevice a n w).setX ra v).count .read).csr = (s.count .read).csr :=
    State.count_csr_congr (by simp; rfl) (by simp [State.mode]; rfl) (by simp; rfl) (by simp; rfl) _
  have hx : (s.askedDevice a n w).setX ra v = { s.askedDevice a n w with
      x := (s.setX ra v).x, sr := (s.setX ra v).sr } := by
    obtain ⟨hx, hsr⟩ := State.setX_congr (s := s) (u := s.askedDevice a n w) ra v rfl rfl rfl
    rw [State.setX_eq, hx, hsr]
  refine ⟨⟨by simp; rfl, hcsr, fun b => by simp; rfl, by simp; rfl, hw, ?_⟩, ?_, by simp; rfl⟩
  · rw [State.retire_eq, hx]
    rfl
  · exact writesOnlyX_of (by rw [State.retire_x, hx]) (by rw [State.retire_sr, hx]) (by simp [State.mode]; rfl)
      (by rw [State.retire_csr]; simp; rfl) (by simp; rfl) (by simp; rfl)

/-- A floating register depends on the vector file alone. -/
theorem writesOnlyF_congr {t u : State} {fd : BitVec 5} {w : W64} (h : writesOnlyF s u fd w) (hv : t.v = u.v) :
    writesOnlyF s t fd w := by
  obtain ⟨hget, hother⟩ := h
  refine ⟨?_, fun j hj => by rw [hv]; exact hother j hj⟩
  unfold State.getF State.getV at hget ⊢
  rw [hv]
  exact hget

/-- A load of I/O space that writes a floating register. -/
theorem readsDevice_setF {a : Nat} {w v : W64} {b : Bool} (hw : w.toNat < 2 ^ (8 * n)) :
    let t := ((s.askedDevice a n w).setF ra v b).retire .read
    ReadsDevice s t a n w ∧ writesOnlyF s t ra v ∧ t.x = s.x ∧ t.sr = s.sr := by
  have hcsr : (((s.askedDevice a n w).setF ra v b).count .read).csr = (s.count .read).csr :=
    State.count_csr_congr (by simp; rfl) (by simp [State.mode]; rfl) (by simp; rfl) (by simp; rfl) _
  refine ⟨⟨by simp; rfl, hcsr, fun b => by simp; rfl, by simp; rfl, hw, ?_⟩, ?_, by simp; rfl, by simp; rfl⟩
  · rw [State.retire_eq]
    rfl
  · exact writesOnlyF_congr (writesOnlyF_setF s ra v b) (State.retire_v ..)

/-! ### Loads -/

/-- What a load from I/O space leaves in an integer register. -/
def IoLoad (s : State) (i : Instr) (ra : BitVec 5) (a n : Nat) : Prop :=
  ∃ t w, exec i s = .next t ∧ ReadsDevice s t a n w ∧
    writesOnlyX s t ra (if n = 4 then (w.setWidth 32).signExtend 64 else w) ∧ t.v = s.v

/-- The value a load puts in its register, of an answer that fits. -/
theorem loadValue_toNat (n : Nat) (w : W64) :
    loadValue n w.toNat = if n = 4 then (w.setWidth 32).signExtend 64 else w := by
  unfold loadValue
  split
  · rw [sextW, BitVec.ofNat_toNat]
  · rw [BitVec.ofNat_toNat, BitVec.setWidth_eq]

/-- A load that its checks let through to I/O space. -/
theorem loadX_io {a : Acc} {va : W64} {pa : PAddr} (hok : accessOk s a va pa) (hio : isIo pa = true)
    (hback : a.back = 0) (hsize : ScalarSize a.size) (hi : exec i s = loadX s a va) :
    IoLoad s i a.ra (ioAddr pa) a.size := by
  have hbase : a.base pa = pa := Acc.base_of_back hback pa
  have hload := readsDevice_setX (s := s) (ra := a.ra) (a := ioAddr pa)
    (v := loadValue a.size (ioValue s.unlock (ioAddr pa) a.size).toNat) (ioValue_lt s.unlock (ioAddr pa) 0 hsize)
  rw [loadValue_toNat] at hload
  refine ⟨_, _, ?_, hload⟩
  rw [hi, loadX, doLoad_io hok hio, hbase, settle, ← loadValue_toNat]

/-- See `loadX_io`. -/
theorem scalarLoad_io {pa : PAddr} (hready : ready s .none) (h31 : ra ≠ 31#5)
    (hok : accessOk s (loadAcc ra n) (s.ea16 rb d) pa) (hio : isIo pa = true) (hsize : ScalarSize n)
    (hi : exec i s = scalarLoad s ra rb d n) : IoLoad s i ra (ioAddr pa) n := by
  refine loadX_io hok hio rfl hsize ?_
  have hra : (loadAcc ra n).ra ≠ 31#5 := h31
  rw [hi, scalarLoad, plainStage_ready _ hready, loadXOr31, if_neg hra]

/-- LDL_U to I/O space, as the parameter says (R819, log 17). -/
theorem ldlU_io {pa : PAddr} (hready : ready s .none) (h31 : ra ≠ 31#5)
    (hok : accessOk s (loadAcc ra 8) (if s.par.ldlUChecksAlignment then s.ea16 rb d else s.ea16 rb d &&& ~~~7) pa)
    (hio : isIo pa = true) : IoLoad s (.ldlU ra rb d) ra (ioAddr pa) 8 := by
  refine loadX_io hok hio rfl (.inr (.inr (.inr rfl))) ?_
  have hra : (loadAcc ra 8).ra ≠ 31#5 := h31
  show execLdlU ra rb d s = _
  rw [execLdlU]
  split
  · rw [scalarLoad, plainStage_ready _ hready, loadXOr31, if_neg hra]
  · rw [plainStage_ready _ hready, loadXOr31, if_neg hra]

/-- A floating load from I/O space. -/
theorem loadF_io {a : Acc} {va : W64} {pa : PAddr} {cvt : Nat → W64} {c : W64 → W64} (hok : accessOk s a va pa)
    (hio : isIo pa = true) (hback : a.back = 0) (hsize : ScalarSize a.size) (h31 : a.ra ≠ 31#5)
    (hcvt : ∀ w : W64, cvt w.toNat = c w) (hi : exec i s = loadF s a va cvt) :
    ∃ t w, exec i s = .next t ∧ ReadsDevice s t (ioAddr pa) a.size w ∧ writesOnlyF s t a.ra (c w) ∧ t.x = s.x ∧
      t.sr = s.sr := by
  have hbase : a.base pa = pa := Acc.base_of_back hback pa
  refine ⟨_, _, ?_, readsDevice_setF (b := s.intData) (ioValue_lt s.unlock (ioAddr pa) 0 hsize)⟩
  rw [hi, loadF, if_neg h31, doLoad_io hok hio, hbase, settle]
  dsimp only
  rw [hcvt]

/-- A privileged load from I/O space. -/
theorem priLoad_io {f : AccForm} {pa : PAddr} (hready : ready s .none) (hm : s.mode = 0#2) (hio : isIo pa = true)
    (hsize : ScalarSize n) (hi : exec i s = priLoad s ra rb e f n) : let ea := s.ea12 rb e
    (ea.toNat % n = 0 → accessOk s (priLoadAcc ra f n) ea pa → IoLoad s i ra (ioAddr pa) n) ∧
    (ea.toNat % n ≠ 0 → accessOk s { priLoadAcc ra f n with back := ea.toNat % n } ea pa →
      ∃ t w v, exec i s = .next t ∧ ReadsDevice s t (ioAddr (pa - BitVec.ofNat 48 (ea.toNat % n))) n w ∧
        writesOnlyX s t ra v ∧ t.v = s.v) := by
  have hexec : exec i s = _ := hi.trans (by rw [priLoad, privStage_ready _ hready hm])
  intro ea
  refine ⟨fun hal hok => loadX_io hok hio rfl hsize ?_, fun hal hok => ?_⟩
  · rw [hexec]
    dsimp only
    rw [if_pos (show misBy n ea = 0 from hal)]
  · refine ⟨_, _, _, ?_, readsDevice_setX (v := Config.misLoad s.freeCtr)
      (ioValue_lt s.unlock (ioAddr (pa - BitVec.ofNat 48 (ea.toNat % n))) 0 hsize)⟩
    rw [hexec]
    dsimp only
    rw [if_neg (show misBy n ea ≠ 0 from hal), show misBy n ea = ea.toNat % n from rfl, doLoad_io hok hio]
    rfl

/-! ### Stores -/

/-- One write of a device. -/
theorem writesDevice_ioWrite (s : State) (a n v : Nat) : WritesDevice s ((s.unlock.ioWrite a n v).retire .write) a n v := by
  have hcsr : ((s.unlock.ioWrite a n v).count .write).csr = (s.count .write).csr :=
    State.count_csr_congr (by rfl) (by rfl) (by rfl) (by rfl) _
  refine ⟨_, ⟨State.retire_pc .., hcsr⟩, fun b => by rw [State.retire_mem]; rfl, State.retire_out .., fun hn => ?_, ?_⟩
  · have hjoin : ioMayJoin s.unlock a n = false := by
      unfold ioMayJoin
      split
      · rfl
      · rw [decide_eq_false (p := 4 ≤ n) (by omega)]
        simp
    rw [hjoin, Bool.false_and]
  · rw [State.retire_eq]
    rfl

/-- A store that its checks let through to I/O space. -/
theorem storeV_io {a : Acc} {va : W64} {pa : PAddr} {v : Nat} (hok : accessOk s { a with data := some v } va pa)
    (hR : a.isR = false) (hW : a.isW = true) (hio : isIo pa = true) (hbase : isIo (a.base pa) = true) :
    ∃ t, storeV s a va v = .next t ∧ WritesDevice s t (ioAddr (a.base pa)) a.size v := by
  have hplat : platformOk s (a.base pa) (a.isW && !a.isR) a.size = true := hok.platform
  have hlegal : ioLegal s.unlock true (ioAddr (a.base pa)) a.size = true := by
    rw [platformOk, if_pos hbase, hR, hW] at hplat
    exact hplat
  refine ⟨_, ?_, writesDevice_ioWrite s (ioAddr (a.base pa)) a.size v⟩
  rw [storeV, doStore, dataPhase_of_accessOk hok]
  dsimp only
  rw [performWrite]
  rw [if_pos hio, if_pos hlegal]
  rfl

/-- A translation keeps the offset in the page (R314). -/
theorem translateD_offset {f : AccForm} {r w : Bool} {va : W64} {pa : PAddr} (h : translateD s f r w va = .page pa) :
    pa.toNat % 8192 = va.toNat % 8192 := by
  have hlow : ∀ g : BitVec 2, ∀ x : Nat, x % 2 ^ (13 + 5 * g.toNat) % 8192 = x % 8192 := by
    intro g x
    exact Nat.mod_mod_of_dvd _ (show 2 ^ 13 ∣ _ from Nat.pow_dvd_pow 2 (Nat.le_add_right ..))
  have hva : (va.extractLsb' 0 48).toNat % 8192 = va.toNat % 8192 := by
    rw [BitVec.extractLsb'_toNat, Nat.shiftRight_zero]
    omega
  unfold translateD at h
  split at h
  · rw [← DataTrans.page.inj h, hva]
  · split at h
    · cases h
    · dsimp only at h
      split at h
      next x _ _ =>
        rw [← DataTrans.page.inj h, joinPage_toNat, BitVec.toNat_ofNat]
        have hdvd : 8192 ∣ 2 ^ (13 + 5 * x.gh.toNat) := show 2 ^ 13 ∣ _ from Nat.pow_dvd_pow 2 (Nat.le_add_right ..)
        have hmul : (x.pa ++ 0#13).toNat / 2 ^ (13 + 5 * x.gh.toNat) * 2 ^ (13 + 5 * x.gh.toNat) % 8192 = 0 :=
          Nat.mod_eq_zero_of_dvd (Nat.dvd_mul_left_of_dvd hdvd _)
        rw [Nat.mod_mod_of_dvd _ (by decide), Nat.add_mod, hmul, Nat.zero_add, Nat.mod_mod, hlow, hva]
      · cases h

/-- The aligned unit around an address of I/O space lies in it. -/
theorem isIo_unit {pa : PAddr} {va : W64} (hio : isIo pa = true) (hn : ScalarSize n)
    (hoff : pa.toNat % 8192 = va.toNat % 8192) : isIo (pa - BitVec.ofNat 48 (va.toNat % n)) = true := by
  have hbit : ∀ p : PAddr, isIo p = decide (2 ^ 47 ≤ p.toNat) := by
    intro p
    have hp := p.isLt
    rw [isIo, BitVec.getLsbD, Nat.testBit_eq_decide_div_mod_eq, decide_eq_decide]
    omega
  have hmod : va.toNat % n = pa.toNat % n := by
    rcases hn with rfl | rfl | rfl | rfl <;> omega
  have hp := pa.isLt
  rw [hbit, decide_eq_true_eq] at hio ⊢
  rw [hmod, BitVec.toNat_sub, BitVec.toNat_ofNat]
  rcases hn with rfl | rfl | rfl | rfl <;> omega

/-- A store to I/O space. -/
theorem scalarStore_io {pa : PAddr} (hready : ready s .none) (hio : isIo pa = true)
    (hi : exec i s = scalarStore s ra rb d n) (hok : accessOk s { storeAcc ra n with data := some (s.getX ra).toNat } (s.ea16 rb d) pa) :
    ∃ t, exec i s = .next t ∧ WritesDevice s t (ioAddr pa) n (s.getX ra).toNat := by
  have hbase : (storeAcc ra n).base pa = pa := Acc.base_of_back rfl pa
  have hstore := storeV_io (a := storeAcc ra n) hok rfl rfl hio (by rw [hbase]; exact hio)
  rw [hbase] at hstore
  rw [hi, scalarStore, plainStage_ready _ hready]
  exact hstore

/-- A floating store to I/O space. -/
theorem storeF_io {a : Acc} {va : W64} {pa : PAddr} {v : Nat} (hready : ready s .scalar) (hio : isIo pa = true)
    (hR : a.isR = false) (hW : a.isW = true) (hback : a.back = 0) {body : State → Host.Outcome State Fault Refusal}
    (hi : exec i s = decodeStage s true false .scalar body) (hb : body s = storeV s a va v)
    (hok : accessOk s { a with data := some v } va pa) :
    ∃ t, exec i s = .next t ∧ WritesDevice s t (ioAddr pa) a.size v := by
  have hbase : a.base pa = pa := Acc.base_of_back hback pa
  have hstore := storeV_io hok hR hW hio (by rw [hbase]; exact hio)
  rw [hbase] at hstore
  rw [hi, decodeStage_ready _ _ hready, hb]
  exact hstore

/-- A privileged store to I/O space. -/
theorem priStore_io {f : AccForm} {pa : PAddr} (hready : ready s .none) (hm : s.mode = 0#2) (hio : isIo pa = true)
    (hsize : ScalarSize n) (hi : exec i s = priStore s ra rb e f n) : let ea := s.ea12 rb e
    (ea.toNat % n = 0 → accessOk s { priStoreAcc ra f n with data := some (s.getX ra).toNat } ea pa →
      ∃ t, exec i s = .next t ∧ WritesDevice s t (ioAddr pa) n (s.getX ra).toNat) ∧
    (ea.toNat % n ≠ 0 → (∀ b, accessOk s { priStoreAcc ra f n with back := ea.toNat % n, data := some b } ea pa) →
      ∃ t b, exec i s = .next t ∧ WritesDevice s t (ioAddr (pa - BitVec.ofNat 48 (ea.toNat % n))) n b) := by
  have hexec : exec i s = _ := hi.trans (by rw [priStore, privStage_ready _ hready hm])
  intro ea
  refine ⟨fun hal hok => ?_, fun hal hok => ?_⟩
  · have hbase : (priStoreAcc ra f n).base pa = pa := Acc.base_of_back rfl pa
    have hstore := storeV_io (a := priStoreAcc ra f n) hok rfl rfl hio (by rw [hbase]; exact hio)
    rw [hbase] at hstore
    rw [hexec]
    dsimp only
    rw [if_pos (show misBy n ea = 0 from hal)]
    exact hstore
  · have hunit := isIo_unit hio hsize (translateD_offset (hok 0).maps)
    obtain ⟨t, hstore, hwrites⟩ := storeV_io (a := { priStoreAcc ra f n with back := ea.toNat % n })
      (hok (misBytes s.freeCtr n)) rfl rfl hio hunit
    refine ⟨t, _, ?_, hwrites⟩
    rw [hexec]
    dsimp only
    rw [if_neg (show misBy n ea ≠ 0 from hal)]
    exact hstore

/-- Settles O34: the loads and the stores, each form. -/
theorem ioAccesses : Obligations.IoAccesses := by
  intro s ra rb d e pa hio u reads writes sx below x
  have h1 : ScalarSize 1 := .inl rfl
  have h2 : ScalarSize 2 := .inr (.inl rfl)
  have h4 : ScalarSize 4 := .inr (.inr (.inl rfl))
  have h8 : ScalarSize 8 := .inr (.inr (.inr rfl))
  refine ⟨fun hready h31 => ?_, fun hready h31 => ⟨fun hok => ?_, fun hok => ?_⟩, fun hready => ?_, fun hready => ?_,
    fun hready hm => ⟨?_, ?_⟩⟩
  · simp only [List.forall_mem_cons]
    exact ⟨fun hok => scalarLoad_io hready h31 hok hio h1 rfl, fun hok => scalarLoad_io hready h31 hok hio h2 rfl,
      fun hok => scalarLoad_io hready h31 hok hio h4 rfl, fun hok => scalarLoad_io hready h31 hok hio h8 rfl,
      fun hok => ldlU_io hready h31 hok hio, List.forall_mem_nil _⟩
  · refine loadF_io (a := loadAcc ra 4) hok hio rfl h4 h31 (c := fun w => singleToReg (w.setWidth 32))
      (cvt := fun v => singleToReg (BitVec.ofNat 32 v)) (fun w => by rw [BitVec.ofNat_toNat]) ?_
    show execFlds ra rb d s = _
    rw [execFlds, decodeStage_ready _ _ (fldClass_of_ne h31 ▸ hready)]
  · refine loadF_io (a := loadAcc ra 8) hok hio rfl h8 h31 (c := fun w => w)
      (cvt := fun v => BitVec.ofNat 64 v) (fun w => by rw [BitVec.ofNat_toNat, BitVec.setWidth_eq]) ?_
    show execFldd ra rb d s = _
    rw [execFldd, decodeStage_ready _ _ (fldClass_of_ne h31 ▸ hready)]
  · simp only [List.forall_mem_cons]
    exact ⟨scalarStore_io hready hio rfl, scalarStore_io hready hio rfl, scalarStore_io hready hio rfl,
      scalarStore_io hready hio rfl, List.forall_mem_nil _⟩
  · simp only [List.forall_mem_cons]
    exact ⟨storeF_io (a := storeAcc ra 4) hready hio rfl rfl rfl (by rfl) (by rfl),
      storeF_io (a := storeAcc ra 8) hready hio rfl rfl rfl (by rfl) (by rfl), List.forall_mem_nil _⟩
  · simp only [List.forall_mem_cons]
    exact ⟨priLoad_io hready hm hio h4 rfl, priLoad_io hready hm hio h4 rfl, priLoad_io hready hm hio h4 rfl,
      priLoad_io hready hm hio h8 rfl, priLoad_io hready hm hio h8 rfl, priLoad_io hready hm hio h8 rfl,
      List.forall_mem_nil _⟩
  · simp only [List.forall_mem_cons]
    exact ⟨priStore_io hready hm hio h4 rfl, priStore_io hready hm hio h4 rfl, priStore_io hready hm hio h8 rfl,
      priStore_io hready hm hio h8 rfl, List.forall_mem_nil _⟩

end Sys2Proof.Machine

/-! ## The cache-control instructions: settles O50 -/

namespace Sys2Proof.Machine

variable {s : State} {i : Instr} {rb : BitVec 5} {d : BitVec 16} {f : AccForm} {pa : PAddr}

/-! ### Requests -/

/-- The request for a line left the core. -/
def SendsLine (s : State) (pa : PAddr) (t : State) (op : BitVec 3) (e : EventClass) : Prop :=
  retires s t e ∧ sameMem s t ∧ (e = .read → t.track = s.track) ∧ t = { s.unlock with
    pc := t.pc, csr := t.csr, track := t.track, out := .cacheOp op (memAddr pa / 128) :: s.out }

/-- A request and the retirement, whatever becomes of the tracked lines. -/
theorem sendsLine_retire {u : State} {op : BitVec 3} {e : EventClass}
    (hu : u = { sendCacheOp s pa op with track := u.track }) (htrack : e = .read → u.track = s.track) :
    SendsLine s pa (u.retire e) op e := by
  have hcsr : (u.count e).csr = (s.count e).csr := by
    rw [hu]
    exact State.count_csr_congr (by rfl) (by rfl) (by rfl) (by rfl) _
  refine ⟨⟨?_, hcsr⟩, fun a => ?_, fun he => ?_, ?_⟩
  · rw [State.retire_pc, hu]
    rfl
  · rw [State.retire_mem, hu]
    rfl
  · rw [State.retire_track, htrack he]
  · rw [State.retire_eq, hu]
    rfl

/-- Cleaning a line changes what is tracked of it alone. -/
theorem State.cleanLine_eq (s : State) (n : Nat) : s.cleanLine n = { s with track := (s.cleanLine n).track } := rfl

/-- The access of a cache-control instruction is of no illegal type. -/
theorem cacheAcc_legal : (cacheAcc s f).typeIllegal pa = false := by
  simp [Acc.typeIllegal, cacheAcc]

/-! ### Fills -/

/-- A fill that is sent. -/
theorem fetchLine_sent {op : BitVec 3} (hready : ready s .none) (hc : canonical (s.lineAddr rb d) = true)
    (hpage : translateD s .normal (cacheAcc s .normal).isR (cacheAcc s .normal).isW (s.lineAddr rb d) = .page pa)
    (hmem : isIo pa = false ∧ pa.getLsbD 46 = false)
    (hmatch : matchPhase s (cacheAcc s .normal) (s.lineAddr rb d) pa = .ok ())
    (hi : exec i s = fetchLine s rb d op) : ∃ t, exec i s = .next t ∧ SendsLine s pa t op .read := by
  refine ⟨(sendCacheOp s pa op).retire .read, ?_, sendsLine_retire rfl fun _ => rfl⟩
  rw [hi, fetchLine, plainStage_ready _ hready]
  dsimp only
  rw [hc, hpage]
  dsimp only
  rw [hmem.1, hmem.2, hmatch]
  rfl

/-- A fill of non-cacheable or I/O space (R235, R236). -/
theorem fetchLine_uncached {op : BitVec 3} (hready : ready s .none) (hc : canonical (s.lineAddr rb d) = true)
    (hpage : translateD s .normal (cacheAcc s .normal).isR (cacheAcc s .normal).isW (s.lineAddr rb d) = .page pa)
    (hsp : isIo pa = true ∨ pa.getLsbD 46 = true) (hi : exec i s = fetchLine s rb d op) :
    ∃ t, exec i s = .next t ∧ resultNone s t .nopRead := by
  refine ⟨_, ?_, resultNone_retire s .nopRead⟩
  rw [hi, fetchLine, plainStage_ready _ hready]
  dsimp only
  rw [hc, hpage]
  have hskip : (isIo pa || pa.getLsbD 46) = true := by rwa [Bool.or_eq_true]
  dsimp only
  rw [hskip]
  rfl

/-- A fill at a bad address is dropped (D19). -/
theorem fetchLine_badAddress {op : BitVec 3} (hready : ready s .none) (hc : canonical (s.lineAddr rb d) = false)
    (hi : exec i s = fetchLine s rb d op) : ∃ t, exec i s = .next t ∧ resultNone s t .nopRead := by
  refine ⟨_, ?_, resultNone_retire s .nopRead⟩
  rw [hi, fetchLine, plainStage_ready _ hready]
  dsimp only
  rw [hc]
  rfl

/-- A fill whose line misses the DTB (R470). -/
theorem fetchLine_miss {op : BitVec 3} (hready : ready s .none) (hc : canonical (s.lineAddr rb d) = true)
    (hmiss : translateD s .normal (cacheAcc s .normal).isR (cacheAcc s .normal).isW (s.lineAddr rb d) = .miss)
    (hi : exec i s = fetchLine s rb d op) :
    exec i s = if s.dcEn 16 then .next (s.dtbMiss (cacheAcc s .normal) (s.lineAddr rb d)) else .next (s.retire .nopRead) := by
  rw [hi, fetchLine, plainStage_ready _ hready]
  dsimp only
  rw [hc, hmiss]
  rfl

/-! ### Flushes and evicts -/

/-- The instruction flushes or evicts its line through an access of the form `f`, and CP_CTL lets it. -/
def Evicts (s : State) (i : Instr) (rb : BitVec 5) (d : BitVec 16) (f : AccForm) (op : BitVec 3) : Prop :=
  ∃ en, s.csr.cpCtl.getLsbD en = true ∧ exec i s = evictLine s rb d f en op

variable {op : BitVec 3}

/-- The address of an evict goes to the page it is on. -/
theorem addressPhase_cacheAcc {va : W64} (hc : f = .phys ∨ canonical va = true)
    (hpage : translateD s f (cacheAcc s f).isR (cacheAcc s f).isW va = .page pa) :
    addressPhase s (cacheAcc s f) va = .ok pa := by
  have hcanon : ¬((cacheAcc s f).form ≠ .phys ∧ (!canonical va) = true) := by
    rintro ⟨hform, hno⟩
    rcases hc with hc | hc
    · exact hform hc
    · rw [hc] at hno
      exact absurd hno (by decide)
  have hpage' : translateD s (cacheAcc s f).form (cacheAcc s f).isR (cacheAcc s f).isW va = .page pa := hpage
  have halign : va.toNat % (cacheAcc s f).align = 0 := Nat.mod_one _
  rw [addressPhase, if_neg hcanon, if_neg (not_not.2 halign), hpage']
  dsimp only
  rw [cacheAcc_legal]
  rfl

/-- What a flush or an evict does once its address is translated. -/
def evictPage (s : State) (a : Acc) (va : W64) (op : BitVec 3) (pa : PAddr) : Host.Outcome State Fault Refusal :=
  if isIo pa || pa.getLsbD 46 then .next (s.retire .nopWrite)
  else
    match matchPhase s a va pa with
    | .error t => .next t
    | .ok () =>
      if memAddr pa + 128 ≤ s.par.memSize then
        match evictResponse s a pa with
        | .error t => .next t
        | .ok t => .next (((sendCacheOp t pa op).cleanLine (memAddr pa / 128)).retire .write)
      else
        let e := s.unlock.requestError
        if s.dcEn 5 then .next (e.dfault a (setBit 0 12) (s.dvaOf pa)) else .next (e.retire .write)

/-- An evict whose address is sign-extended or physical. -/
theorem Evicts.exec_eq (h : Evicts s i rb d f op) (hready : ready s .none)
    (hc : f = .phys ∨ canonical (s.lineAddr rb d) = true) :
    exec i s = match addressPhase s (cacheAcc s f) (s.lineAddr rb d) with
      | .error t => if s.dcEn 5 then .next t else .next (s.retire .write)
      | .ok pa => evictPage s (cacheAcc s f) (s.lineAddr rb d) op pa := by
  obtain ⟨en, hen, hi⟩ := h
  have hcanon : ¬(f ≠ .phys ∧ (!canonical (s.lineAddr rb d)) = true) := by
    rintro ⟨hform, hno⟩
    rcases hc with hc | hc
    · exact hform hc
    · rw [hc] at hno
      exact absurd hno (by decide)
  rw [hi, evictLine, hen, decodeStage_ready _ _ hready]
  dsimp only
  rw [if_neg hcanon]
  rfl

/-- An evict of non-cacheable or I/O space (R392). -/
theorem Evicts.uncached (h : Evicts s i rb d f op) (hready : ready s .none)
    (hc : f = .phys ∨ canonical (s.lineAddr rb d) = true)
    (hpage : translateD s f (cacheAcc s f).isR (cacheAcc s f).isW (s.lineAddr rb d) = .page pa)
    (hsp : isIo pa = true ∨ pa.getLsbD 46 = true) : ∃ t, exec i s = .next t ∧ resultNone s t .nopWrite := by
  have hskip : (isIo pa || pa.getLsbD 46) = true := by rwa [Bool.or_eq_true]
  refine ⟨_, ?_, resultNone_retire s .nopWrite⟩
  rw [h.exec_eq hready hc, addressPhase_cacheAcc hc hpage]
  dsimp only
  rw [evictPage, if_pos hskip]

/-- An evict that is sent. -/
theorem Evicts.sent (h : Evicts s i rb d f op) (hready : ready s .none)
    (hc : f = .phys ∨ canonical (s.lineAddr rb d) = true)
    (hpage : translateD s f (cacheAcc s f).isR (cacheAcc s f).isW (s.lineAddr rb d) = .page pa)
    (hmem : isIo pa = false ∧ pa.getLsbD 46 = false ∧ memAddr pa + 128 ≤ s.par.memSize) (hnone : s.armedData = none)
    (hmatch : matchPhase s (cacheAcc s f) (s.lineAddr rb d) pa = .ok ()) :
    ∃ t, exec i s = .next t ∧ SendsLine s pa t op .write := by
  obtain ⟨hio, hnc, hsize⟩ := hmem
  have hgo : ¬(isIo pa || pa.getLsbD 46) = true := by rw [hio, hnc]; decide
  refine ⟨_, ?_, sendsLine_retire (State.cleanLine_eq (sendCacheOp s pa op) (memAddr pa / 128)) (fun he => nomatch he)⟩
  rw [h.exec_eq hready hc, addressPhase_cacheAcc hc hpage]
  dsimp only
  rw [evictPage, if_neg hgo, hmatch]
  dsimp only
  rw [if_pos hsize, evictResponse, hnone]

/-- An evict whose line misses the DTB (R470). -/
theorem Evicts.miss (h : Evicts s i rb d .normal op) (hready : ready s .none) (hc : canonical (s.lineAddr rb d) = true)
    (hmiss : translateD s .normal (cacheAcc s .normal).isR (cacheAcc s .normal).isW (s.lineAddr rb d) = .miss) :
    exec i s = if s.dcEn 5 then .next (s.dtbMiss (cacheAcc s .normal) (s.lineAddr rb d)) else .next (s.retire .write) := by
  have herr : addressPhase s (cacheAcc s .normal) (s.lineAddr rb d) =
      .error (s.dtbMiss (cacheAcc s .normal) (s.lineAddr rb d)) := by
    rw [addressPhase_of_aligned hc (Nat.mod_one _)]
    have hmiss' : translateD s (cacheAcc s .normal).form (cacheAcc s .normal).isR (cacheAcc s .normal).isW
      (s.lineAddr rb d) = .miss := hmiss
    rw [hmiss']
  rw [h.exec_eq hready (.inr hc), herr]

/-- An evict at a bad address (R546). -/
theorem Evicts.badAddress (h : Evicts s i rb d .normal op) (hready : ready s .none) (hset : settledCsr s 0x48)
    (hc : canonical (s.lineAddr rb d) = false) :
    ∃ t, exec i s = .next t ∧ faultsTo s t 0xC80 ∧ t.csr.dva = s.lineAddr rb d ∧ t.csr.dsStat.getLsbD 11 = true := by
  obtain ⟨en, hen, hi⟩ := h
  obtain ⟨hfault, hdva, -, -, -, hrest⟩ := raiseData_spec hset 0xC80 (cacheAcc s .normal).ra ((cacheAcc s .normal).wr s)
    s.csr.dsStat (setBit (errataFlags s (cacheAcc s .normal) (s.lineAddr rb d) none true) 11) (s.lineAddr rb d)
  refine ⟨_, ?_, hfault, hdva, ?_⟩
  · rw [hi, evictLine, hen, decodeStage_ready _ _ hready]
    dsimp only
    rw [if_pos ⟨by decide, by rw [hc]; rfl⟩]
    rfl
  · have h11 := congrArg (fun w : W64 => w.getLsbD 11) hrest
    have hmask : (~~~(0x3F1 : W64)).getLsbD 11 = true := by decide
    have hbit : ∀ w : W64, (setBit w 11).getLsbD 11 = true := by
      intro w
      rw [setBit, BitVec.getLsbD_or, BitVec.getLsbD_twoPow]
      simp
    rw [BitVec.getLsbD_and, BitVec.getLsbD_and, BitVec.getLsbD_or, hmask, hbit, Bool.and_true, Bool.and_true,
      Bool.or_true] at h11
    exact h11

/-- The flush and the evicts that CP_CTL enables, outside the physical form. -/
theorem evicts_of_mem (hi : i ∈ (if s.csr.cpCtl.getLsbD 4 then [Instr.evictdg rb d] else []) ++
    (if s.csr.cpCtl.getLsbD 3 then [.evictdl rb d] ++ (if s.mode = 0#2 then [] else [.flushd rb d]) else [])) :
    (∃ op, Evicts s i rb d .normal op) ∧ i ≠ .fetchd rb d ∧ i ≠ .fetchdE rb d := by
  rw [List.mem_append] at hi
  rcases hi with hi | hi
  · split at hi
    next hen =>
      obtain rfl := List.mem_singleton.1 hi
      exact ⟨⟨4, 4, hen, rfl⟩, Instr.noConfusion, Instr.noConfusion⟩
    · exact absurd hi List.not_mem_nil
  · split at hi
    next hen =>
      rw [List.mem_append] at hi
      rcases hi with hi | hi
      · obtain rfl := List.mem_singleton.1 hi
        exact ⟨⟨3, 3, hen, rfl⟩, Instr.noConfusion, Instr.noConfusion⟩
      · split at hi
        · exact absurd hi List.not_mem_nil
        next hm =>
          obtain rfl := List.mem_singleton.1 hi
          refine ⟨⟨2, 3, hen, ?_⟩, Instr.noConfusion, Instr.noConfusion⟩
          show execFlushd rb d s = _
          rw [execFlushd, State.inHm, decide_eq_false hm]
          rfl
    · exact absurd hi List.not_mem_nil

/-- A physical address that no class of DA_MATCH looks at. -/
theorem matchPhase_disabled {va : W64} (h : s.csr.daMatch.extractLsb' 53 2 = 0) :
    matchPhase s (cacheAcc s f) va pa = .ok () := by
  have h53 : s.csr.daMatch.getLsbD 53 = false := by
    have hb := BitVec.getLsbD_extractLsb' (start := 53) (len := 2) (x := s.csr.daMatch) (i := 0)
    rw [h] at hb
    simpa using hb.symm
  have h54 : s.csr.daMatch.getLsbD 54 = false := by
    have hb := BitVec.getLsbD_extractLsb' (start := 53) (len := 2) (x := s.csr.daMatch) (i := 1)
    rw [h] at hb
    simpa using hb.symm
  have hA : daHit s.csr (cacheAcc s f) va pa = false := by
    rw [daHit, daClass, h53, h54]
    simp
  have hV : dvHit s (cacheAcc s f) va = false := dvHit_of_noData rfl
  apply matchPhase_ok
  rw [hA, hV]
  simp

/-- The handler of a miss. -/
theorem dtbMiss_handler {a : Acc} (ha : a.form = .normal) (va : W64) :
    (s.dtbMiss a va).csr.dva = va ∧ faultsTo s (s.dtbMiss a va) (if va.getLsbD 52 then 0x900 else 0x880) := by
  rw [State.dtbMiss, if_neg (by rw [ha]; decide)]
  exact ⟨rfl, rfl, rfl⟩

/-- Settles O50: the fills, the flushes and the evicts, by what their line is. -/
theorem cacheOperations : Obligations.CacheOperations := by
  refine ⟨fun s rb d pa hready => ?_, fun s rb d hready => ?_⟩
  · intro va memory maps quiet sent
    have hevict : ∀ {i op}, Evicts s i rb d .normal op → memory → maps → quiet → s.armedData = none →
        ∃ t, exec i s = .next t ∧ sent t op .write := fun h hmem hmaps hquiet hnone =>
      h.sent hready (.inr hmaps.1) (hmaps.2 _ _) hmem hnone (hquiet _ _)
    have hphys : ∀ r w, pa = va.setWidth 48 → translateD s .phys r w va = .page pa := by
      intro r w hpa
      rw [translateD, if_pos (.inl rfl), hpa, BitVec.setWidth_eq_extractLsb' (by decide)]
    have hflush : s.csr.cpCtl.getLsbD 3 = true → s.mode = 0#2 → Evicts s (.flushd rb d) rb d .phys 2 := by
      intro hen hm
      refine ⟨3, hen, ?_⟩
      show execFlushd rb d s = _
      rw [execFlushd, State.inHm, decide_eq_true hm]
      rfl
    refine ⟨fun hmem hmaps hquiet => ⟨?_, ?_, fun hnone => ⟨fun hen => ?_, fun hen => ?_, fun hen hm => ?_⟩⟩,
      fun hmem hnone hen hm hda hpa => ?_, fun hsp hmaps i hi => ?_, fun hsp hen hm hpa => ?_⟩
    · exact fetchLine_sent hready hmaps.1 (hmaps.2 _ _) ⟨hmem.1, hmem.2.1⟩ (hquiet _ _) rfl
    · exact fetchLine_sent hready hmaps.1 (hmaps.2 _ _) ⟨hmem.1, hmem.2.1⟩ (hquiet _ _) rfl
    · exact hevict ⟨3, hen, rfl⟩ hmem hmaps hquiet hnone
    · exact hevict ⟨4, hen, rfl⟩ hmem hmaps hquiet hnone
    · refine hevict ⟨3, hen, ?_⟩ hmem hmaps hquiet hnone
      show execFlushd rb d s = _
      rw [execFlushd, State.inHm, decide_eq_false hm]
      rfl
    · exact (hflush hen hm).sent hready (.inl rfl) (hphys _ _ hpa) hmem hnone (matchPhase_disabled hda)
    · rw [List.append_assoc, List.mem_append] at hi
      rcases hi with hi | hi
      · have hfetch : i = .fetchd rb d ∨ i = .fetchdE rb d := by simpa using hi
        rw [if_pos hfetch]
        rcases hfetch with rfl | rfl
        · exact fetchLine_uncached hready hmaps.1 (hmaps.2 _ _) hsp rfl
        · exact fetchLine_uncached hready hmaps.1 (hmaps.2 _ _) hsp rfl
      · obtain ⟨⟨op, hev⟩, hne, hneE⟩ := evicts_of_mem hi
        rw [if_neg (not_or.2 ⟨hne, hneE⟩)]
        exact hev.uncached hready (.inr hmaps.1) (hmaps.2 _ _) hsp
    · exact (hflush hen hm).uncached hready (.inl rfl) (hphys _ _ hpa) hsp
  · intro va misses handler
    have hmissed : ∀ {i op}, exec i s = fetchLine s rb d op →
        (canonical va = false → ∃ t, exec i s = .next t ∧ resultNone s t .nopRead) ∧
        (misses → s.csr.dcCtl.getLsbD 16 = false → ∃ t, exec i s = .next t ∧ resultNone s t .nopRead) ∧
        (misses → s.csr.dcCtl.getLsbD 16 = true → ∃ t, exec i s = .next t ∧ handler t) := by
      intro i op hi
      refine ⟨fun hc => fetchLine_badAddress hready hc hi, fun hmiss hen => ?_, fun hmiss hen => ?_⟩
      · refine ⟨_, ?_, resultNone_retire s .nopRead⟩
        rw [fetchLine_miss hready hmiss.1 (hmiss.2 _ _) hi, State.dcEn, hen]
        rfl
      · refine ⟨_, ?_, dtbMiss_handler (a := cacheAcc s .normal) rfl va⟩
        rw [fetchLine_miss hready hmiss.1 (hmiss.2 _ _) hi, State.dcEn, hen]
        rfl
    refine ⟨?_, fun i hi => ?_⟩
    · simp only [List.forall_mem_cons]
      exact ⟨hmissed (op := 0) rfl, hmissed (op := 1) rfl, List.forall_mem_nil _⟩
    · obtain ⟨⟨op, hev⟩, -⟩ := evicts_of_mem hi
      refine ⟨fun hmiss hen => ?_, fun hmiss hen => ?_, fun hc hset => hev.badAddress hready hset hc⟩
      · refine ⟨_, ?_, resultNone_retire s .write⟩
        rw [hev.miss hready hmiss.1 (hmiss.2 _ _), State.dcEn, hen]
        rfl
      · refine ⟨_, ?_, dtbMiss_handler (a := cacheAcc s .normal) rfl va⟩
        rw [hev.miss hready hmiss.1 (hmiss.2 _ _), State.dcEn, hen]
        rfl

end Sys2Proof.Machine

/-! ## Coherence, reset and wake-up: settles O58, O60 -/

namespace Sys2Proof.Machine

/-- What stays of a way when the lines of one physical line are dropped (R234). -/
theorem icDropLine_way (line : Nat) (sets : Vector IcSet 64) (k : Fin 64) (w : Fin 4) (l : IcLine) :
    ((icDropLine line sets)[k]).ways[w] = some l ↔ (sets[k]).ways[w] = some l ∧ l.pline.toNat ≠ line := by
  have hway : ((icDropLine line sets)[k]).ways[w] =
      if ((sets[k]).ways[w]).any (fun l => decide (l.pline.toNat = line)) then none else (sets[k]).ways[w] := by
    simp [icDropLine]
  rw [hway]
  cases (sets[k]).ways[w] with
  | none => simp
  | some x =>
    by_cases hx : x.pline.toNat = line
    · simp only [Option.any_some, hx, decide_true, if_true, Option.some.injEq]
      exact ⟨fun h => (nomatch h), fun ⟨h, hne⟩ => absurd (h ▸ hx) hne⟩
    · simp only [Option.any_some, hx, decide_false, Bool.false_eq_true, if_false, Option.some.injEq]
      exact ⟨fun h => ⟨h, h ▸ hx⟩, fun h => h.1⟩

/-- The instruction cache after a store (R234, R266). -/
theorem State.store_icache (s : State) (a n v : Nat) : (s.store a n v).icache =
    if s.scEn 20 then icDropLine ((a + n - 1) / 128) (icDropLine (a / 128) s.icache) else s.icache := rfl

/-- Settles O58: a store inside one line drops the lines that hold it. -/
theorem storeCoherence : Obligations.StoreCoherence := by
  intro s a n v k w hn hline
  have hsame : (a + n - 1) / 128 = a / 128 := by omega
  refine ⟨fun hoff => ?_, fun hon l => ?_⟩
  · rw [State.store_icache, State.scEn, hoff]
    rfl
  · rw [State.store_icache, State.scEn, if_pos hon, hsame, icDropLine_way, icDropLine_way, and_assoc, and_self]

/-- Settles O60: the values of the reset, and what a wake-up keeps. -/
theorem resetAndWakeUp : Obligations.ResetAndWakeUp := by
  refine ⟨?_, fun s hsleep hoff => ?_, fun s hsleep hon => ?_⟩
  · exact ⟨rfl, by decide, fun _ => rfl, by decide, rfl, by decide, rfl, rfl, rfl, rfl, rfl, by decide, rfl, rfl, rfl, rfl,
      fun u m => ⟨u.coldReset_pc m, u.coldReset_mem m⟩⟩
  · rw [applyInput, if_pos hsleep, hoff]
    rfl
  · intro t
    have ht : t = s.wakeReset := by
      show applyInput s .wakeUp = _
      rw [applyInput, if_pos hsleep, hon]
      rfl
    obtain ⟨hcsr, hkeep⟩ := s.wakeReset_cases
    have htimer : s.wakeReset.timer = 0 := by
      unfold State.wakeReset
      dsimp only
      split <;> rfl
    rw [ht]
    refine ⟨s.wakeReset_power, s.wakeReset_pc, ?_, by rw [hcsr]; rfl, by rw [hcsr]; rfl, by rw [hcsr]; rfl,
      by rw [hcsr]; rfl, hkeep, by rw [hcsr]; rfl, by rw [hcsr]; rfl, by rw [hcsr]; rfl, by rw [hcsr]; rfl,
      fun a => by rw [s.wakeReset_mem], s.wakeReset_dtb, fun k => by rw [s.wakeReset_itb]; simp,
      fun k w => by rw [s.wakeReset_icache]; simp, by rw [hcsr]; rfl, by rw [hcsr]; rfl, htimer⟩
    unfold State.mode
    rw [s.wakeReset_pc]
    exact (entry_mode s 0x1000).trans (by decide)

end Sys2Proof.Machine

/-! ## Interrupts at a boundary: settles O7 -/

namespace Sys2Proof.Machine

/-- Undoing a write of another register changes no interrupt register (R745). -/
theorem CsrWrite.undo_of_other {w : CsrWrite} (h : interruptCsr w.idx = false) (regs : Csrs) : w.undo regs = regs := by
  unfold interruptCsr at h
  unfold CsrWrite.undo
  generalize csrName w.idx = name at h
  split
  next => exact (Bool.noConfusion h)
  next => exact (Bool.noConfusion h)
  next => exact (Bool.noConfusion h)
  next => exact (Bool.noConfusion h)
  next => rfl

/-- Where no write of the interrupt registers waits, the interrupt logic sees them as they are (R745). -/
theorem State.interruptView_of_settled {s : State} (h : settledInterrupts s) : s.interruptView = s.csr := by
  have hsees : ∀ (l : List CsrWrite) (n : Nat), (∀ w ∈ l, interruptCsr w.idx = false) →
      seenInterrupts s.freeCtr s.csr n l = s.csr := by
    intro l
    induction l with
    | nil => exact fun _ _ => rfl
    | cons w l ih =>
      intro n hl
      obtain ⟨hw, hl⟩ := List.forall_mem_cons.1 hl
      rw [seenInterrupts, CsrWrite.undo_of_other hw, ite_self]
      exact ih _ hl
  exact hsees _ _ h

/-- A request that is pending and enabled (R592). -/
theorem Csrs.candidate_iff (regs : Csrs) (vec : BitVec 8) :
    regs.candidate vec = true ↔ regs.raw.getLsbD vec.toNat = true ∧ regs.ier.getLsbD vec.toNat = true :=
  Bool.and_eq_true_iff

/-- A nonzero vector has a bit. -/
theorem ne_zero_iff_exists_getLsbD {m : Nat} (w : BitVec m) : w ≠ 0 ↔ ∃ n, n < m ∧ w.getLsbD n = true := by
  constructor
  · intro h
    by_contra hno
    refine h (BitVec.eq_of_getLsbD_eq fun n hn => ?_)
    rw [Bool.eq_false_iff.2 fun hb => hno ⟨n, hn, hb⟩]
    exact BitVec.getLsbD_zero.symm
  · rintro ⟨n, hn, hb⟩ rfl
    exact absurd hb (by simp)

/-- A general request is pending and enabled (R606). -/
theorem Csrs.generalRequests_iff (regs : Csrs) : regs.generalRequests ≠ 0 ↔
    ∃ n, n < 256 ∧ n ≠ regs.mchkVec.toNat ∧ n ≠ regs.sleepVec.toNat ∧ regs.raw.getLsbD n = true ∧
      regs.ier.getLsbD n = true := by
  rw [ne_zero_iff_exists_getLsbD]
  refine exists_congr fun n => and_congr_right fun hn => ?_
  unfold Csrs.generalRequests
  simp only [BitVec.getLsbD_and, BitVec.getLsbD_not, BitVec.getLsbD_twoPow, hn, decide_true, Bool.true_and,
    Bool.and_eq_true, Bool.not_eq_true', (regs.mchkVec).isLt, (regs.sleepVec).isLt, decide_eq_false_iff_not]
  constructor
  · rintro ⟨⟨⟨hraw, hier⟩, hmchk⟩, hsleep⟩
    exact ⟨Ne.symm hmchk, Ne.symm hsleep, hraw, hier⟩
  · rintro ⟨hmchk, hsleep, hraw, hier⟩
    exact ⟨⟨⟨hraw, hier⟩, Ne.symm hmchk⟩, Ne.symm hsleep⟩

/-- The low half word of a register, masked or cut out. -/
theorem and_lowHalf_ne_zero (w : W64) : w &&& 0xFFFF ≠ 0 ↔ w.extractLsb' 0 16 ≠ 0 := by
  rw [ne_zero_iff_exists_getLsbD, ne_zero_iff_exists_getLsbD]
  have hmask : ∀ n, n < 64 → (0xFFFF : W64).getLsbD n = decide (n < 16) := by decide
  constructor
  · rintro ⟨n, hn, hb⟩
    rw [BitVec.getLsbD_and, hmask n hn, Bool.and_eq_true, decide_eq_true_eq] at hb
    exact ⟨n, hb.2, by rw [BitVec.getLsbD_extractLsb', decide_eq_true hb.2, Bool.true_and, Nat.zero_add, hb.1]⟩
  · rintro ⟨n, hn, hb⟩
    rw [BitVec.getLsbD_extractLsb', decide_eq_true hn, Bool.true_and, Nat.zero_add] at hb
    exact ⟨n, by omega, by rw [BitVec.getLsbD_and, hmask n (by omega), hb, decide_eq_true hn, Bool.true_and]⟩

/-- An inter-core interrupt or a mail is pending and enabled (R606). -/
theorem Csrs.interCorePending_iff (regs : Csrs) : regs.interCorePending = true ↔
    (regs.iiEr.getLsbD 0 = true ∧ regs.ii0.extractLsb' 0 16 ≠ 0) ∨
      (regs.iiEr.getLsbD 1 = true ∧ regs.ii1.extractLsb' 0 16 ≠ 0) ∨
      (regs.iiEr.getLsbD 2 = true ∧ 0 < (regs.iiMail.extractLsb' 0 6).toInt) := by
  unfold Csrs.interCorePending
  rw [Bool.or_eq_true, Bool.or_eq_true, Bool.and_eq_true, Bool.and_eq_true, Bool.and_eq_true, decide_eq_true_eq,
    decide_eq_true_eq, decide_eq_true_eq, and_lowHalf_ne_zero, and_lowHalf_ne_zero, or_assoc]

/-- Every interrupt entry is aligned, so in HM (R524). -/
theorem pendingEntry_aligned {s : State} {off : BitVec 16} (h : pendingEntry s = some off) : off.extractLsb' 0 2 = 0#2 := by
  unfold pendingEntry at h
  dsimp only at h
  split at h
  · cases h
  · split at h
    · cases h; decide
    · split at h
      · cases h; decide
      · split at h
        · cases h; decide
        · split at h
          · cases h; decide
          · cases h

/-- The REG field of EXC_SUM replaced (R606). -/
theorem putField_reg (w : W64) (r : BitVec 5) :
    putField w 8 r = (w &&& ~~~(0x1F00 : W64)) ||| (r.setWidth 64 <<< 8) := by
  have hmask : ∀ n, n < 64 → (~~~(0x1F00 : W64)).getLsbD n = !decide (8 ≤ n ∧ n < 13) := by decide
  apply BitVec.eq_of_getLsbD_eq
  intro n hn
  rw [getLsbD_putField _ _ _ (by decide), BitVec.getLsbD_or, BitVec.getLsbD_and, hmask n hn, BitVec.getLsbD_shiftLeft,
    BitVec.getLsbD_setWidth, decide_eq_true hn]
  by_cases hr : 8 ≤ n ∧ n < 13
  · rw [if_pos hr, decide_eq_true hr, decide_eq_false (by omega : ¬n < 8), decide_eq_true (by omega : n - 8 < 64)]
    simp
  · rw [if_neg hr, decide_eq_false hr]
    by_cases hlow : n < 8
    · simp [hlow]
    · have hhigh : r.getLsbD (n - 8) = false := BitVec.getLsbD_of_ge _ _ (by omega)
      rw [hhigh]
      simp

/-- Settles O7: the priorities, and the entry. -/
theorem interruptEntries : Obligations.InterruptEntries := by
  refine ⟨fun s hset => ?_, fun s off hrun hentry => ?_⟩
  · intro on mchk sleep int1 int0
    have hm : s.csr.candidate s.csr.mchkVec = true ↔ mchk := s.csr.candidate_iff _
    have hs : s.csr.candidate s.csr.sleepVec = true ↔ sleep := s.csr.candidate_iff _
    have h1 : s.csr.generalRequests ≠ 0 ↔ int1 := s.csr.generalRequests_iff
    have h0 : s.csr.interCorePending = true ↔ int0 := s.csr.interCorePending_iff
    have hentry : pendingEntry s = if s.mode = 0#2 then none else if s.csr.candidate s.csr.mchkVec then some 0xF80
        else if s.csr.candidate s.csr.sleepVec then some 0xF00 else if s.csr.generalRequests ≠ 0 then some 0xE80
        else if s.csr.interCorePending then some 0xE00 else none := by
      unfold pendingEntry
      simp only [State.interruptView_of_settled hset, State.inHm, decide_eq_true_eq]
    rw [hentry]
    refine ⟨fun hhm => if_pos hhm, fun hhm hmc => ?_, fun hhm hmc hsl => ?_, fun hhm hmc hsl hi1 => ?_,
      fun hhm hmc hsl hi1 hi0 => ?_, fun hhm hmc hsl hi1 hi0 => ?_⟩
    · rw [if_neg hhm, if_pos (hm.2 hmc)]
    · rw [if_neg hhm, if_neg (mt hm.1 hmc), if_pos (hs.2 hsl)]
    · rw [if_neg hhm, if_neg (mt hm.1 hmc), if_neg (mt hs.1 hsl), if_pos (h1.2 hi1)]
    · rw [if_neg hhm, if_neg (mt hm.1 hmc), if_neg (mt hs.1 hsl), if_neg (mt h1.1 hi1), if_pos (h0.2 hi0)]
    · rw [if_neg hhm, if_neg (mt hm.1 hmc), if_neg (mt hs.1 hsl), if_neg (mt h1.1 hi1), if_neg (mt h0.1 hi0)]
  · refine ⟨s.interrupt off, s.freeReg, by rw [afterBoundary, hrun, hentry],
      (entry_mode s off).trans (pendingEntry_aligned hentry), ?_⟩
    rw [State.interrupt, putField_reg]
    rfl

end Sys2Proof.Machine

/-! ## The event counters and the timer: settles O57 -/

namespace Sys2Proof.Machine

/-- The counting condition of O57 (R113, R651). -/
theorem countsUnder_iff (m : BitVec 2) (en : Nat) (w : W64) : countsUnder m en w = true ↔ w.getLsbD en = true ∧
    (w.getLsbD 10 = true ∨ (w.getLsbD 11 = true ∧ m = w.extractLsb' 12 2)) := by
  rw [countsUnder, Bool.and_eq_true, Bool.or_eq_true, Bool.and_eq_true, decide_eq_true_eq]

/-- A counter of 58 bits after `n` more events (R651). -/
theorem bumpCounter_spec (w : W64) (n : Nat) :
    ((bumpCounter w n).extractLsb' 0 58).toNat = ((w.extractLsb' 0 58).toNat + n) % 2 ^ 58 ∧
      (bumpCounter w n).extractLsb' 58 6 = w.extractLsb' 58 6 := by
  have hlow : (bumpCounter w n).extractLsb' 0 58 = BitVec.ofNat 58 ((w.extractLsb' 0 58).toNat + n) := by
    apply BitVec.eq_of_getLsbD_eq
    intro j hj
    rw [BitVec.getLsbD_extractLsb', bumpCounter, getLsbD_putField _ _ _ (by decide), if_pos (by omega),
      decide_eq_true hj, Nat.zero_add, Nat.sub_zero, Bool.true_and]
  refine ⟨by rw [hlow, BitVec.toNat_ofNat], ?_⟩
  apply BitVec.eq_of_getLsbD_eq
  intro j hj
  rw [BitVec.getLsbD_extractLsb', BitVec.getLsbD_extractLsb', bumpCounter, getLsbD_putField _ _ _ (by decide),
    if_neg (by omega)]

/-- The selectors of counter 0 (R652, D27). -/
theorem EventClass.counts_spec (e : EventClass) :
    (e.counts 0 = true ↔ e ∉ [EventClass.nop, .nopRead, .nopWrite]) ∧
      (e.counts 1 = true ↔ e ∈ [EventClass.read, .write, .nopRead, .nopWrite]) ∧
      (e.counts 2 = true ↔ e = .read ∨ e = .nopRead) ∧
      (e.counts 3 = true ↔ e ∈ [EventClass.conditional, .unconditional, .call, .ret, .jump]) ∧
      (e.counts 4 = true ↔ e = .conditional) ∧ (e.counts 5 = true ↔ e = .unconditional) ∧
      (e.counts 6 = true ↔ e = .call) ∧ (e.counts 7 = true ↔ e = .ret) := by
  cases e <;> decide

/-- A selector beyond 7 counts no instruction. -/
theorem EventClass.counts_of_ge (e : EventClass) {n : Nat} (h : 8 ≤ n) : e.counts n = false := by
  obtain ⟨k, rfl⟩ := Nat.exists_eq_add_of_le' h
  rfl

/-- What `n` events of counter 0 do (R651). -/
theorem State.addPc0_spec (s : State) (n : Nat) : let t := s.addPc0 n
    (s.counting 14 = true → (t.csr.pc0Cr.extractLsb' 0 58).toNat = ((s.csr.pc0Cr.extractLsb' 0 58).toNat + n) % 2 ^ 58 ∧
      t.csr.pc0Cr.extractLsb' 58 6 = s.csr.pc0Cr.extractLsb' 58 6 ∧
      t.csr.raw = (if 2 ^ 58 ≤ (s.csr.pc0Cr.extractLsb' 0 58).toNat + n then
        s.csr.raw ||| BitVec.twoPow 256 s.csr.pc0Vec.toNat else s.csr.raw) ∧
      t = { s with csr := { s.csr with pc0Cr := t.csr.pc0Cr, raw := t.csr.raw } }) ∧
    (s.counting 14 = false → t = s) := by
  refine ⟨fun hon => ?_, fun hoff => ?_⟩
  · have hcr : (s.addPc0 n).csr.pc0Cr = bumpCounter s.csr.pc0Cr n := by
      rw [State.addPc0, hon]
      rfl
    obtain ⟨hlow, hhigh⟩ := bumpCounter_spec s.csr.pc0Cr n
    refine ⟨by rw [hcr, hlow], by rw [hcr, hhigh], ?_, rfl⟩
    rw [State.addPc0, hon, Bool.true_and]
    exact if_congr decide_eq_true_iff rfl rfl
  · rw [State.addPc0, hoff]
    rfl

/-- What `n` events of counter 1 do (R651). -/
theorem State.addPc1_spec (s : State) (n : Nat) : let t := s.addPc1 n
    (s.counting 15 = true → (t.csr.pc1Cr.extractLsb' 0 58).toNat = ((s.csr.pc1Cr.extractLsb' 0 58).toNat + n) % 2 ^ 58 ∧
      t.csr.pc1Cr.extractLsb' 58 6 = s.csr.pc1Cr.extractLsb' 58 6 ∧
      t.csr.raw = (if 2 ^ 58 ≤ (s.csr.pc1Cr.extractLsb' 0 58).toNat + n then
        s.csr.raw ||| BitVec.twoPow 256 s.csr.pc1Vec.toNat else s.csr.raw) ∧
      t = { s with csr := { s.csr with pc1Cr := t.csr.pc1Cr, raw := t.csr.raw } }) ∧
    (s.counting 15 = false → t = s) := by
  refine ⟨fun hon => ?_, fun hoff => ?_⟩
  · have hcr : (s.addPc1 n).csr.pc1Cr = bumpCounter s.csr.pc1Cr n := by
      rw [State.addPc1, hon]
      rfl
    obtain ⟨hlow, hhigh⟩ := bumpCounter_spec s.csr.pc1Cr n
    refine ⟨by rw [hcr, hlow], by rw [hcr, hhigh], ?_, rfl⟩
    rw [State.addPc1, hon, Bool.true_and]
    exact if_congr decide_eq_true_iff rfl rfl
  · rw [State.addPc1, hoff]
    rfl

/-- The cycles that pass, where counter 0 does not count them (R620). -/
theorem State.passCycles_timer {s : State} {n : Nat} (hsel : s.csr.pc0Sel ≠ 8) : let t := s.passCycles n
    t.timer = (if s.csr.timerCtl.getLsbD 0 then s.timer + BitVec.ofNat 64 n else s.timer) ∧
      t.csr.raw = orRaw s.csr.raw s.csr.timerVec (timerFires s n) ∧
      t.csr.timerCtl = if timerFires s n then clrBit s.csr.timerCtl 0 else s.csr.timerCtl := by
  rw [State.passCycles, if_neg hsel]
  exact ⟨rfl, rfl, rfl⟩

/-- When the timer fires (R620). -/
theorem timerFires_iff (s : State) (n : Nat) : timerFires s n = true ↔
    s.csr.timerCtl.getLsbD 0 = true ∧ 0 < n ∧ s.csr.timerTh.toNat ≤ s.timer.toNat + n := by
  rw [timerFires, Bool.and_eq_true, Bool.and_eq_true, decide_eq_true_eq, decide_eq_true_eq, and_assoc]

/-- Bit 0 alone. -/
theorem and_one_of_bit {w : W64} (h : w.getLsbD 0 = true) : w &&& 1 = 1 := by
  have hone : ∀ j, j < 64 → (1 : W64).getLsbD j = decide (j = 0) := by decide
  apply BitVec.eq_of_getLsbD_eq
  intro j hj
  rw [BitVec.getLsbD_and, hone j hj]
  by_cases h0 : j = 0
  · rw [h0, h]
    rfl
  · rw [decide_eq_false h0, Bool.and_false]

/-- A write of TIMER_CTL that starts the timer (R620). -/
theorem writeCsr_timerCtl_start {s t : State} {d : W64} (hw : writeCsr s 0x2A d = .ok t)
    (hoff : s.csr.timerCtl.getLsbD 0 = false) (hon : d.getLsbD 0 = true) : t.timer = 0 ∧ t.csr.timerCtl = 1 := by
  have hstart : writeCsr s 0x2A d =
      .ok (if !s.csr.timerCtl.getLsbD 0 && d.getLsbD 0 then
        { s with csr := { s.csr with timerCtl := d &&& 1 }, timer := 0 } else
        { s with csr := { s.csr with timerCtl := d &&& 1 } }) := rfl
  rw [hstart, hoff, hon] at hw
  obtain rfl := Except.ok.inj hw
  exact ⟨rfl, and_one_of_bit hon⟩

/-- Settles O57: the selectors, the two counters and the timer. -/
theorem countersAndTimer : Obligations.CountersAndTimer := by
  refine ⟨fun e => ?_, fun s e hset => ?_, fun s n hset => ?_, fun s n d hsel => ?_⟩
  · obtain ⟨h0, h1, h2, h3, h4, h5, h6, h7⟩ := e.counts_spec
    exact ⟨h0, h1, h2, h3, h4, h5, h6, h7, fun n hn => e.counts_of_ge hn⟩
  · intro on c
    have hon : s.counting 14 = true ↔ on := by
      rw [State.counting_of_settled hset, countsUnder_iff]
    obtain ⟨hcount, hstill⟩ := s.addPc0_spec 1
    refine ⟨fun h => ?_, fun h => ?_⟩
    · have hadd : s.count e = s.addPc0 1 := if_pos h.1
      have hc := (s.csr.pc0Cr.extractLsb' 0 58).isLt
      obtain ⟨hlow, hhigh, hraw, hframe⟩ := hcount (hon.2 h.2)
      rw [hadd]
      refine ⟨hlow, hhigh, hraw.trans (if_congr ?_ rfl rfl), hframe⟩
      show 2 ^ 58 ≤ c + 1 ↔ c = 2 ^ 58 - 1
      have hlt : c < 2 ^ 58 := hc
      omega
    · by_cases hsel : e.counts s.csr.pc0Sel = true
      · have hadd : s.count e = s.addPc0 1 := if_pos hsel
        rw [hadd]
        exact hstill (Bool.eq_false_iff.2 fun hcnt => h ⟨hsel, hon.1 hcnt⟩)
      · exact if_neg hsel
  · intro on c t
    have hon : s.counting 15 = true ↔ on := by
      rw [State.counting_of_settled hset, countsUnder_iff]
    obtain ⟨hcount, hstill⟩ := s.addPc1_spec n
    exact ⟨fun h => hcount (hon.2 h), fun h => hstill (Bool.eq_false_iff.2 (mt hon.1 h))⟩
  · obtain ⟨htimer, hraw, hctl⟩ := State.passCycles_timer (s := s) (n := n) hsel
    refine ⟨fun hoff => ?_, fun hon => ⟨?_, fun hn hreach => ?_, fun hbelow => ?_⟩, fun t hw hoff hon => ?_⟩
    · have hfire : timerFires s n = false := Bool.eq_false_iff.2 fun h =>
        Bool.false_ne_true (hoff.symm.trans ((timerFires_iff s n).1 h).1)
      rw [htimer, hraw, hoff, hfire]
      exact ⟨rfl, rfl⟩
    · rw [htimer, if_pos hon]
    · have hfire : timerFires s n = true := (timerFires_iff s n).2 ⟨hon, hn, hreach⟩
      have hvec := s.csr.timerVec.isLt
      rw [hraw, hctl, hfire, orRaw, if_pos rfl, if_pos rfl, BitVec.getLsbD_or, BitVec.getLsbD_twoPow, clrBit,
        BitVec.getLsbD_and, BitVec.getLsbD_not, BitVec.getLsbD_twoPow]
      simp [hvec]
    · have hfire : timerFires s n = false := Bool.eq_false_iff.2 fun h =>
        absurd ((timerFires_iff s n).1 h).2.2 (by omega)
      rw [hraw, hctl, hfire]
      exact ⟨rfl, rfl⟩
    · exact writeCsr_timerCtl_start hw hoff hon

end Sys2Proof.Machine

/-! ## PRI_WCSR: settles O28 -/

namespace Sys2Proof.Machine

/-- The ways that the SET_EN of a register enables: 0 where it has none (R152, R170). -/
def setEnWays : CsrName → Nat
  | .dcCtl => 4
  | .scCtl => 8
  | _ => 0

/-- The two indices with a SET_EN. -/
theorem setEnWays_csrName : ∀ i : BitVec 8,
    setEnWays (csrName i) = if i = 0x4A#8 then 4 else if i = 0x80#8 then 8 else 0 := by
  decide +kernel

/-- The one index of DC_CTL. -/
theorem eq_of_csrName_dcCtl {i : BitVec 8} (h : csrName i = .dcCtl) : i = 0x4A#8 := by
  have hways := setEnWays_csrName i
  rw [h] at hways
  by_contra hne
  rw [if_neg hne] at hways
  split at hways <;> exact absurd hways (by decide)

/-- The one index of SC_CTL. -/
theorem eq_of_csrName_scCtl {i : BitVec 8} (h : csrName i = .scCtl) : i = 0x80#8 := by
  have hways := setEnWays_csrName i
  rw [h] at hways
  by_contra hne
  rw [if_neg hne] at hways
  split at hways <;> exact absurd hways (by decide)

/-- The legal values of DC_CTL[SET_EN] (R152). -/
theorem wayEnableLegal_four : ∀ e : BitVec 4, wayEnableLegal 4 (e.setWidth 8) = true ↔ e ∈ [15#4, 1#4, 2#4, 4#4, 8#4] := by
  decide

/-- The legal values of SC_CTL[SET_EN] (R170). -/
theorem wayEnableLegal_eight : ∀ e : BitVec 8, wayEnableLegal 8 e = true ↔
    e ∈ [255#8, 1#8, 2#8, 4#8, 8#8, 16#8, 32#8, 64#8, 128#8] := by
  decide +kernel

/-- What a CSR write may change (R417). -/
theorem writeCsr_frame {s t : State} {i : BitVec 8} {d : W64} (h : writeCsr s i d = .ok t) : t = { s with
    csr := t.csr, itb := t.itb, itbPtr := t.itbPtr, dtb := t.dtb, icache := t.icache, timer := t.timer, out := t.out } := by
  have hok : ∀ u : State, (Except.ok u : Except Refusal State) = .ok t → (u = { s with
      csr := u.csr, itb := u.itb, itbPtr := u.itbPtr, dtb := u.dtb, icache := u.icache, timer := u.timer, out := u.out }) →
      t = { s with
        csr := t.csr, itb := t.itb, itbPtr := t.itbPtr, dtb := t.dtb, icache := t.icache, timer := t.timer, out := t.out } := by
    rintro u ⟨⟩ hu
    exact hu
  unfold writeCsr at h
  generalize csrName i = name at h
  cases name
  case softErr | hardErr => exact hok _ h (by unfold reportRise; split <;> rfl)
  case timerCtl => exact hok _ h (by split <;> rfl)
  case dcCtl | scCtl =>
    dsimp only at h
    split at h
    · exact hok _ h rfl
    · cases h
  case intReq =>
    dsimp only at h
    split at h
    · exact hok _ h rfl
    · exact hok _ h rfl
  all_goals exact hok _ h rfl

/-- A CSR write completes unless its SET_EN is illegal (U4). -/
theorem writeCsr_completes {s : State} {i : BitVec 8} {d : W64}
    (hdc : csrName i = .dcCtl → wayEnableLegal 4 ((d.extractLsb' 0 4).setWidth 8) = true)
    (hsc : csrName i = .scCtl → wayEnableLegal 8 (d.extractLsb' 0 8) = true) : ∃ t, writeCsr s i d = .ok t := by
  unfold writeCsr
  generalize csrName i = name at hdc hsc
  cases name
  case dcCtl =>
    dsimp only
    rw [if_pos (hdc rfl)]
    exact ⟨_, rfl⟩
  case scCtl =>
    dsimp only
    rw [if_pos (hsc rfl)]
    exact ⟨_, rfl⟩
  case intReq =>
    dsimp only
    split
    · exact ⟨_, rfl⟩
    · exact ⟨_, rfl⟩
  all_goals exact ⟨_, rfl⟩

/-- A count changes CSRs alone (R651). -/
theorem State.count_eq (s : State) (e : EventClass) : s.count e = { s with csr := (s.count e).csr } := by
  unfold State.count
  split <;> rfl

/-- Noting a write touches the unordered writes alone (R740). -/
theorem State.noteWrite_eq (s t : State) (i : BitVec 8) (d : W64) :
    s.noteWrite t i d = { t with unsynced := (s.noteWrite t i d).unsynced } := by
  unfold State.noteWrite
  split <;> rfl

/-- PRI_WCSR in HM runs the write of its index. -/
theorem execPriWcsr_ready {s : State} {ra : BitVec 5} {i : BitVec 8} (hready : ready s .none) (hm : s.mode = 0#2) :
    execPriWcsr ra i s = match writeCsr (s.count .plain) i (s.getX ra) with
      | .ok t => .next ((s.count .plain).noteWrite t i (s.getX ra)).nextPc
      | .error r => .refused r := by
  rw [execPriWcsr, privStage_ready _ hready hm] <;> rfl

/-- Settles O28: the write completes but for an illegal SET_EN, which is refused. -/
theorem csrWrites : Obligations.CsrWrites := by
  refine ⟨fun s ra i hready hm hdc hsc => ?_, fun s ra hready hm => ⟨fun hbad => ?_, fun hbad => ?_⟩⟩
  · obtain ⟨u, hu⟩ := writeCsr_completes (s := s.count .plain) (i := i) (d := s.getX ra)
      (fun h => (wayEnableLegal_four _).2 (hdc (eq_of_csrName_dcCtl h)))
      (fun h => (wayEnableLegal_eight _).2 (hsc (eq_of_csrName_scCtl h)))
    have hframe := writeCsr_frame hu
    refine ⟨((s.count .plain).noteWrite u i (s.getX ra)).nextPc, u, ?_, ?_, fun a => ?_, hu, ?_⟩
    · show execPriWcsr ra i s = _
      rw [execPriWcsr_ready hready hm, hu]
    · show ((s.count .plain).noteWrite u i (s.getX ra)).pc + 4 = _
      rw [State.noteWrite_pc, writeCsr_pc hu, State.count_pc]
    · show memGet ((s.count .plain).noteWrite u i (s.getX ra)).mem a = _
      rw [State.noteWrite_eq, hframe]
      exact congrArg (memGet · a) (State.count_mem s .plain)
    · have hu' := hframe.trans (b := { s.count .plain with
          csr := u.csr, itb := u.itb, itbPtr := u.itbPtr, dtb := u.dtb, icache := u.icache, timer := u.timer, out := u.out })
        (c := { s with
          csr := u.csr, itb := u.itb, itbPtr := u.itbPtr, dtb := u.dtb, icache := u.icache, timer := u.timer, out := u.out })
        (by rw [State.count_eq])
      have hnote := ((s.count .plain).noteWrite_eq u i (s.getX ra)).trans
        (congrArg (fun v : State => { v with unsynced := ((s.count .plain).noteWrite u i (s.getX ra)).unsynced }) hu')
      exact congrArg (fun v : State => { v with pc := ((s.count .plain).noteWrite u i (s.getX ra)).pc + 4 }) hnote
  · show execPriWcsr ra 0x4A s = _
    have hillegal : wayEnableLegal 4 (((s.getX ra).extractLsb' 0 4).setWidth 8) = false :=
      Bool.eq_false_iff.2 (mt (wayEnableLegal_four _).1 hbad)
    have hrefused : writeCsr (s.count .plain) 0x4A (s.getX ra) = .error .dcWayEnable := by
      show (if wayEnableLegal 4 (((s.getX ra).extractLsb' 0 4).setWidth 8) then _ else _) = _
      rw [hillegal]
      rfl
    rw [execPriWcsr_ready hready hm, hrefused]
  · show execPriWcsr ra 0x80 s = _
    have hillegal : wayEnableLegal 8 ((s.getX ra).extractLsb' 0 8) = false :=
      Bool.eq_false_iff.2 (mt (wayEnableLegal_eight _).1 hbad)
    have hrefused : writeCsr (s.count .plain) 0x80 (s.getX ra) = .error .scWayEnable := by
      show (if wayEnableLegal 8 ((s.getX ra).extractLsb' 0 8) then _ else _) = _
      rw [hillegal]
      rfl
    rw [execPriWcsr_ready hready hm, hrefused]

end Sys2Proof.Machine

/-! ## What a CSR reads as after it is written: settles O29 -/

namespace Sys2Proof.Machine

/-! ### Registers that read back their writable bits -/

/-- The register reads back the writable bits `m` of what was written (R48). -/
def ReadsBack (i : BitVec 8) (m : W64) : Prop :=
  ∀ (s t : State) (d : W64), writeCsr s i d = .ok t → readCsr t i = d &&& m

/-- A register whose write and read mask the same bits. -/
theorem readsBack_of_masked {i : BitVec 8} {m : W64}
    (h : ∀ (s t : State) (d : W64), writeCsr s i d = .ok t → readCsr t i = d &&& m &&& m) : ReadsBack i m := by
  intro s t d hw
  rw [h s t d hw, BitVec.and_assoc, BitVec.and_self]

/-- A register without reserved bits. -/
theorem readsBack_of_plain {i : BitVec 8} (h : ∀ (s t : State) (d : W64), writeCsr s i d = .ok t → readCsr t i = d) :
    ReadsBack i 0xFFFFFFFFFFFFFFFF := by
  intro s t d hw
  rw [h s t d hw]
  exact (BitVec.and_allOnes (x := d)).symm

/-- What a write that cannot be refused leaves. -/
theorem of_writeCsr {s t u : State} {i : BitVec 8} {d : W64} (h : writeCsr s i d = .ok t) (hu : writeCsr s i d = .ok u) :
    t = u :=
  Except.ok.inj (h.symm.trans hu)

/-- A report changes what is shown outside alone (R127, R128). -/
theorem reportRise_csr (old new : W64) (o : Output) (s : State) : (reportRise old new o s).csr = s.csr := by
  unfold reportRise
  split <;> rfl

/-- What a rise reports (R127, R128). -/
theorem reportRise_out (old new : W64) (o : Output) (s : State) : (reportRise old new o s).out =
    if old.getLsbD 0 = false ∧ new.getLsbD 0 = true then o :: s.out else s.out := by
  unfold reportRise
  cases old.getLsbD 0 <;> cases new.getLsbD 0 <;> rfl

/-- DC_CTL, whose SET_EN may refuse the write (R152). -/
theorem readsBack_dcCtl : ReadsBack 0x4A 0xFFFE0000003FF7BF := by
  refine readsBack_of_masked fun s t d h => ?_
  have hw : writeCsr s 0x4A d = if wayEnableLegal 4 ((d.extractLsb' 0 4).setWidth 8) then
      .ok { s with csr := { s.csr with dcCtl := d &&& 0xFFFE0000003FF7BF } } else .error .dcWayEnable := rfl
  rw [hw] at h
  split at h
  · obtain rfl := Except.ok.inj h
    rfl
  · cases h

/-- SC_CTL, whose SET_EN may refuse the write (R170). -/
theorem readsBack_scCtl : ReadsBack 0x80 0x1FFFFF := by
  refine readsBack_of_masked fun s t d h => ?_
  have hw : writeCsr s 0x80 d = if wayEnableLegal 8 (d.extractLsb' 0 8) then
      .ok { s with csr := { s.csr with scCtl := d &&& 0x1FFFFF } } else .error .scWayEnable := rfl
  rw [hw] at h
  split at h
  · obtain rfl := Except.ok.inj h
    rfl
  · cases h

/-- SOFT_ERR and HARD_ERR (R127, R128). -/
theorem readsBack_err : ReadsBack 0x29 1 ∧ ReadsBack 0x3C 1 := by
  refine ⟨readsBack_of_masked fun s t d h => ?_, readsBack_of_masked fun s t d h => ?_⟩
  · rw [of_writeCsr h rfl]
    show (reportRise _ _ _ _).csr.softErr &&& 1 = _
    rw [reportRise_csr]
    rfl
  · rw [of_writeCsr h rfl]
    show (reportRise _ _ _ _).csr.hardErr &&& 1 = _
    rw [reportRise_csr]
    rfl

/-- TIMER_CTL, which may restart the timer (R620). -/
theorem readsBack_timerCtl : ReadsBack 0x2A 1 := by
  refine readsBack_of_masked fun s t d h => ?_
  rw [of_writeCsr h rfl]
  split <;> rfl

/-! ### SOFTCSR and the interrupt enables -/

/-- The SOFTCSR that a name stands for. -/
def softOf : CsrName → Option (Fin 48)
  | .soft k => some k
  | _ => none

/-- The indices of the SOFTCSRs (R197). -/
theorem softOf_csrName : ∀ i : BitVec 8, 0xD0 ≤ i.toNat → (softOf (csrName i)).isSome = true := by decide +kernel

/-- A SOFTCSR reads back. -/
theorem readCsr_soft {s t : State} {i : BitVec 8} {d : W64} (hi : 0xD0 ≤ i.toNat) (h : writeCsr s i d = .ok t) :
    readCsr t i = d := by
  have hsoft := softOf_csrName i hi
  unfold writeCsr at h
  unfold readCsr
  generalize csrName i = name at h hsoft
  cases name
  case soft k =>
    obtain rfl := Except.ok.inj h
    show (s.csr.soft.set k d)[k] = d
    simp
  all_goals exact Bool.noConfusion hsoft

/-- The index of an interrupt enable (R103). -/
theorem csrName_ier : ∀ k : Fin 4, csrName (BitVec.ofNat 8 (0x38 + k.val)) = .ier k := by decide

/-- The index of an interrupt clear (R103). -/
theorem csrName_intClr : ∀ k : Fin 4, csrName (BitVec.ofNat 8 (0x34 + k.val)) = .intClr k := by decide

/-- The index of an interrupt status (R103). -/
theorem csrName_intStat : ∀ k : Fin 4, csrName (BitVec.ofNat 8 (0x30 + k.val)) = .intStat k := by decide

/-- One part of a request vector replaced, bit by bit. -/
theorem getLsbD_putPart64 (v : V256) (k : Fin 4) (d : W64) (j : Nat) :
    (putPart64 v k d).getLsbD j = if j / 64 = k.val then d.getLsbD (j % 64) else v.getLsbD j := by
  have hk := k.isLt
  unfold putPart64
  rw [getLsbD_replaced _ _ _ (by omega)]
  by_cases h : j / 64 = k.val
  · rw [if_pos h, if_pos (by omega), show j - 64 * k.val = j % 64 by omega]
  · rw [if_neg h, if_neg (by omega)]

/-- A part of a request vector, bit by bit. -/
theorem getLsbD_part64 (v : V256) (k : Fin 4) {j : Nat} (hj : j < 64) :
    (part64 v k).getLsbD j = v.getLsbD (64 * k.val + j) := by
  rw [part64, BitVec.getLsbD_extractLsb', decide_eq_true hj, Bool.true_and]

/-- A part reads back, and the others stand. -/
theorem part64_putPart64 (v : V256) (k j : Fin 4) (d : W64) :
    part64 (putPart64 v k d) j = if j = k then d else part64 v j := by
  apply BitVec.eq_of_getLsbD_eq
  intro n hn
  rw [getLsbD_part64 _ _ hn, getLsbD_putPart64, show (64 * j.val + n) / 64 = j.val by omega,
    show (64 * j.val + n) % 64 = n by omega]
  by_cases h : j = k
  · rw [if_pos (congrArg Fin.val h), if_pos h]
  · rw [if_neg (fun hv => h (Fin.ext hv)), if_neg h, getLsbD_part64 _ _ hn]

/-- The interrupt enables (R103). -/
theorem readCsr_ier {s t : State} {k : Fin 4} {d : W64} (j : Fin 4)
    (h : writeCsr s (BitVec.ofNat 8 (0x38 + k.val)) d = .ok t) :
    readCsr t (BitVec.ofNat 8 (0x38 + j.val)) = if j = k then d else readCsr s (BitVec.ofNat 8 (0x38 + j.val)) := by
  unfold writeCsr at h
  rw [csrName_ier] at h
  obtain rfl := Except.ok.inj h
  unfold readCsr
  rw [csrName_ier]
  exact part64_putPart64 ..

/-! ### Registers with fixed and with sticky bits -/

/-- IS_CTL beside its configured fields (R112). -/
theorem readCsr_isCtl {s t : State} {d : W64} (h : writeCsr s 0x11 d = .ok t) :
    (readCsr t 0x11).extractLsb' 0 3 = d.extractLsb' 0 3 ∧ (readCsr t 0x11).extractLsb' 10 7 = d.extractLsb' 10 7 ∧
      (readCsr t 0x11).extractLsb' 3 6 = s.par.chipId ∧ (readCsr t 0x11).getLsbD 9 = s.par.bistFail := by
  have hread : readCsr t 0x11 = (d &&& 0x1FC07#64 &&& 0x1FC07#64) ||| (s.par.chipId.setWidth 64 <<< 3) |||
      orBit 0 9 s.par.bistFail := by
    rw [of_writeCsr h rfl]
    rfl
  have hmask : ∀ n, n < 64 → (0x1FC07#64).getLsbD n = decide (n < 3 ∨ (10 ≤ n ∧ n < 17)) := by decide
  have hfail : ∀ b : Bool, ∀ n, n < 64 → (orBit (0 : W64) 9 b).getLsbD n = (b && decide (n = 9)) := by decide
  have hbit : ∀ n, n < 64 → (readCsr t 0x11).getLsbD n = if n < 3 ∨ (10 ≤ n ∧ n < 17) then d.getLsbD n
      else if 3 ≤ n ∧ n < 9 then s.par.chipId.getLsbD (n - 3) else s.par.bistFail && decide (n = 9) := by
    intro n hn
    rw [hread, BitVec.getLsbD_or, BitVec.getLsbD_or, BitVec.getLsbD_and, BitVec.getLsbD_and, hmask n hn, hfail _ n hn,
      BitVec.getLsbD_shiftLeft, BitVec.getLsbD_setWidth]
    by_cases hw : n < 3 ∨ (10 ≤ n ∧ n < 17)
    · rw [if_pos hw, decide_eq_true hw, decide_eq_false (by omega : ¬n = 9)]
      by_cases hlow : n < 3
      · simp [hlow]
      · rw [BitVec.getLsbD_of_ge s.par.chipId _ (by omega)]
        simp
    · rw [if_neg hw, decide_eq_false hw]
      by_cases hc : 3 ≤ n ∧ n < 9
      · rw [if_pos hc, decide_eq_false (by omega : ¬n = 9), decide_eq_true hn, decide_eq_false (by omega : ¬n < 3),
          decide_eq_true (by omega : n - 3 < 64)]
        simp
      · rw [if_neg hc, BitVec.getLsbD_of_ge s.par.chipId _ (by omega)]
        simp
  have hfield : ∀ lo len, lo + len ≤ 64 → (∀ j, j < len → (lo + j < 3 ∨ (10 ≤ lo + j ∧ lo + j < 17))) →
      (readCsr t 0x11).extractLsb' lo len = d.extractLsb' lo len := by
    intro lo len hlen hin
    apply BitVec.eq_of_getLsbD_eq
    intro j hj
    rw [BitVec.getLsbD_extractLsb', BitVec.getLsbD_extractLsb', hbit _ (by omega), if_pos (hin j hj)]
  refine ⟨hfield 0 3 (by decide) (by omega), hfield 10 7 (by decide) (by omega), ?_, ?_⟩
  · apply BitVec.eq_of_getLsbD_eq
    intro j hj
    rw [BitVec.getLsbD_extractLsb', hbit _ (by omega), if_neg (by omega), if_pos (by omega), decide_eq_true hj,
      Bool.true_and, Nat.add_sub_cancel_left]
  · rw [hbit 9 (by decide)]
    simp

/-- CID with the hard-wired core number in its low bits (R194). -/
theorem cid_withCore (w : W64) (core : BitVec 4) :
    (w &&& 0xFFFFFFFFFFFFFF00#64) ||| core.setWidth 64 = w.extractLsb' 8 56 ++ 0#4 ++ core := by
  have hmask : ∀ n, n < 64 → (0xFFFFFFFFFFFFFF00#64).getLsbD n = decide (8 ≤ n) := by decide
  apply BitVec.eq_of_getLsbD_eq
  intro n hn
  rw [BitVec.getLsbD_or, BitVec.getLsbD_and, hmask n hn, BitVec.getLsbD_setWidth, BitVec.getLsbD_append,
    BitVec.getLsbD_append, BitVec.getLsbD_extractLsb']
  by_cases h4 : n < 4
  · rw [if_pos h4, decide_eq_false (by omega : ¬8 ≤ n), decide_eq_true hn]
    simp
  · rw [if_neg h4, BitVec.getLsbD_of_ge core n (by omega)]
    by_cases h8 : 8 ≤ n
    · rw [if_neg (by omega), decide_eq_true h8, show 8 + (n - 4 - 4) = n by omega, decide_eq_true (by omega : n - 4 - 4 < 56)]
      simp
    · rw [if_pos (by omega), decide_eq_false h8]
      simp

/-- CID beside the hard-wired core number (R194). -/
theorem readCsr_cid {s t : State} {d : W64} (h : writeCsr s 0xC4 d = .ok t) :
    readCsr t 0xC4 = d.extractLsb' 8 56 ++ 0#4 ++ s.par.coreId := by
  have hread : readCsr t 0xC4 = (d &&& 0xFFFFFFFFFFFFFF00#64 &&& 0xFFFFFFFFFFFFFF00#64) ||| s.par.coreId.setWidth 64 := by
    rw [of_writeCsr h rfl]
    rfl
  rw [hread, BitVec.and_assoc, BitVec.and_self, cid_withCore]

/-- A status register after a write of ones (R115, R154, R171). -/
theorem clearedBits (w d m : W64) : (w &&& ~~~d) &&& m = (w &&& m) &&& ~~~d := by
  rw [BitVec.and_assoc, BitVec.and_comm (~~~d) m, ← BitVec.and_assoc]

/-- HSERR_CNT: the count and SERR_OF are cleared apart (R124). -/
theorem readCsr_hserrCnt {s t : State} {d : W64} (h : writeCsr s 0x26 d = .ok t) :
    (readCsr t 0x26).extractLsb' 0 32 = (if d.getLsbD 0 then 0 else (readCsr s 0x26).extractLsb' 0 32) ∧
      (readCsr t 0x26).getLsbD 32 = ((readCsr s 0x26).getLsbD 32 && !d.getLsbD 32) := by
  have hmask : ∀ n, n < 64 → (0x1FFFFFFFF#64).getLsbD n = decide (n < 33) := by decide
  let c := if d.getLsbD 0 then putField s.csr.hserrCnt 0 (0 : BitVec 32) else s.csr.hserrCnt
  have hread : readCsr t 0x26 = (if d.getLsbD 32 then clrBit c 32 else c) &&& 0x1FFFFFFFF#64 := by
    rw [of_writeCsr h rfl]
    rfl
  have hc : ∀ n, c.getLsbD n = if d.getLsbD 0 then (if n < 32 then false else s.csr.hserrCnt.getLsbD n)
      else s.csr.hserrCnt.getLsbD n := by
    intro n
    show (if d.getLsbD 0 then putField s.csr.hserrCnt 0 (0 : BitVec 32) else s.csr.hserrCnt).getLsbD n = _
    split
    · rw [getLsbD_putField _ _ _ (by decide)]
      simp
    · rfl
  have hread' : readCsr s 0x26 = s.csr.hserrCnt &&& 0x1FFFFFFFF#64 := rfl
  have hclr : ∀ n, n < 64 → (if d.getLsbD 32 then clrBit c 32 else c).getLsbD n =
      (c.getLsbD n && !(d.getLsbD 32 && decide (n = 32))) := by
    intro n hn
    split
    next h32 =>
      rw [clrBit, BitVec.getLsbD_and, BitVec.getLsbD_not, BitVec.getLsbD_twoPow, h32]
      simp [hn, eq_comm]
    next h32 =>
      rw [Bool.eq_false_iff.2 h32]
      simp
  refine ⟨?_, ?_⟩
  · apply BitVec.eq_of_getLsbD_eq
    intro n hn
    rw [hread, BitVec.getLsbD_extractLsb', BitVec.getLsbD_and, hclr _ (by omega), hmask _ (by omega), Nat.zero_add, hc,
      decide_eq_true hn, decide_eq_true (by omega : n < 33), decide_eq_false (by omega : ¬n = 32), if_pos hn, hread']
    split
    · simp
    · rw [BitVec.getLsbD_extractLsb', BitVec.getLsbD_and, hmask _ (by omega), Nat.zero_add,
        decide_eq_true (by omega : n < 33), decide_eq_true hn]
      simp
  · rw [hread, hread', BitVec.getLsbD_and, BitVec.getLsbD_and, hclr _ (by decide), hmask _ (by decide), hc]
    simp

end Sys2Proof.Machine

namespace Sys2Proof.Machine

/-! ### UPCR, ISSUE_CTL, INT_REQ and the flush of the instruction cache -/

/-- UPCR[IMODE] reads back where it lies. -/
theorem upcr_imode (u : W64) : (u &&& 0x00007F8000000007#64).extractLsb' 0 3 = u.extractLsb' 0 3 := by
  have hmask : ∀ n, n < 3 → (0x00007F8000000007#64).getLsbD n = true := by decide
  apply BitVec.eq_of_getLsbD_eq
  intro n hn
  rw [BitVec.getLsbD_extractLsb', BitVec.getLsbD_extractLsb', Nat.zero_add, BitVec.getLsbD_and, hmask n hn, Bool.and_true]

/-- A field that was put reads back. -/
theorem extractLsb'_putField_self {k : Nat} (w : W64) (lo : Nat) (v : BitVec k) (h : lo + k ≤ 64) :
    (putField w lo v).extractLsb' lo k = v := by
  apply BitVec.eq_of_getLsbD_eq
  intro n hn
  rw [BitVec.getLsbD_extractLsb', getLsbD_putField _ _ _ h, if_pos (by omega), Nat.add_sub_cancel_left, decide_eq_true hn,
    Bool.true_and]

/-- A field beside the one that was put keeps its value. -/
theorem extractLsb'_putField_of_disjoint {k : Nat} (w : W64) (lo : Nat) (v : BitVec k) (at' len : Nat) (h : lo + k ≤ 64)
    (hout : at' + len ≤ lo ∨ lo + k ≤ at') : (putField w lo v).extractLsb' at' len = w.extractLsb' at' len := by
  apply BitVec.eq_of_getLsbD_eq
  intro n hn
  rw [BitVec.getLsbD_extractLsb', BitVec.getLsbD_extractLsb', getLsbD_putField _ _ _ h, if_neg (by omega)]

/-- The two parts of UPCR are selected by the index (R118). -/
theorem writeCsr_upcr {s t : State} {d : W64} :
    (writeCsr s 0x20 d = .ok t → t.csr.upcr = s.csr.upcr) ∧
    (writeCsr s 0x21 d = .ok t → (readCsr t 0x20).extractLsb' 0 3 = d.extractLsb' 0 3 ∧ t.csr.upn = s.csr.upn) ∧
    (writeCsr s 0x22 d = .ok t → t.csr.upn = d.extractLsb' 39 8 ∧
      (readCsr t 0x20).extractLsb' 0 3 = (readCsr s 0x20).extractLsb' 0 3) ∧
    (writeCsr s 0x23 d = .ok t → t.csr.upn = d.extractLsb' 39 8 ∧ (readCsr t 0x20).extractLsb' 0 3 = d.extractLsb' 0 3) := by
  have hread : ∀ u : State, (readCsr u 0x20).extractLsb' 0 3 = u.csr.upcr.extractLsb' 0 3 := fun u => upcr_imode u.csr.upcr
  have hupn : ∀ u : State, u.csr.upn = u.csr.upcr.extractLsb' 39 8 := fun u => rfl
  refine ⟨fun h => ?_, fun h => ?_, fun h => ?_, fun h => ?_⟩
  · rw [of_writeCsr h rfl]
    rfl
  · have hu : t.csr.upcr = putField s.csr.upcr 0 (d.extractLsb' 0 3) := by
      rw [of_writeCsr h rfl]
      rfl
    rw [hread, hupn, hupn, hu]
    exact ⟨extractLsb'_putField_self _ _ _ (by decide),
      extractLsb'_putField_of_disjoint _ _ _ _ _ (by decide) (.inr (by decide))⟩
  · have hu : t.csr.upcr = putField s.csr.upcr 39 (d.extractLsb' 39 8) := by
      rw [of_writeCsr h rfl]
      rfl
    rw [hread, hread, hupn, hu]
    exact ⟨extractLsb'_putField_self _ _ _ (by decide),
      extractLsb'_putField_of_disjoint _ _ _ _ _ (by decide) (.inl (by decide))⟩
  · have hu : t.csr.upcr = putField (putField s.csr.upcr 0 (d.extractLsb' 0 3)) 39 (d.extractLsb' 39 8) := by
      rw [of_writeCsr h rfl]
      rfl
    rw [hread, hupn, hu]
    exact ⟨extractLsb'_putField_self _ _ _ (by decide),
      (extractLsb'_putField_of_disjoint _ _ _ _ _ (by decide) (.inl (by decide))).trans
        (extractLsb'_putField_self _ _ _ (by decide))⟩

/-- What ISSUE_CTL stores: two groups of nine bits, each with its fixed top bit (R114). -/
def issueStored (d : W64) : W64 := (((d &&& 0x7FDFF#64) ||| 0x80200#64) &&& 0xFFFFF#64) ||| 0x80200#64

/-- The two groups of ISSUE_CTL, bit by bit. -/
theorem getLsbD_issueStored (d : W64) {n : Nat} (hn : n < 64) :
    (issueStored d).getLsbD n = (decide (n = 9 ∨ n = 19) || (decide (n < 19) && d.getLsbD n)) := by
  have hwrite : ∀ n, n < 64 → (0x7FDFF#64).getLsbD n = decide (n < 19 ∧ n ≠ 9) := by decide
  have hfixed : ∀ n, n < 64 → (0x80200#64).getLsbD n = decide (n = 9 ∨ n = 19) := by decide
  have hmask : ∀ n, n < 64 → (0xFFFFF#64).getLsbD n = decide (n < 20) := by decide
  rw [issueStored, BitVec.getLsbD_or, BitVec.getLsbD_and, BitVec.getLsbD_or, BitVec.getLsbD_and, hwrite n hn, hfixed n hn,
    hmask n hn]
  by_cases hf : n = 9 ∨ n = 19
  · rw [decide_eq_true hf, Bool.or_true, Bool.true_or]
  · rw [decide_eq_false hf, Bool.or_false, Bool.or_false, Bool.false_or]
    by_cases hlow : n < 19
    · rw [decide_eq_true hlow, decide_eq_true (show n < 19 ∧ n ≠ 9 by omega), decide_eq_true (show n < 20 by omega)]
      simp
    · rw [decide_eq_false hlow, decide_eq_false (show ¬(n < 19 ∧ n ≠ 9) by omega)]
      simp

/-- The low group of ISSUE_CTL (R114). -/
theorem issueStored_low (d : W64) : (issueStored d).extractLsb' 0 10 = 1#1 ++ d.extractLsb' 0 9 := by
  apply BitVec.eq_of_getLsbD_eq
  intro n hn
  rw [BitVec.getLsbD_extractLsb', getLsbD_issueStored _ (by omega), BitVec.getLsbD_append, BitVec.getLsbD_extractLsb',
    decide_eq_true hn, decide_eq_true (show 0 + n < 19 by omega)]
  by_cases h : n < 9
  · rw [if_pos h, decide_eq_false (by omega), decide_eq_true h]
    simp
  · obtain rfl : n = 9 := by omega
    rfl

/-- The high group of ISSUE_CTL (R114). -/
theorem issueStored_high (d : W64) : (issueStored d).extractLsb' 10 10 = 1#1 ++ d.extractLsb' 10 9 := by
  apply BitVec.eq_of_getLsbD_eq
  intro n hn
  rw [BitVec.getLsbD_extractLsb', getLsbD_issueStored _ (by omega), BitVec.getLsbD_append, BitVec.getLsbD_extractLsb',
    decide_eq_true hn]
  by_cases h : n < 9
  · rw [if_pos h, decide_eq_false (by omega), decide_eq_true h, decide_eq_true (show 10 + n < 19 by omega)]
    simp
  · obtain rfl : n = 9 := by omega
    rfl

/-- ISSUE_CTL reads its two groups in some rotation (R114, U13). -/
theorem rotateTen_issueStored (d : W64) (n m : Nat) :
    rotateTen (rotateTen (issueStored d) 0 n) 10 m =
      0#44 ++ (1#1 ++ d.extractLsb' 10 9).rotateRight m ++ (1#1 ++ d.extractLsb' 0 9).rotateRight n := by
  have hlow : rotateTen (issueStored d) 0 n = putField (issueStored d) 0 ((1#1 ++ d.extractLsb' 0 9).rotateRight n) := by
    rw [rotateTen, issueStored_low]
  have hhigh : (rotateTen (issueStored d) 0 n).extractLsb' 10 10 = 1#1 ++ d.extractLsb' 10 9 := by
    rw [hlow, extractLsb'_putField_of_disjoint _ _ _ _ _ (by decide) (.inr (by decide)), issueStored_high]
  rw [rotateTen, hhigh, hlow]
  apply BitVec.eq_of_getLsbD_eq
  intro j hj
  rw [getLsbD_putField _ _ _ (by decide), getLsbD_putField _ _ _ (by decide), BitVec.getLsbD_append, BitVec.getLsbD_append]
  by_cases hlo : j < 10
  · rw [if_neg (by omega), if_pos (by omega), if_pos hlo, Nat.sub_zero]
  · rw [if_neg hlo]
    by_cases hhi : j < 20
    · rw [if_pos (by omega), if_pos (by omega)]
    · rw [if_neg (by omega), if_neg (by omega), if_neg (by omega), getLsbD_issueStored _ hj,
        decide_eq_false (show ¬(j = 9 ∨ j = 19) by omega), decide_eq_false (show ¬j < 19 by omega)]
      simp

/-- What a write of ISSUE_CTL leaves (R114). -/
theorem writeCsr_issueCtl {s t : State} {d : W64} (h : writeCsr s 0x13 d = .ok t) :
    t = { s with csr := { s.csr with issueCtl := t.csr.issueCtl } } ∧
      ∃ m n : Nat, readCsr t 0x13 = 0#44 ++ (1#1 ++ d.extractLsb' 10 9).rotateRight m ++
        (1#1 ++ d.extractLsb' 0 9).rotateRight n := by
  obtain rfl := of_writeCsr h rfl
  exact ⟨rfl, (Config.issueRotation s.freeCtr).2, (Config.issueRotation s.freeCtr).1, rotateTen_issueStored ..⟩

/-- A mask applied twice. -/
theorem and_mask_mask (w m : W64) : w &&& m &&& m = w &&& m := by
  rw [BitVec.and_assoc, BitVec.and_self]

/-- A write of INT_REQ takes, or is lost where a request is still valid (R172, U15). -/
theorem writeCsr_intReq {s t : State} {d : W64} (h : writeCsr s 0x82 d = .ok t) :
    t = { s with csr := { s.csr with intReq := t.csr.intReq } } ∧
      (readCsr t 0x82 = d &&& 0x380FFFF ∨ (s.csr.intReq.getLsbD 25 = true ∧ t = s)) := by
  have hw : writeCsr s 0x82 d = if s.csr.intReq.getLsbD 25 && !Config.intReqNewWins s.freeCtr then .ok s else
      .ok { s with csr := { s.csr with intReq := d &&& 0x380FFFF } } := rfl
  rw [hw] at h
  split at h
  next hlost =>
    obtain rfl := Except.ok.inj h
    exact ⟨rfl, .inr ⟨(Bool.and_eq_true_iff.1 hlost).1, rfl⟩⟩
  next =>
    obtain rfl := Except.ok.inj h
    refine ⟨rfl, .inl ?_⟩
    exact and_mask_mask d 0x380FFFF#64

/-- IC_FLUSH leaves no line (R116). -/
theorem icEmpty_ways (v : Vector IcSet 64) (k : Fin 64) (w : Fin 4) : ((icEmpty v)[k]).ways[w] = none := by
  simp [icEmpty]

/-! ### Writes that change nothing -/

/-- A write to a read-only register changes nothing (R50, D2). -/
theorem writeCsr_readOnly (s : State) (d : W64) :
    ∀ i ∈ [0x07#8, 0x0A, 0x0D, 0x0E, 0x1C, 0x1D, 0x20, 0x28, 0x30, 0x31, 0x32, 0x33, 0x4E, 0x4F, 0x83, 0xC0],
      writeCsr s i d = .ok s := by
  simp only [List.forall_mem_cons]
  exact ⟨rfl, rfl, rfl, rfl, rfl, rfl, rfl, rfl, rfl, rfl, rfl, rfl, rfl, rfl, rfl, rfl, List.forall_mem_nil _⟩

/-- Whether an index names no register (R49). -/
def namesNone : CsrName → Bool
  | .undefined => true
  | _ => false

/-- A name that stands for none. -/
theorem eq_undefined_of_namesNone {n : CsrName} (h : namesNone n = true) : n = .undefined := by
  cases n
  case undefined => rfl
  all_goals exact Bool.noConfusion h

/-- The indices that name no register (R49, R53). -/
theorem namesNone_csrName : ∀ i : BitVec 8, i.toNat ∈ [0x0B, 0x0C, 0x12, 0x16, 0x18, 0x1E, 0x51] ∨
    (0x2C ≤ i.toNat ∧ i.toNat ≤ 0x2F) ∨ (0x3D ≤ i.toNat ∧ i.toNat ≤ 0x3F) ∨ (0x54 ≤ i.toNat ∧ i.toNat ≤ 0x7F) ∨
    (0x85 ≤ i.toNat ∧ i.toNat ≤ 0xBF) ∨ (0xC8 ≤ i.toNat ∧ i.toNat ≤ 0xCF) → namesNone (csrName i) = true := by
  decide +kernel

/-- A write to an index that names no register changes nothing (R49). -/
theorem writeCsr_undefined (s : State) (d : W64) {n : Nat} (h : n ∈ [0x0B, 0x0C, 0x12, 0x16, 0x18, 0x1E, 0x51] ∨
    (0x2C ≤ n ∧ n ≤ 0x2F) ∨ (0x3D ≤ n ∧ n ≤ 0x3F) ∨ (0x54 ≤ n ∧ n ≤ 0x7F) ∨ (0x85 ≤ n ∧ n ≤ 0xBF) ∨
    (0xC8 ≤ n ∧ n ≤ 0xCF)) : writeCsr s (BitVec.ofNat 8 n) d = .ok s := by
  have hlt : n < 256 := by
    simp only [List.mem_cons, List.not_mem_nil, or_false] at h
    omega
  have hnat : (BitVec.ofNat 8 n).toNat = n := Nat.mod_eq_of_lt hlt
  have hname := eq_undefined_of_namesNone (namesNone_csrName (BitVec.ofNat 8 n) (by rw [hnat]; exact h))
  unfold writeCsr
  rw [hname]
  rfl

/-- The registers without sticky, fixed or computed bits (R48). -/
theorem readsBack_plainRegisters :
    ∀ p ∈ [(0x10#8, 0x00007FFFFFFF0000#64), (0x08, 0x0000FFFFFFFFFFFF), (0x09, 0x7), (0x19, 0x00003FFFFFFFFFFF),
        (0x1A, 0xFFFFFFFFFFFFFFFF), (0x1B, 0x7FFFFFFFFFFFFFFF), (0x1F, 0x0000FFFFFFFFFFFF), (0x24, 0xF3FFFFFFFFFFFFFF),
        (0x25, 0xFFFFFFFFFFFFFFFF), (0x27, 0xFFF), (0x29, 0x1), (0x2A, 0x1), (0x2B, 0xFFFFFFFFFFFFFFFF), (0x3C, 0x1),
        (0x47, 0xFFC0000000000003), (0x49, 0x001E000000000000), (0x4A, 0xFFFE0000003FF7BF), (0x4C, 0x00FFFFFFFFFFFFFF),
        (0x4D, 0x001FFFFFFFFFFFFF), (0x50, 0x001FFFFFFFFFFFFF), (0x52, 0xFFFFFFFFFFFFFFFF), (0x53, 0xFFFFFFFFFFFFFFFF),
        (0x80, 0x1FFFFF), (0x84, 0xFFFFFFFFFFFFFFFF), (0xC1, 0xFFFFFFFFFFFFFFFF), (0xC2, 0x1), (0xC3, 0x1),
        (0xC5, 0x003FFFFFFFFFFFFF), (0xC6, 0x001FFFFFFFFFFFFF), (0xC7, 0xFFFFFFFFFFFFFFFF)], ReadsBack p.1 p.2 := by
  simp only [List.forall_mem_cons]
  exact ⟨readsBack_of_masked fun s t d h => by rw [of_writeCsr h rfl]; rfl,
    readsBack_of_masked fun s t d h => by rw [of_writeCsr h rfl]; rfl,
    readsBack_of_masked fun s t d h => by rw [of_writeCsr h rfl]; rfl,
    readsBack_of_masked fun s t d h => by rw [of_writeCsr h rfl]; rfl,
    readsBack_of_plain fun s t d h => by rw [of_writeCsr h rfl]; rfl,
    readsBack_of_masked fun s t d h => by rw [of_writeCsr h rfl]; rfl,
    readsBack_of_masked fun s t d h => by rw [of_writeCsr h rfl]; rfl,
    readsBack_of_masked fun s t d h => by rw [of_writeCsr h rfl]; rfl,
    readsBack_of_plain fun s t d h => by rw [of_writeCsr h rfl]; rfl,
    readsBack_of_masked fun s t d h => by rw [of_writeCsr h rfl]; rfl,
    readsBack_err.1, readsBack_timerCtl,
    readsBack_of_plain fun s t d h => by rw [of_writeCsr h rfl]; rfl,
    readsBack_err.2,
    readsBack_of_masked fun s t d h => by rw [of_writeCsr h rfl]; rfl,
    readsBack_of_masked fun s t d h => by rw [of_writeCsr h rfl]; rfl,
    readsBack_dcCtl,
    readsBack_of_masked fun s t d h => by rw [of_writeCsr h rfl]; rfl,
    readsBack_of_masked fun s t d h => by rw [of_writeCsr h rfl]; rfl,
    readsBack_of_masked fun s t d h => by rw [of_writeCsr h rfl]; rfl,
    readsBack_of_plain fun s t d h => by rw [of_writeCsr h rfl]; rfl,
    readsBack_of_plain fun s t d h => by rw [of_writeCsr h rfl]; rfl,
    readsBack_scCtl,
    readsBack_of_plain fun s t d h => by rw [of_writeCsr h rfl]; rfl,
    readsBack_of_plain fun s t d h => by rw [of_writeCsr h rfl]; rfl,
    readsBack_of_masked fun s t d h => by rw [of_writeCsr h rfl]; rfl,
    readsBack_of_masked fun s t d h => by rw [of_writeCsr h rfl]; rfl,
    readsBack_of_masked fun s t d h => by rw [of_writeCsr h rfl]; rfl,
    readsBack_of_masked fun s t d h => by rw [of_writeCsr h rfl]; rfl,
    readsBack_of_plain fun s t d h => by rw [of_writeCsr h rfl]; rfl, List.forall_mem_nil _⟩

/-- VPT_BASE reads sign-extended (R117). -/
theorem readCsr_vptBase {s t : State} {d : W64} (h : writeCsr s 0x17 d = .ok t) :
    readCsr t 0x17 = ((d &&& 0x001E000000000000).setWidth 53).signExtend 64 := by
  have hread : readCsr t 0x17 = sext53 (d &&& 0x001E000000000000#64 &&& 0x001E000000000000#64) := by
    rw [of_writeCsr h rfl]
    rfl
  have hwidth : ∀ w : W64, sext53 w = (w.setWidth 53).signExtend 64 := fun w => by
    rw [sext53, BitVec.setWidth_eq_extractLsb' (by decide)]
  rw [hread, and_mask_mask]
  exact hwidth _

/-- The status registers lose exactly the bits written 1 (R115, R154, R171). -/
theorem readCsr_status {s t : State} {d : W64} :
    (writeCsr s 0x14 d = .ok t → readCsr t 0x14 = readCsr s 0x14 &&& ~~~d) ∧
    (writeCsr s 0x4B d = .ok t → readCsr t 0x4B = readCsr s 0x4B &&& ~~~d) ∧
    (writeCsr s 0x81 d = .ok t → readCsr t 0x81 = readCsr s 0x81 &&& ~~~d) := by
  refine ⟨fun h => ?_, fun h => ?_, fun h => ?_⟩
  · rw [of_writeCsr h rfl]
    exact clearedBits s.csr.isStat d _
  · rw [of_writeCsr h rfl]
    exact clearedBits s.csr.dcStat d _
  · rw [of_writeCsr h rfl]
    exact clearedBits s.csr.scStat d _

/-- SOFT_ERR and HARD_ERR report where the bit rises (R127, R128). -/
theorem writeCsr_reports {s t : State} {d : W64} :
    ∀ p ∈ [(0x29#8, s.csr.softErr, Output.softwareFault), (0x3C, s.csr.hardErr, .hardwareFault)],
      writeCsr s p.1 d = .ok t →
      t.out = if p.2.1.getLsbD 0 = false ∧ d.getLsbD 0 = true then p.2.2 :: s.out else s.out := by
  simp only [List.forall_mem_cons]
  refine ⟨fun h => ?_, fun h => ?_, List.forall_mem_nil _⟩
  · rw [of_writeCsr h rfl]
    exact reportRise_out ..
  · rw [of_writeCsr h rfl]
    exact reportRise_out ..

/-- Settles O29, register by register. -/
theorem csrWriteReadsBack : Obligations.CsrWriteReadsBack := by
  intro s t d
  obtain ⟨hisStat, hdcStat, hscStat⟩ := readCsr_status (s := s) (t := t) (d := d)
  refine ⟨fun p hp => readsBack_plainRegisters p hp s t d, fun n hlo hhi h => ?_, fun k j => readCsr_ier j, readCsr_vptBase,
    readCsr_isCtl, readCsr_cid, readCsr_hserrCnt, hisStat, hdcStat, hscStat, fun h => ?_, writeCsr_readOnly s d,
    fun n hn => writeCsr_undefined s d hn, writeCsr_reports, writeCsr_issueCtl, writeCsr_intReq,
    ⟨_, rfl, icEmpty_ways s.icache, rfl⟩, writeCsr_upcr⟩
  · refine readCsr_soft ?_ h
    rw [BitVec.toNat_ofNat, Nat.mod_eq_of_lt hhi]
    exact hlo
  · rw [of_writeCsr h rfl]
    exact BitVec.zero_and

end Sys2Proof.Machine

/-! ## Interrupt requests, the corrected-error counter and INT_REQ: settles O30 -/

namespace Sys2Proof.Machine

/-! ### Requests and their clearing -/

/-- A request sets its bit alone (R592). -/
theorem State.request_raw (s : State) (n : BitVec 8) : (s.request n).csr.raw.getLsbD n.toNat = true ∧
    ∀ j, j < 256 → j ≠ n.toNat → (s.request n).csr.raw.getLsbD j = s.csr.raw.getLsbD j := by
  have hbit : ∀ j, (s.request n).csr.raw.getLsbD j =
      (s.csr.raw.getLsbD j || (BitVec.twoPow 256 n.toNat).getLsbD j) := fun j => BitVec.getLsbD_or
  refine ⟨?_, fun j _ hne => ?_⟩
  · rw [hbit, BitVec.getLsbD_twoPow, decide_eq_true n.isLt, decide_eq_true rfl, Bool.and_self, Bool.or_true]
  · rw [hbit, BitVec.getLsbD_twoPow, decide_eq_false (Ne.symm hne), Bool.and_false, Bool.or_false]

/-- INT_STAT reads a request only while it is enabled (R103). -/
theorem getLsbD_readCsr_intStat (s : State) (k : Fin 4) (j : Nat) (hj : j < 64) :
    (readCsr s (BitVec.ofNat 8 (0x30 + k.val))).getLsbD j =
      (s.csr.raw.getLsbD (64 * k.val + j) && s.csr.ier.getLsbD (64 * k.val + j)) := by
  unfold readCsr
  rw [csrName_intStat]
  exact (getLsbD_part64 _ k hj).trans BitVec.getLsbD_and

/-- INT_CLR clears exactly the requests written 1 (R103). -/
theorem getLsbD_raw_intClr {s t : State} {k : Fin 4} {d : W64}
    (h : writeCsr s (BitVec.ofNat 8 (0x34 + k.val)) d = .ok t) (j : Nat) :
    t.csr.raw.getLsbD j = (s.csr.raw.getLsbD j && !(decide (j / 64 = k.val) && d.getLsbD (j % 64))) := by
  have hlow : j % 64 < 64 := Nat.mod_lt _ (by decide)
  unfold writeCsr at h
  rw [csrName_intClr] at h
  obtain rfl := Except.ok.inj h
  show (putPart64 s.csr.raw k (part64 s.csr.raw k &&& ~~~d)).getLsbD j = _
  rw [getLsbD_putPart64]
  by_cases hp : j / 64 = k.val
  · rw [if_pos hp, decide_eq_true hp, BitVec.getLsbD_and, getLsbD_part64 _ _ hlow, BitVec.getLsbD_not,
      show 64 * k.val + j % 64 = j by omega, decide_eq_true hlow, Bool.true_and, Bool.true_and]
  · rw [if_neg hp, decide_eq_false hp, Bool.false_and, Bool.not_false, Bool.and_true]

/-- II_CLR clears the bits of II0 and II1 that its two halves name (R106). -/
theorem writeCsr_iiClr {s t : State} {d : W64} (h : writeCsr s 0x0F d = .ok t) :
    t = { s with csr := { s.csr with ii0 := t.csr.ii0, ii1 := t.csr.ii1 } } ∧
      ∀ j, j < 16 → t.csr.ii0.getLsbD j = (s.csr.ii0.getLsbD j && !d.getLsbD j) ∧
        t.csr.ii1.getLsbD j = (s.csr.ii1.getLsbD j && !d.getLsbD (16 + j)) := by
  have hmask : ∀ j, j < 16 → (0xFFFF#64).getLsbD j = true := by decide
  obtain rfl := of_writeCsr h rfl
  refine ⟨rfl, fun j hj => ⟨?_, ?_⟩⟩
  · show (s.csr.ii0 &&& ~~~(d &&& 0xFFFF#64)).getLsbD j = _
    rw [BitVec.getLsbD_and, BitVec.getLsbD_not, BitVec.getLsbD_and, hmask j hj, decide_eq_true (by omega : j < 64),
      Bool.true_and, Bool.and_true]
  · show (s.csr.ii1 &&& ~~~((d >>> 16) &&& 0xFFFF#64)).getLsbD j = _
    rw [BitVec.getLsbD_and, BitVec.getLsbD_not, BitVec.getLsbD_and, BitVec.getLsbD_ushiftRight, hmask j hj,
      decide_eq_true (by omega : j < 64), Bool.true_and, Bool.and_true]

/-! ### The corrected-error counter and its window -/

/-- A bit is 1 after it is set. -/
theorem getLsbD_setBit (w : W64) (n j : Nat) (hn : n < 64) : (setBit w n).getLsbD j = (w.getLsbD j || decide (n = j)) := by
  rw [setBit, BitVec.getLsbD_or, BitVec.getLsbD_twoPow, decide_eq_true hn, Bool.true_and]

/-- Where the count sits, and what is beside it. -/
theorem hserrCnt_put (w : W64) (c : Nat) : ((putField w 0 (BitVec.ofNat 32 c)).extractLsb' 0 32).toNat = c % 2 ^ 32 ∧
    (putField w 0 (BitVec.ofNat 32 c)).getLsbD 32 = w.getLsbD 32 ∧
    (setBit (putField w 0 (BitVec.ofNat 32 c)) 32).extractLsb' 0 32 = (putField w 0 (BitVec.ofNat 32 c)).extractLsb' 0 32 ∧
    (setBit (putField w 0 (BitVec.ofNat 32 c)) 32).getLsbD 32 = true := by
  refine ⟨?_, ?_, ?_, ?_⟩
  · rw [extractLsb'_putField_self _ _ _ (by decide)]
    rfl
  · exact getLsbD_putField _ _ _ (by decide) _
  · apply BitVec.eq_of_getLsbD_eq
    intro j hj
    rw [BitVec.getLsbD_extractLsb', BitVec.getLsbD_extractLsb', getLsbD_setBit _ _ _ (by decide),
      decide_eq_false (by omega : ¬32 = 0 + j), Bool.or_false]
  · rw [getLsbD_setBit _ _ _ (by decide), decide_eq_true rfl, Bool.or_true]

/-- A counted error: one more, and what a carry at the threshold's bit does (R334). -/
theorem State.countCorrected_spec (s : State) :
    let c := (s.csr.hserrCnt.extractLsb' 0 32).toNat + 1
    let carries := c % 2 ^ ((s.csr.hserrTh.extractLsb' 7 5).toNat + if s.par.carryOut then 1 else 0) = 0
    let t := s.countCorrected
    (t.csr.hserrCnt.extractLsb' 0 32).toNat = c % 2 ^ 32 ∧
    (carries → t.csr.hserrCnt.getLsbD 32 = true ∧ t.csr.raw = s.csr.raw ||| BitVec.twoPow 256 s.csr.crVec.toNat ∧
      t.out = .correctedThreshold :: s.out) ∧
    (¬carries → t = { s with csr := { s.csr with hserrCnt := t.csr.hserrCnt } } ∧
      t.csr.hserrCnt.getLsbD 32 = s.csr.hserrCnt.getLsbD 32) := by
  intro c carries t
  obtain ⟨hcount, hbeside, hlow, hof⟩ := hserrCnt_put s.csr.hserrCnt c
  by_cases hc : carries
  · have ht : t = ({ s with csr := { s.csr with hserrCnt := setBit (putField s.csr.hserrCnt 0 (BitVec.ofNat 32 c)) 32 } }.request
        s.csr.crVec).emit .correctedThreshold := if_pos hc
    rw [ht]
    exact ⟨(congrArg BitVec.toNat hlow).trans hcount, fun _ => ⟨hof, rfl, rfl⟩, fun hn => absurd hc hn⟩
  · have ht : t = { s with csr := { s.csr with hserrCnt := putField s.csr.hserrCnt 0 (BitVec.ofNat 32 c) } } := if_neg hc
    rw [ht]
    exact ⟨hcount, fun h => absurd h hc, fun _ => ⟨rfl, hbeside⟩⟩

/-- The window of the corrected-error counter (R335). -/
theorem State.passHserr_spec (s : State) (n : Nat) :
    let limit := 2 ^ ((s.csr.hserrTh.extractLsb' 0 6).toNat + if s.par.carryOut then 1 else 0)
    let u := s.passHserr n
    (s.csr.hserrTh.getLsbD 6 = true → u = s) ∧
    (s.csr.hserrTh.getLsbD 6 = false → s.hserrTime.toNat / limit < (s.hserrTime.toNat + n) / limit →
      u.csr.hserrCnt.extractLsb' 0 32 = 0 ∧ u.hserrTime = BitVec.ofNat 64 ((s.hserrTime.toNat + n) % limit)) ∧
    (s.csr.hserrTh.getLsbD 6 = false → ¬s.hserrTime.toNat / limit < (s.hserrTime.toNat + n) / limit →
      u.csr = s.csr ∧ u.hserrTime = s.hserrTime + BitVec.ofNat 64 n) := by
  intro limit u
  have hu : u = s.passHserr n := rfl
  unfold State.passHserr at hu
  dsimp only at hu
  refine ⟨fun hoff => ?_, fun hon hcarry => ?_, fun hon hcarry => ?_⟩
  · rw [hu, hoff]
    rfl
  · rw [hu, hon, decide_eq_true hcarry]
    exact ⟨extractLsb'_putField_self _ _ _ (by decide), rfl⟩
  · rw [hu, hon, decide_eq_false hcarry]
    refine ⟨rfl, ?_⟩
    show BitVec.ofNat 64 (s.hserrTime.toNat + n) = _
    rw [BitVec.ofNat_add, BitVec.ofNat_toNat, BitVec.setWidth_eq]

/-! ### INT_REQ -/

/-- Nothing is sent while Valid is 0 (R172). -/
theorem State.sendIntReq_of_invalid {s : State} (h : s.csr.intReq.getLsbD 25 = false) : s.sendIntReq = s := by
  rw [State.sendIntReq]
  dsimp only
  rw [h]
  rfl

/-- The state in which a request has left the core (R172). -/
def State.intReqSent (s : State) : State :=
  { s with
    csr := { s.csr with intReq := clrBit s.csr.intReq 25 }
    out := .interrupt (s.csr.intReq.extractLsb' 23 2) (s.csr.intReq.extractLsb' 0 16) :: s.out }

/-- A valid request leaves the core, and reaches the core itself where it names it (R172, R610). -/
theorem State.sendIntReq_of_valid {s : State} (h : s.csr.intReq.getLsbD 25 = true) :
    s.sendIntReq = if s.csr.intReq.getLsbD s.par.coreId.toNat then s.intReqSent.selfRequest (s.csr.intReq.extractLsb' 23 2)
      else s.intReqSent := by
  rw [State.sendIntReq]
  dsimp only
  rw [h]
  rfl

/-- A request to a core that is disconnected is lost, for II0 and II1 with a software fault (R611). -/
theorem State.selfRequest_of_offline {s : State} (h : s.online = false) (kind : BitVec 2) :
    s.selfRequest kind = { s with out := (if decide (kind.toNat < 2) then [Output.softwareFault] else []) ++ s.out } := by
  have hkind : s.selfRequest kind = if decide (kind.toNat < 2) then s.emit .softwareFault else s := by
    unfold State.selfRequest
    rw [if_pos (by rw [h]; decide)]
    obtain rfl | rfl | rfl | rfl := mode_cases kind <;> rfl
  rw [hkind]
  split <;> rfl

/-- With INTEN = 0 the system interface holds II0 and II1 back and loses the sleep interrupt (R610). -/
theorem State.selfRequest_of_disabled {s : State} (h : s.online = true) (hi : s.inten = false) (kind : BitVec 2) :
    s.selfRequest kind = { s with heldIntr := s.heldIntr ||| (if kind = 0 then 1 else if kind = 1 then 2 else 0) } := by
  have hnone : s.heldIntr ||| 0 = s.heldIntr := BitVec.or_zero
  unfold State.selfRequest
  rw [if_neg (by rw [h]; decide)]
  obtain rfl | rfl | rfl | rfl := mode_cases kind
  · exact if_neg (by rw [hi]; decide)
  · exact if_neg (by rw [hi]; decide)
  · exact (if_neg (by rw [hi]; decide)).trans (congrArg (fun v => { s with heldIntr := v }) hnone).symm
  · exact (congrArg (fun v => { s with heldIntr := v }) hnone).symm

/-- A request of the core to itself leaves INT_REQ alone. -/
theorem State.selfRequest_intReq (s : State) (kind : BitVec 2) : (s.selfRequest kind).csr.intReq = s.csr.intReq := by
  unfold State.selfRequest
  split
  · split <;> rfl
  · split
    · dsimp only
      split <;> rfl
    · dsimp only
      split <;> rfl
    · split <;> rfl
    · rfl

/-- A request of the core to itself arrives (R610, R613). -/
theorem State.selfRequest_of_enabled {s : State} (h : s.online = true) (hi : s.inten = true) (hheld : s.heldIntr = 0)
    (kind : BitVec 2) :
    (s.selfRequest kind).out = s.out ∧
    (s.selfRequest kind).csr.ii0 = (if kind = 0 then sourceBit s.csr.ii0 s.par.coreId else s.csr.ii0) ∧
    (s.selfRequest kind).csr.ii1 = (if kind = 1 then sourceBit s.csr.ii1 s.par.coreId else s.csr.ii1) ∧
    (s.selfRequest kind).csr.raw = (if kind = 2 then s.csr.raw ||| BitVec.twoPow 256 s.csr.sleepVec.toNat
      else s.csr.raw) := by
  unfold State.selfRequest
  rw [if_neg (by rw [h]; decide)]
  obtain rfl | rfl | rfl | rfl := mode_cases kind
  · dsimp only [State.deliverHeld]
    rw [hi, hheld]
    exact ⟨rfl, (if_pos (by decide)).trans (if_pos rfl).symm, (if_neg (by decide)).trans (if_neg (by decide)).symm,
      (if_neg (by decide)).symm⟩
  · dsimp only [State.deliverHeld]
    rw [hi, hheld]
    exact ⟨rfl, (if_neg (by decide)).trans (if_neg (by decide)).symm, (if_pos (by decide)).trans (if_pos rfl).symm,
      (if_neg (by decide)).symm⟩
  · dsimp only
    rw [hi]
    exact ⟨rfl, rfl, rfl, rfl⟩
  · exact ⟨rfl, rfl, rfl, rfl⟩

/-- INTEN = 1 hands over what was held back (R610). -/
theorem getLsbD_sourceBit_if (w : W64) (b : Bool) (c : BitVec 4) :
    (if b then sourceBit w c else w).getLsbD c.toNat = (w.getLsbD c.toNat || b) := by
  have hc : c.toNat < 64 := by omega
  cases b
  · exact (Bool.or_false _).symm
  · exact (getLsbD_setBit w _ _ hc).trans (by rw [decide_eq_true rfl])

/-- What leaves the core and what comes back to it (R172, R610–R613). -/
theorem State.sendIntReq_spec (s : State) :
    let r := s.csr.intReq
    let kind := r.extractLsb' 23 2
    let me := s.par.coreId.toNat
    let t := s.sendIntReq
    let sent := Output.interrupt kind (r.extractLsb' 0 16)
    r.getLsbD 25 = true → t.csr.intReq = r &&& ~~~(BitVec.twoPow 64 25) ∧
      (r.getLsbD me = false ∨ s.online = false ∨ s.inten = false →
        t.csr = { s.csr with intReq := t.csr.intReq } ∧
        t.out = (if r.getLsbD me && !s.online && decide (kind.toNat < 2) then [.softwareFault, sent] else [sent]) ++ s.out) ∧
      (r.getLsbD me = false ∨ s.online = false → t.heldIntr = s.heldIntr) ∧
      (r.getLsbD me = true → s.online = true → s.inten = false →
        t.heldIntr = s.heldIntr ||| (if kind = 0 then 1 else if kind = 1 then 2 else 0)) ∧
      (r.getLsbD me = true → s.online = true → s.inten = true → s.heldIntr = 0 → t.out = sent :: s.out ∧
        t.csr.ii0 = (if kind = 0 then s.csr.ii0 ||| BitVec.twoPow 64 me else s.csr.ii0) ∧
        t.csr.ii1 = (if kind = 1 then s.csr.ii1 ||| BitVec.twoPow 64 me else s.csr.ii1) ∧
        t.csr.raw = (if kind = 2 then s.csr.raw ||| BitVec.twoPow 256 s.csr.sleepVec.toNat else s.csr.raw)) := by
  intro r kind me t sent hvalid
  have ht : t = if r.getLsbD me then s.intReqSent.selfRequest kind else s.intReqSent := State.sendIntReq_of_valid hvalid
  cases hme : r.getLsbD me
  case false =>
    rw [ht, hme]
    exact ⟨rfl, fun _ => ⟨rfl, rfl⟩, fun _ => rfl, fun h => Bool.noConfusion h, fun h => Bool.noConfusion h⟩
  case true =>
    rw [hme, if_pos rfl] at ht
    cases hon : s.online
    case false =>
      rw [ht, State.selfRequest_of_offline (s := s.intReqSent) hon]
      refine ⟨rfl, fun _ => ⟨rfl, ?_⟩, fun _ => rfl, fun _ h => Bool.noConfusion h, fun _ h => Bool.noConfusion h⟩
      cases decide (kind.toNat < 2) <;> rfl
    case true =>
      cases hin : s.inten
      case false =>
        rw [ht, State.selfRequest_of_disabled (s := s.intReqSent) hon hin]
        exact ⟨rfl, fun _ => ⟨rfl, rfl⟩, fun h => h.elim (fun h => Bool.noConfusion h) fun h => Bool.noConfusion h,
          fun _ _ _ => rfl, fun _ _ h => Bool.noConfusion h⟩
      case true =>
        have hreq : t.csr.intReq = r &&& ~~~(BitVec.twoPow 64 25) := by
          rw [ht]
          exact State.selfRequest_intReq s.intReqSent kind
        refine ⟨hreq, fun h => h.elim (fun h => Bool.noConfusion h) fun h => h.elim (fun h => Bool.noConfusion h) fun h =>
            Bool.noConfusion h, fun h => h.elim (fun h => Bool.noConfusion h) fun h => Bool.noConfusion h,
          fun _ _ h => Bool.noConfusion h, fun _ _ _ hheld => ?_⟩
        rw [ht]
        exact State.selfRequest_of_enabled (s := s.intReqSent) hon hin hheld kind

/-- INTEN = 1 delivers what was held back (R610; log 68). -/
theorem applyInput_inten {s : State} (h : s.power ≠ .deepSleep) :
    (applyInput s (.inten true)).csr.ii0.getLsbD s.par.coreId.toNat =
      (s.csr.ii0.getLsbD s.par.coreId.toNat || s.heldIntr.getLsbD 0) ∧
    (applyInput s (.inten true)).csr.ii1.getLsbD s.par.coreId.toNat =
      (s.csr.ii1.getLsbD s.par.coreId.toNat || s.heldIntr.getLsbD 1) := by
  have happly : applyInput s (.inten true) = { s with inten := true }.deliverHeld := if_neg h
  rw [happly]
  exact ⟨getLsbD_sourceBit_if s.csr.ii0 _ s.par.coreId, getLsbD_sourceBit_if s.csr.ii1 _ s.par.coreId⟩

/-- Settles O30: requests, the corrected-error counter and INT_REQ. -/
theorem interruptRequests : Obligations.InterruptRequests := by
  refine ⟨fun s t k n d => ⟨s.request_raw n, getLsbD_readCsr_intStat s k, fun h j _ => getLsbD_raw_intClr h j, writeCsr_iiClr⟩,
    fun s => ?_, fun s => ⟨State.sendIntReq_of_invalid, s.sendIntReq_spec, applyInput_inten⟩⟩
  obtain ⟨hcount, hcarry, hnone⟩ := s.countCorrected_spec
  exact ⟨hcount, hcarry, hnone, s.passHserr_spec⟩

end Sys2Proof.Machine

/-! ## A page fill is found again: settles O41 -/

namespace Sys2Proof.Machine

/-! ### The physical address of a filled page -/

/-- The physical address as numbers: the frame's bits above the granularity, the address's below (R314). -/
theorem joinPage_frame {m n : Nat} (gh : BitVec 2) (frame : BitVec m) (va : W64) (f v : PAddr)
    (hf : f.toNat = frame.toNat * 8192) (hv : v.toNat = va.toNat % 2 ^ n) (hn : 28 ≤ n) :
    joinPage gh f v = BitVec.ofNat 48 (frame.toNat * 8192 / 2 ^ (13 + 5 * gh.toNat) * 2 ^ (13 + 5 * gh.toNat) +
      va.toNat % 2 ^ (13 + 5 * gh.toNat)) := by
  have hgh := gh.isLt
  rw [joinPage_toNat, hf, hv, Nat.mod_mod_of_dvd _ (Nat.pow_dvd_pow 2 (by omega))]

/-- The frame of a DTB entry. -/
theorem joinPage_dtb (gh : BitVec 2) (frame : BitVec 35) (va : W64) :
    joinPage gh (frame ++ 0#13) (va.extractLsb' 0 48) =
      BitVec.ofNat 48 (frame.toNat * 8192 / 2 ^ (13 + 5 * gh.toNat) * 2 ^ (13 + 5 * gh.toNat) +
        va.toNat % 2 ^ (13 + 5 * gh.toNat)) := by
  refine joinPage_frame (n := 48) gh frame va _ _ ?_ (BitVec.extractLsb'_toNat ..) (by decide)
  rw [BitVec.toNat_append, BitVec.toNat_ofNat, Nat.zero_mod, Nat.or_zero, Nat.shiftLeft_eq]

/-- The frame of an ITB entry, with PA[47] = 0. -/
theorem joinPage_itb (gh : BitVec 2) (frame : BitVec 34) (va : W64) :
    joinPage gh (0#1 ++ frame ++ 0#13) (0#1 ++ va.extractLsb' 0 47) =
      BitVec.ofNat 48 (frame.toNat * 8192 / 2 ^ (13 + 5 * gh.toNat) * 2 ^ (13 + 5 * gh.toNat) +
        va.toNat % 2 ^ (13 + 5 * gh.toNat)) := by
  refine joinPage_frame (n := 47) gh frame va _ _ ?_ ?_ (by decide)
  · rw [BitVec.toNat_append, BitVec.toNat_append, BitVec.toNat_ofNat, BitVec.toNat_ofNat, Nat.zero_mod,
      Nat.zero_shiftLeft, Nat.zero_or, Nat.or_zero, Nat.shiftLeft_eq]
  · rw [BitVec.toNat_append, BitVec.toNat_ofNat, Nat.zero_mod, Nat.zero_shiftLeft, Nat.zero_or, BitVec.extractLsb'_toNat,
      Nat.shiftRight_zero]

/-! ### The DTB -/

/-- A fill of a page that no entry hits leaves one that does (R286). -/
theorem dtbFill_filter {s : State} {e : DtbEntry} {va : W64} (hnone : ∀ x ∈ s.dtb, dtbHits s.csr va x = false)
    (hit : dtbHits s.csr va e = true) : (dtbFill s e).dtb.filter (dtbHits s.csr va) = [e] := by
  show ((e :: s.dtb).take 608).filter (dtbHits s.csr va) = [e]
  rw [List.take_succ_cons, List.filter_cons_of_pos hit, List.filter_eq_nil_iff.2]
  intro x hx
  rw [hnone x (List.mem_of_mem_take hx)]
  decide

/-- The entry of a DTB fill hits the page named in DTB_TAG. -/
theorem dtbEntryOf_hits {c : Csrs} {d va : W64} (hpage : va.extractLsb' 13 40 >>> (5 * (d.extractLsb' 5 2).toNat) =
    c.dtbTag.extractLsb' 13 40 >>> (5 * (d.extractLsb' 5 2).toNat)) : dtbHits c va (dtbEntryOf c d) = true :=
  dtbHits_iff.2 ⟨hpage.symm, rfl, .inr rfl⟩

/-- A data access to a page just filled (R141, R310). -/
theorem translateD_dtbFill {s : State} {d va : W64} (hvm : s.mode = 1#2 → va.getLsbD 52 = true)
    (hnone : ∀ x ∈ s.dtb, dtbHits s.csr va x = false)
    (hpage : va.extractLsb' 13 40 >>> (5 * (d.extractLsb' 5 2).toNat) =
      s.csr.dtbTag.extractLsb' 13 40 >>> (5 * (d.extractLsb' 5 2).toNat)) :
    let k := 13 + 5 * (d.extractLsb' 5 2).toNat
    let f := denyFlags (dtbEntryOf s.csr d) s.mode true false
    let pa := BitVec.ofNat 48 ((d.extractLsb' 24 35).toNat * 8192 / 2 ^ k * 2 ^ k + va.toNat % 2 ^ k)
    translateD (dtbFill s (dtbEntryOf s.csr d)) .normal true false va = if f = 0 then .page pa else .denied f pa := by
  intro k f pa
  rw [translateD_of_one (s := dtbFill s (dtbEntryOf s.csr d)) (by decide) hvm
    (dtbFill_filter hnone (dtbEntryOf_hits hpage)), if_pos rfl, joinPage_dtb]
  rfl

/-! ### The ITB -/

/-- Two page numbers that agree at a granularity agree at every coarser one (R87). -/
theorem pageMatch_of_le {g h : BitVec 2} {a b : BitVec 40} (hle : g.toNat ≤ h.toNat) (hm : pageMatch g a b = true) :
    pageMatch h a b = true := by
  rw [pageMatch_iff] at hm ⊢
  obtain ⟨k, hk⟩ := Nat.le.dest (Nat.mul_le_mul_left 5 hle)
  rw [← hk, BitVec.shiftRight_add, BitVec.shiftRight_add, hm]

/-- Two page numbers that agree with a third. -/
theorem pageMatch_trans {g : BitVec 2} {a b c : BitVec 40} (hab : pageMatch g a c = true) (hbc : pageMatch g b c = true) :
    pageMatch g a b = true := by
  rw [pageMatch_iff] at *
  exact hab.trans hbc.symm

/-- Two entries that hit one address conflict (R282). -/
theorem itbConflict_of_hits {c : Csrs} {va : W64} {a b : ItbEntry} (ha : itbHits c va a = true) (hb : itbHits c va b = true) :
    itbConflict a b = true := by
  simp only [itbHits, Bool.and_eq_true, Bool.or_eq_true, decide_eq_true_eq] at ha hb
  obtain ⟨⟨hpa, hva⟩, hua⟩ := ha
  obtain ⟨⟨hpb, hvb⟩, hub⟩ := hb
  have hpage : pageMatch (if a.gh.toNat < b.gh.toNat then b.gh else a.gh) a.va b.va = true := by
    split
    next hlt => exact pageMatch_trans (pageMatch_of_le (by omega) hpa) hpb
    next hge => exact pageMatch_trans hpa (pageMatch_of_le (by omega) hpb)
  simp only [itbConflict, Bool.and_eq_true, Bool.or_eq_true, decide_eq_true_eq]
  refine ⟨⟨hpage, hva.trans hvb.symm⟩, ?_⟩
  rcases hua with hks | hua
  · exact .inl (.inl hks)
  · rcases hub with hks | hub
    · exact .inl (.inr hks)
    · exact .inr (hua.trans hub.symm)

/-- A fill goes into the buffer. -/
theorem itbSlot_lt (t : Vector (Option ItbEntry) 32) (ptr : BitVec 5) (e : ItbEntry) : itbSlot t ptr e < 32 := by
  unfold itbSlot
  split
  next i hi => simpa using (List.findIdx?_eq_some_iff_findIdx_eq.1 hi).1
  next =>
    split
    next i hi => simpa using (List.findIdx?_eq_some_iff_findIdx_eq.1 hi).1
    next => exact ptr.isLt

/-- After a fill the new entry is the one found where it hits (R282). -/
theorem itbFill_find {s : State} {e : ItbEntry} {va : W64} (hit : itbHits s.csr va e = true) :
    (itbFill s e).itb.toList.find? (fun o => o.any (itbHits s.csr va)) = some (some e) := by
  have hslot := itbSlot_lt s.itb s.itbPtr e
  have hget : (itbFill s e).itb[itbSlot s.itb s.itbPtr e] = some e := by
    simp [itbFill]
  have hmem : some e ∈ (itbFill s e).itb.toList := by
    rw [Vector.mem_toList_iff, ← hget]
    exact Vector.getElem_mem hslot
  have honly : ∀ o ∈ (itbFill s e).itb.toList, o.any (itbHits s.csr va) = true → o = some e := by
    intro o ho hany
    obtain ⟨k, hk, hko⟩ := Vector.getElem_of_mem (Vector.mem_toList_iff.1 ho)
    cases o
    case none => exact Bool.noConfusion hany
    case some a =>
      rcases itbFill_cases (k := ⟨k, hk⟩) hko with ⟨-, rfl⟩ | ⟨-, -, hfree⟩
      · rfl
      · exact Bool.noConfusion (hfree.symm.trans (itbConflict_of_hits hit hany))
  cases hfind : (itbFill s e).itb.toList.find? (fun o => o.any (itbHits s.csr va))
  case none => exact absurd hit (List.find?_eq_none.1 hfind _ hmem)
  case some o => rw [honly o (List.mem_of_find?_eq_some hfind) (List.find?_some hfind)]

/-- The entry of an ITB fill hits the page named in ITB_TAG. -/
theorem itbEntryOf_hits {c : Csrs} {d va : W64} (hpage : va.extractLsb' 13 40 >>> (5 * (d.extractLsb' 5 2).toNat) =
    c.itbTag.extractLsb' 13 40 >>> (5 * (d.extractLsb' 5 2).toNat)) : itbHits c va (itbEntryOf c d) = true := by
  have hmatch : pageMatch (d.extractLsb' 5 2) (c.itbTag.extractLsb' 13 40) (va.extractLsb' 13 40) = true :=
    (pageMatch_iff ..).2 hpage.symm
  simp [itbHits, itbEntryOf, hmatch]

/-- Which mode an ITB entry lets execute (R300 step 5). -/
theorem ItbEntry.allows_iff (e : ItbEntry) {m : BitVec 2} (hm : m ≠ 0#2) : e.allows m = true ↔
    (m = 1#2 ∧ e.vee = true) ∨ (m = 2#2 ∧ e.kee = true) ∨ (m = 3#2 ∧ e.uee = true) := by
  obtain rfl | rfl | rfl | rfl := mode_cases m
  · exact absurd rfl hm
  · simp [ItbEntry.allows]
  · simp [ItbEntry.allows]
  · simp [ItbEntry.allows]

/-- An address that TranslateI looks up (R300 step 1). -/
theorem translateI_mapped {s : State} {va : W64} (hhm : s.mode ≠ 0#2) (hvm : s.mode = 1#2 → va.getLsbD 52 = true) :
    ¬(s.mode = 0#2 ∨ (s.mode = 1#2 ∧ va.getLsbD 52 = false)) := by
  rintro (h | ⟨hm, hlow⟩)
  · exact hhm h
  · exact Bool.false_ne_true (hlow.symm.trans (hvm hm))

/-- A fetch whose lookup found an entry (R300 steps 5 and 6). -/
theorem translateI_of_found {s : State} {va : W64} {e : ItbEntry}
    (hmapped : ¬(s.mode = 0#2 ∨ (s.mode = 1#2 ∧ va.getLsbD 52 = false)))
    (hfind : s.itb.toList.find? (fun o => o.any (itbHits s.csr va)) = some (some e)) :
    translateI s va = if e.allows s.mode then
      .page (joinPage e.gh (0#1 ++ e.pa ++ 0#13) (0#1 ++ va.extractLsb' 0 47)) e.ks e.vpn e.upn else .denied := by
  unfold translateI
  dsimp only
  rw [if_neg hmapped, hfind]

/-- A fetch from a page just filled (R81, R300). -/
theorem translateI_itbFill {s : State} {d va : W64} (hhm : s.mode ≠ 0#2) (hvm : s.mode = 1#2 → va.getLsbD 52 = true)
    (hpage : va.extractLsb' 13 40 >>> (5 * (d.extractLsb' 5 2).toNat) =
      s.csr.itbTag.extractLsb' 13 40 >>> (5 * (d.extractLsb' 5 2).toNat)) :
    let k := 13 + 5 * (d.extractLsb' 5 2).toNat
    translateI (itbFill s (itbEntryOf s.csr d)) va = if (itbEntryOf s.csr d).allows s.mode then
      .page (BitVec.ofNat 48 ((d.extractLsb' 13 34).toNat * 8192 / 2 ^ k * 2 ^ k + va.toNat % 2 ^ k))
        (d.getLsbD 4) s.csr.vpn s.csr.upn
      else .denied := by
  intro k
  rw [translateI_of_found (s := itbFill s (itbEntryOf s.csr d)) (translateI_mapped hhm hvm)
    (itbFill_find (itbEntryOf_hits hpage)), joinPage_itb]
  rfl

/-- The page number survives the masking of a tag register (R80, R140). -/
theorem tagPage (d : W64) : (d &&& 0x001FFFFFFFFFE000#64).extractLsb' 13 40 = d.extractLsb' 13 40 := by
  have hmask : ∀ n, n < 40 → (0x001FFFFFFFFFE000#64).getLsbD (13 + n) = true := by decide
  apply BitVec.eq_of_getLsbD_eq
  intro n hn
  rw [BitVec.getLsbD_extractLsb', BitVec.getLsbD_extractLsb', BitVec.getLsbD_and, hmask n hn, Bool.and_true]

/-- Settles O41: the entry just filled is the one that hits. -/
theorem tlbFills : Obligations.TlbFills := by
  refine ⟨fun s d va hvm hnone hpage => ⟨_, rfl, translateD_dtbFill hvm hnone hpage⟩,
    fun s d va hhm hvm hpage => ⟨_, rfl, fun hmay => ?_, fun hnot => ?_⟩, fun s t d => ⟨fun h => ?_, fun h => ?_⟩⟩
  · rw [translateI_itbFill hhm hvm hpage, if_pos ((ItbEntry.allows_iff _ hhm).2 hmay)]
  · rw [translateI_itbFill hhm hvm hpage, if_neg (fun h => hnot ((ItbEntry.allows_iff _ hhm).1 h))]
  · obtain rfl := of_writeCsr h rfl
    exact ⟨tagPage d, rfl⟩
  · obtain rfl := of_writeCsr h rfl
    exact ⟨tagPage d, rfl⟩

end Sys2Proof.Machine

/-! ## Fetching: settles O5 and O6 -/

namespace Sys2Proof.Machine

variable {s : State}

/-! ### The instruction cache -/

/-- No way of the set holds a line: nothing is found in this cache. -/
theorem icFind_of_emptySet {v : Vector IcSet 64} (h : v[s.icSet].ways = Vector.replicate 4 none) : icFind s v = none := by
  unfold icFind
  rw [h]
  rfl

/-- No line hits where the set is empty and no IC_FLUSH waits for a barrier (R263, R741). -/
theorem icLookup_of_emptySet (h : s.icache[s.icSet].ways = Vector.replicate 4 none)
    (hold : ∀ e ∈ s.unsynced, e.cache = none) : icLookup s = none := by
  have holds : (s.unsynced.filter (fun e => decide (e.sync ≠ .readBack))).filterMap CsrWrite.cache = [] :=
    List.filterMap_eq_nil_iff.2 fun e he => hold e (List.mem_of_mem_filter he)
  unfold icLookup
  rw [holds, icFind_of_emptySet h]
  rfl

/-- An empty set holds no wrong parity. -/
theorem checkParity_of_emptySet (h : s.icache[s.icSet].ways = Vector.replicate 4 none)
    (hold : ∀ e ∈ s.unsynced, e.cache = none) : s.checkParity = s := by
  unfold State.checkParity
  rw [icLookup_of_emptySet h hold, h]
  rfl

/-- A hit with right parity changes nothing (R340). -/
theorem checkParity_of_hit {l : IcLine} (hl : icLookup s = some l)
    (hset : ∀ w : Fin 4, ∀ x, (s.icache[s.icSet]).ways[w] = some x → x.badTag = false) (htag : l.badTag = false)
    (hdata : l.badData = false) : s.checkParity = s := by
  have hways : s.icache[s.icSet].ways.toList.any (fun o => o.any (·.badTag)) = false := by
    rw [List.any_eq_false]
    intro o ho hany
    obtain ⟨k, hk, rfl⟩ := Vector.getElem_of_mem (Vector.mem_toList_iff.1 ho)
    cases hx : s.icache[s.icSet].ways[k]
    case none => rw [hx] at hany; exact Bool.noConfusion hany
    case some x =>
      rw [hx] at hany
      exact Bool.noConfusion ((hset ⟨k, hk⟩ x hx).symm.trans hany)
  unfold State.checkParity
  rw [hl, hways]
  simp [htag, hdata]

/-! ### The word of a fetch -/

/-- A fetch that misses the instruction cache asks the ITB (R301). -/
theorem fetch_of_emptySet (h : s.icache[s.icSet].ways = Vector.replicate 4 none)
    (hold : ∀ e ∈ s.unsynced, e.cache = none) :
    (∀ pa ks vpn upn, translateI s s.pc = .page pa ks vpn upn → fetch s = fetchMemory s pa ks vpn upn) ∧
    (translateI s s.pc = .miss → fetch s = .error (s.raiseItbMiss s.pc)) ∧
    (translateI s s.pc = .denied → fetch s = .error s.raiseIacv) := by
  unfold fetch
  rw [checkParity_of_emptySet h hold]
  dsimp only
  rw [icLookup_of_emptySet h hold]
  dsimp only
  refine ⟨fun pa ks vpn upn ht => ?_, fun ht => ?_, fun ht => ?_⟩
  all_goals rw [ht]

/-- The word that a group latched from memory holds at the slot of the pc (R380, R757). -/
theorem word_of_lineData {addr : Nat} {pc : W64} (h : addr % 128 = pc.toNat % 128) :
    (groupOf (lineData s addr) pc).extractLsb' (32 * (pc.extractLsb' 2 2).toNat) 32 =
      BitVec.ofNat 32 (readMem s.mem (addr / 4 * 4) 4) := by
  have hslot : (pc.extractLsb' 2 2).toNat = pc.toNat / 4 % 4 := by
    rw [BitVec.extractLsb'_toNat, Nat.shiftRight_eq_div_pow]
  have hgroup : (pc.extractLsb' 4 3).toNat = pc.toNat / 16 % 8 := by
    rw [BitVec.extractLsb'_toNat, Nat.shiftRight_eq_div_pow]
  have haddr : addr / 4 * 4 = addr / 128 * 128 + (16 * (pc.toNat / 16 % 8) + 4 * (pc.toNat / 4 % 4)) := by omega
  rw [haddr, readMem_part _ _ 128 _ _ (by omega), groupOf, lineData, hslot, hgroup]
  generalize readMem s.mem (addr / 128 * 128) 128 = line
  apply BitVec.eq_of_getLsbD_eq
  intro n hn
  have hbit : 8 * (16 * (pc.toNat / 16 % 8) + 4 * (pc.toNat / 4 % 4)) + n =
      128 * (pc.toNat / 16 % 8) + (32 * (pc.toNat / 4 % 4) + n) := by omega
  rw [BitVec.getLsbD_extractLsb', BitVec.getLsbD_extractLsb', BitVec.getLsbD_ofNat, BitVec.getLsbD_ofNat,
    Nat.testBit_mod_two_pow, Nat.testBit_div_two_pow, ← hbit, decide_eq_true hn,
    decide_eq_true (by omega : 32 * (pc.toNat / 4 % 4) + n < 128),
    decide_eq_true (by omega : 8 * (16 * (pc.toNat / 16 % 8) + 4 * (pc.toNat / 4 % 4)) + n < 1024), Nat.add_comm n,
    Bool.true_and, Bool.true_and]

/-- A response without error: the group is latched and the line filled (R264, R301). -/
theorem fetchMemory_of_clean {pa : PAddr} {ks : Bool} {vpn : BitVec 2} {upn : BitVec 8} (harm : s.armedFetch = none)
    (hmem : memAddr pa / 4 * 4 + 4 ≤ s.par.memSize) : fetchMemory s pa ks vpn upn =
      .ok ((s.latch (memAddr pa)).icFill pa ks vpn upn (lineData s (memAddr pa))) := by
  have hs : { s with armedFetch := none } = s := (congrArg (fun a => { s with armedFetch := a }) harm).symm
  unfold fetchMemory
  dsimp only
  rw [if_neg (by omega), hs, harm]

/-- A response with a multi-bit error that nothing records and that enters no cache (R264, R356). -/
theorem fetchMemory_of_ecc {pa : PAddr} {ks : Bool} {vpn : BitVec 2} {upn : BitVec 8} (harm : s.armedFetch = some .multiEcc)
    (hmem : memAddr pa / 4 * 4 + 4 ≤ s.par.memSize) (hrec : s.csr.scCtl.getLsbD 16 = false)
    (hfill : s.csr.scCtl.getLsbD 12 = true) :
    ∃ t, fetchMemory s pa ks vpn upn = .ok t ∧ t = { s with armedFetch := none, fgroup := t.fgroup } := by
  have hkept : State.fillsLevel2 { s with armedFetch := none } pa = false := by
    show (!pa.getLsbD 46 && !s.csr.scCtl.getLsbD 12 && Config.instrFillKept s.freeCtr) = false
    rw [hfill, Bool.not_true, Bool.and_false, Bool.false_and]
  have hen : State.scEn { s with armedFetch := none } 16 = false := hrec
  refine ⟨{ s with
    armedFetch := none
    fgroup := groupOf (BitVec.ofNat 1024 (wrongBytes s.freeCtr (128 * (memAddr pa / 128)) 128)) s.pc }, ?_, rfl⟩
  unfold fetchMemory eccFetch
  dsimp only
  rw [if_neg (by omega), harm]
  dsimp only
  rw [if_neg (by rw [hen]; decide), if_neg (by rw [hkept]; decide)]

/-- Settles O5: memory on a miss, the line on a hit. -/
theorem fetchedWord : Obligations.FetchedWord := by
  refine ⟨fun s pa ks vpn upn hempty hold harm htrans hmem haddr => ?_,
    fun s pa ks vpn upn hempty hold harm htrans hmem hrec hfill => ?_, fun s l hl hset htag hdata => ?_⟩
  · have hfetch := (fetch_of_emptySet hempty hold).1 pa ks vpn upn htrans
    exact ⟨_, hfetch.trans (fetchMemory_of_clean harm hmem), word_of_lineData haddr, rfl⟩
  · obtain ⟨t, ht, hframe⟩ := fetchMemory_of_ecc (ks := ks) (vpn := vpn) (upn := upn) harm hmem hrec hfill
    exact ⟨t, ((fetch_of_emptySet hempty hold).1 pa ks vpn upn htrans).trans ht, hframe⟩
  · have hfetch : fetch s = .ok { s with fgroup := groupOf l.data s.pc } := by
      unfold fetch
      rw [checkParity_of_hit hl hset htag hdata]
      dsimp only
      rw [hl]
    refine ⟨_, hfetch, rfl, ?_⟩
    show l.data.extractLsb' (128 * (s.pc.extractLsb' 4 3).toNat) 128 = _
    rw [BitVec.extractLsb'_toNat, Nat.shiftRight_eq_div_pow]

/-! ### A fetch that is refused -/

/-- What an exception of the fetch records (R550, R575). -/
def RecordsFetch (u t : State) : Prop :=
  (∃ r, excSumIs t r 0) ∧ keepsFetchRecords u t ∧ t.csr.dsStat = u.csr.dsStat ∧ t.csr.dva = u.csr.dva

/-- The entry of a refused fetch. -/
theorem raise_recordsFetch (u : State) (off : BitVec 16) :
    faultsTo u (u.raise off u.freeReg 0) off ∧ RecordsFetch u (u.raise off u.freeReg 0) :=
  ⟨⟨rfl, rfl⟩, ⟨u.freeReg, excSumOf_zero _⟩, ⟨rfl, rfl⟩, rfl, rfl⟩

/-- An entry of the ITB hits (R281, R300). -/
theorem itbHits_iff {c : Csrs} {va : W64} {e : ItbEntry} : itbHits c va e = true ↔
    e.va >>> (5 * e.gh.toNat) = va.extractLsb' 13 40 >>> (5 * e.gh.toNat) ∧ e.vpn = c.vpcr.extractLsb' 44 2 ∧
      (e.ks = true ∨ e.upn = c.upcr.extractLsb' 39 8) := by
  unfold itbHits
  simp only [Bool.and_eq_true, Bool.or_eq_true, decide_eq_true_eq, pageMatch_iff, and_assoc]
  rfl

/-- No entry hits: a miss (R300 step 7). -/
theorem translateI_eq_miss {va : W64} (hmapped : ¬(s.mode = 0#2 ∨ (s.mode = 1#2 ∧ va.getLsbD 52 = false)))
    (hnone : ∀ (k : Fin 32) e, s.itb[k] = some e → ¬itbHits s.csr va e = true) : translateI s va = .miss := by
  have hfind : s.itb.toList.find? (fun o => o.any (itbHits s.csr va)) = none := by
    refine List.find?_eq_none.2 fun o ho hany => ?_
    obtain ⟨k, hk, hget⟩ := Vector.getElem_of_mem (Vector.mem_toList_iff.1 ho)
    cases o
    case none => exact Bool.noConfusion hany
    case some e => exact hnone ⟨k, hk⟩ e hget hany
  unfold translateI
  dsimp only
  rw [if_neg hmapped, hfind]

/-- An entry hits and no entry that does lets the mode execute: denied (R300 step 5). -/
theorem translateI_eq_denied {va : W64} (hmapped : ¬(s.mode = 0#2 ∨ (s.mode = 1#2 ∧ va.getLsbD 52 = false)))
    (hsome : ∃ (k : Fin 32) (e : ItbEntry), s.itb[k] = some e ∧ itbHits s.csr va e = true)
    (hdeny : ∀ (k : Fin 32) e, s.itb[k] = some e → itbHits s.csr va e = true → ¬e.allows s.mode = true) :
    translateI s va = .denied := by
  obtain ⟨k, e, hke, hhit⟩ := hsome
  have hmem : some e ∈ s.itb.toList := Vector.mem_toList_iff.2 (hke ▸ Vector.getElem_mem k.isLt)
  cases hfind : s.itb.toList.find? (fun o => o.any (itbHits s.csr va))
  case none => exact absurd hhit (List.find?_eq_none.1 hfind _ hmem)
  case some o =>
    obtain ⟨j, hj, hget⟩ := Vector.getElem_of_mem (Vector.mem_toList_iff.1 (List.mem_of_find?_eq_some hfind))
    have hany := List.find?_some hfind
    cases o
    case none => exact Bool.noConfusion hany
    case some f => rw [translateI_of_found hmapped hfind, if_neg (hdeny ⟨j, hj⟩ f hget hany)]

/-- A step whose fetch ends in an exception. -/
theorem step_of_fetchError {u v : State} (hu : u = boundary s) (hrun : u.power = .running) (hpend : pendingEntry u = none)
    (hfetch : fetch u = .error v) : step s = .next v := by
  unfold step afterBoundary
  rw [← hu, hrun]
  dsimp only
  rw [hpend]
  dsimp only
  unfold runInstr
  rw [hfetch]

/-- Settles O6: the miss and the denied fetch. -/
theorem fetchMisses : Obligations.FetchMisses := by
  intro s u hu hrun hpend hempty hold hhm hvm hits allows records
  have hmapped := translateI_mapped hhm hvm
  obtain ⟨-, hmiss, hdenied⟩ := fetch_of_emptySet hempty hold
  refine ⟨fun hnone => ⟨_, step_of_fetchError hu hrun hpend (hmiss (translateI_eq_miss hmapped fun k e hk hit =>
      hnone k e hk (itbHits_iff.1 hit))), raise_recordsFetch u _⟩,
    fun ⟨k, e, hk, hit⟩ hdeny => ⟨_, step_of_fetchError hu hrun hpend (hdenied (translateI_eq_denied hmapped
      ⟨k, e, hk, itbHits_iff.2 hit⟩ fun j f hj hf ha => hdeny j f hj (itbHits_iff.1 hf) ((f.allows_iff hhm).1 ha))),
      raise_recordsFetch u _⟩⟩

end Sys2Proof.Machine

/-! ## The barriers and the reads of TC, CID and TID: settles O25 -/

namespace Sys2Proof.Machine

variable {s : State}

/-! ### What a late store leaves when it takes its place -/

/-- A placed store is one more event of the stream. -/
theorem placeUnder_perm (e : MemStore) : ∀ (d : Nat) (l : List MemEvent), List.Perm (placeUnder e d l) (⟨.nc, e⟩ :: l)
  | _, [] => by
    unfold placeUnder
    exact .refl _
  | 0, x :: r => by
    unfold placeUnder
    exact .refl _
  | d + 1, x :: r => by
    unfold placeUnder
    split
    · exact .refl _
    · exact ((placeUnder_perm e d r).cons x).trans (.swap ..)

/-- The events of a stream in which the stores `l` took their places. -/
theorem mem_foldl_placeUnder (depth : MemStore → Nat) (x : MemEvent) : ∀ (l : List MemStore) (stream : List MemEvent),
    x ∈ l.foldl (fun q e => placeUnder e (depth e) q) stream ↔ x ∈ stream ∨ ∃ e ∈ l, x = ⟨.nc, e⟩
  | [], stream => by simp
  | e :: r, stream => by
    rw [List.foldl_cons, mem_foldl_placeUnder depth x r, (placeUnder_perm e (depth e) stream).mem_iff, List.mem_cons,
      List.exists_mem_cons_iff]
    tauto

/-- The chosen stores come from the late ones. -/
theorem mem_chooseLate {want : Nat → MemStore → Bool} {x : MemStore} : ∀ (l : List MemStore) (k : Nat) (chosen : List MemStore),
    x ∈ (chooseLate want k chosen l).1 → x ∈ chosen ∨ x ∈ l
  | [], _, chosen => fun h => .inl h
  | e :: r, k, chosen => by
    unfold chooseLate
    split
    · intro h
      rcases mem_chooseLate r _ _ h with h | h
      · rcases List.mem_cons.1 h with rfl | h
        · exact .inr (List.mem_cons_self ..)
        · exact .inl h
      · exact .inr (List.mem_cons_of_mem _ h)
    · intro h
      exact (mem_chooseLate r _ _ h).imp_right (List.mem_cons_of_mem _)

/-- A byte of what cacheable accesses see. -/
theorem seenBytes_byte (t : MemTrack) (m : List Host.Cell) : ∀ (n a j : Nat), j < n →
    BitVec.ofNat 8 (t.seenBytes m a n / 2 ^ (8 * j)) = t.seen m (a + j)
  | n + 1, a, 0, _ => by
    apply BitVec.eq_of_toNat_eq
    rw [MemTrack.seenBytes, BitVec.toNat_ofNat]
    have hbyte := (t.seen m a).isLt
    rw [Nat.mul_zero, Nat.pow_zero, Nat.div_one]
    show _ = (t.seen m a).toNat
    omega
  | n + 1, a, j + 1, h => by
    have hbyte := (t.seen m a).isLt
    have hpow : 2 ^ (8 * (j + 1)) = 256 * 2 ^ (8 * j) := by rw [Nat.mul_add, Nat.pow_add, Nat.mul_comm]
    rw [MemTrack.seenBytes, hpow, ← Nat.div_div_eq_div_mul,
      show ((t.seen m a).toNat + 256 * t.seenBytes m (a + 1) n) / 256 = t.seenBytes m (a + 1) n by omega,
      seenBytes_byte t m n (a + 1) j (by omega), Nat.add_right_comm, Nat.add_assoc]

/-- A byte that an event of the stream covers is one that such an event leaves. -/
theorem seen_of_covered {t : MemTrack} {m : List Host.Cell} {x : Nat} {e : MemEvent} (he : e ∈ t.stream)
    (hbyte : e.byte x ≠ none) : ∃ f ∈ t.stream, f.byte x = some (t.seen m x) := by
  unfold MemTrack.seen
  cases hfind : t.stream.findSome? (fun e => e.byte x)
  case none => exact absurd (List.findSome?_eq_none_iff.1 hfind e he) hbyte
  case some b =>
    obtain ⟨f, hf, hb⟩ := List.exists_of_findSome?_eq_some hfind
    exact ⟨f, hf, hb⟩

/-- The range that a store covers. -/
theorem MemStore.byte_ne_none {e : MemStore} {x : Nat} : e.byte x ≠ none ↔ e.addr ≤ x ∧ x < e.addr + e.size := by
  unfold MemStore.byte
  split
  next h => exact ⟨fun _ => h, fun _ => Option.some_ne_none _⟩
  next h => exact ⟨fun h' => absurd rfl h', fun h' => absurd h' h⟩

/-- Stores do not change what is recorded of them. -/
theorem State.settle_track : ∀ (l : List MemStore) (s : State), (s.settle l).track = s.track
  | [], _ => rfl
  | _ :: r, _ => State.settle_track r _

/-- A byte after placed stores are written: as before, or covered by one of them and left by an event of the stream. -/
theorem memGet_settle {x : Nat} : ∀ (l : List MemStore) (s : State), Memory.wf s.mem = true →
    (∀ e ∈ l, (⟨.nc, e⟩ : MemEvent) ∈ s.track.real.stream) →
    memGet (s.settle l).mem x = memGet s.mem x ∨
      (∃ e ∈ l, e.byte x ≠ none) ∧ ∃ f ∈ s.track.real.stream, f.byte x = some (memGet (s.settle l).mem x)
  | [], s, _, _ => .inl rfl
  | e :: r, s, hwf, hl => by
    have hset : s.settle (e :: r) = (s.store e.addr e.size (s.track.real.seenBytes s.mem e.addr e.size)).settle r := rfl
    rw [hset]
    rcases memGet_settle (x := x) r (s.store e.addr e.size (s.track.real.seenBytes s.mem e.addr e.size))
      (writeMem_wf _ _ _ hwf) (fun f hf => hl f (List.mem_cons_of_mem _ hf)) with heq | ⟨⟨f, hf, hb⟩, hseen⟩
    · rw [heq, State.store_mem, memGet_write _ _ _ _ hwf]
      split
      next hin =>
        refine .inr ⟨⟨e, List.mem_cons_self .., MemStore.byte_ne_none.2 hin⟩, ?_⟩
        rw [seenBytes_byte _ _ _ _ _ (by omega), Nat.add_sub_cancel' hin.1]
        exact seen_of_covered (hl e (List.mem_cons_self ..)) (MemStore.byte_ne_none.2 hin)
      next => exact .inl rfl
    · exact .inr ⟨⟨f, List.mem_cons_of_mem _ hf, hb⟩, hseen⟩

/-- The instruction cache keeps its lines where coherence is off (R234). -/
theorem State.settle_icache : ∀ (l : List MemStore) (s : State), s.scEn 20 = false → (s.settle l).icache = s.icache
  | [], _, _ => rfl
  | e :: r, s, h => by
    refine (State.settle_icache r (s.store e.addr e.size _) h).trans ?_
    rw [State.store_icache, if_neg (by rw [h]; decide)]

/-! ### MEMB -/

/-- The late stores that MEMB puts in their places. -/
def State.placed (s : State) : List MemStore := (s.track.real.place s.freeCtr fun _ _ => true).2

/-- The state in which they stand there. -/
def State.withPlaces (s : State) : State :=
  { s with track := (s.track.real.place s.freeCtr fun _ _ => true).1 }

/-- What MEMB makes of memory and of the record of accesses (R250). -/
theorem State.settleRaces_eq (s : State) : s.settleRaces =
    { s.withPlaces.settle s.placed with track := ⟨[], [], [], s.track.dirty⟩ } := by
  have htrack : (s.withPlaces.settle s.placed).track.dirty = s.track.dirty :=
    (congrArg MemTrack.dirty (State.settle_track s.placed s.withPlaces)).trans rfl
  exact congrArg (fun d => { s.withPlaces.settle s.placed with track := ⟨[], [], [], d⟩ }) htrack

/-- The placed stores were late. -/
theorem State.mem_placed {e : MemStore} (h : e ∈ s.placed) : e ∈ s.track.late :=
  (mem_chooseLate s.track.late 0 [] h).resolve_left List.not_mem_nil

/-- The events of the stream in which they stand. -/
theorem State.mem_withPlaces {x : MemEvent} :
    x ∈ s.withPlaces.track.stream ↔ x ∈ s.track.real.stream ∨ ∃ e ∈ s.placed, x = ⟨.nc, e⟩ :=
  mem_foldl_placeUnder (fun e => Config.raceDepth s.freeCtr e.addr e.value) x s.placed s.track.real.stream

/-- The events that the program has reached. -/
theorem mem_real {t : MemTrack} {x : MemEvent} : x ∈ t.real.stream ↔ x ∈ t.stream ∧ x.kind ≠ .early := by
  show x ∈ t.stream.filter _ ↔ _
  rw [List.mem_filter, decide_eq_true_iff]

/-- A byte after MEMB (R245, R250, D10). -/
theorem memGet_settleRaces (hwf : Memory.wf s.mem = true) (a : Nat) :
    memGet s.settleRaces.mem a = memGet s.mem a ∨ (∃ e ∈ s.track.late, e.byte a ≠ none) ∧
      ((∃ e ∈ s.track.late, e.byte a = some (memGet s.settleRaces.mem a)) ∨
        ∃ e ∈ s.track.stream, e.kind ≠ .early ∧ e.byte a = some (memGet s.settleRaces.mem a)) := by
  have hmem : s.settleRaces.mem = (s.withPlaces.settle s.placed).mem := by
    rw [State.settleRaces_eq]
  rw [hmem]
  refine (memGet_settle (x := a) s.placed s.withPlaces hwf fun e he =>
    mem_real.2 ⟨State.mem_withPlaces.2 (.inr ⟨e, he, rfl⟩), EventKind.noConfusion⟩).imp_right ?_
  rintro ⟨⟨e, he, hcover⟩, f, hf, hbyte⟩
  refine ⟨⟨e, State.mem_placed he, hcover⟩, ?_⟩
  rcases State.mem_withPlaces.1 (mem_real.1 hf).1 with hstream | ⟨g, hg, rfl⟩
  · obtain ⟨hin, hkind⟩ := mem_real.1 hstream
    exact .inr ⟨f, hin, hkind, hbyte⟩
  · exact .inl ⟨g, State.mem_placed hg, hbyte⟩

/-- MEMB orders no CSR but the status registers (R750). -/
theorem State.noteMemb_oldValues (s : State) : s.noteMemb.oldValues 0x11 = s.oldValues 0x11 := by
  funext strict
  unfold State.oldValues State.noteMemb
  dsimp only
  rw [List.filter_filter]
  refine congrArg (List.map CsrWrite.old) (List.filter_congr fun e _ => ?_)
  by_cases h : e.idx = 0x11
  · rw [h]
    exact Bool.and_true _
  · rw [decide_eq_false h, Bool.false_and, Bool.false_and]

/-- The state that MEMB retires. -/
def State.afterMemb (s : State) : State :=
  if s.csr.cpCtl.getLsbD 5 then ({ s.settleRaces.noteMemb with ioWin := none } : State).emit (.barrier (s.scEn 11))
  else { s.settleRaces.noteMemb with ioWin := none }

/-- What MEMB changes beside memory and its record. -/
theorem State.afterMemb_eq (s : State) : s.afterMemb = { s with
    ioWin := none, mem := s.settleRaces.mem, icache := s.settleRaces.icache, unsynced := s.settleRaces.noteMemb.unsynced
    track := ⟨[], [], [], s.track.dirty⟩
    out := if s.csr.cpCtl.getLsbD 5 then .barrier (s.csr.scCtl.getLsbD 11) :: s.out else s.out } := by
  have hsame := s.settleRaces_stored.same
  have htrack : s.settleRaces.track = ⟨[], [], [], s.track.dirty⟩ := congrArg State.track s.settleRaces_eq
  have hbase : ({ s.settleRaces.noteMemb with ioWin := none } : State) = { s with
      ioWin := none, mem := s.settleRaces.mem, icache := s.settleRaces.icache, unsynced := s.settleRaces.noteMemb.unsynced
      track := ⟨[], [], [], s.track.dirty⟩ } := by
    rw [← htrack]
    exact congrArg (fun v : State => { v with ioWin := none, unsynced := s.settleRaces.noteMemb.unsynced }) hsame
  unfold State.afterMemb
  rw [hbase]
  split <;> rfl

/-- MEMB (R250, R440). -/
theorem memb_retires (hready : ready s .none) : ∃ t, exec .memb s = .next t ∧ retires s t .nop ∧
    t.mem = s.settleRaces.mem ∧ t.icache = s.settleRaces.icache ∧ t.unsynced = s.settleRaces.noteMemb.unsynced ∧
    t = { s with
      pc := t.pc, csr := t.csr, ioWin := none, mem := t.mem, icache := t.icache, unsynced := t.unsynced
      track := ⟨[], [], [], s.track.dirty⟩
      out := if s.csr.cpCtl.getLsbD 5 then .barrier (s.csr.scCtl.getLsbD 11) :: s.out else s.out } := by
  have hexec : exec .memb s = .next (s.afterMemb.retire .nop) := by
    show execMemb s = _
    rw [execMemb, plainStage_ready _ hready]
    dsimp only
    unfold State.afterMemb
    simp
  have hold : s.afterMemb.oldValues 0x11 = s.oldValues 0x11 := by
    rw [State.afterMemb_eq]
    exact (s.settleRaces.noteMemb_oldValues).trans (funext fun _ => by rw [State.settleRaces_oldValues])
  have hcount : (s.afterMemb.count .nop).csr = (s.count .nop).csr :=
    State.count_csr_congr (by rw [State.afterMemb_eq]) (by rw [State.afterMemb_eq]; rfl) hold (by rw [State.afterMemb_eq]) _
  refine ⟨_, hexec, ?_⟩
  rw [State.retire_eq, hcount, State.afterMemb_eq]
  exact ⟨⟨rfl, rfl⟩, rfl, rfl, rfl, rfl⟩

/-- Settles O25: the barriers, NOP and the reads of TC, CID and TID. -/
theorem barriersAndReads : Obligations.BarriersAndReads := by
  refine ⟨fun s hready => ⟨?_, ?_, ?_⟩, fun s ra rb hready => ⟨?_, ?_, ?_⟩⟩
  · obtain ⟨t, hexec, hret, hmem, hic, huns, hframe⟩ := memb_retires hready
    refine ⟨t, hexec, hret, hmem, hic, huns, fun hwf a hnone => ?_, fun hwf a => ?_, fun hoff => ?_, hframe⟩
    · rw [hmem]
      exact (memGet_settleRaces hwf a).resolve_right fun ⟨⟨e, he, hb⟩, _⟩ => hb (hnone e he)
    · rw [hmem]
      exact (memGet_settleRaces hwf a).imp_right And.right
    · rw [hic, State.settleRaces_eq]
      exact State.settle_icache s.placed s.withPlaces hoff
  · refine ⟨{ s.retire .plain with unsynced := [] }, ?_, ?_⟩
    · show execImemb s = _
      rw [execImemb, plainStage_ready _ hready]
    · rw [State.retire_eq]
      exact ⟨⟨rfl, rfl⟩, fun _ => rfl, rfl⟩
  · refine ⟨s.retire .nop, ?_, resultNone_retire ..⟩
    show execNop s = _
    rw [execNop, plainStage_ready _ hready]
  · refine ⟨_, ?_, resultX_retire s .plain ra s.csr.tc⟩
    show execRtc ra rb s = _
    rw [execRtc, plainStage_ready _ hready]
  · refine ⟨_, ?_, resultX_retire s .plain ra _⟩
    show execRcid ra s = _
    rw [execRcid, plainStage_ready _ hready, ← cid_withCore]
    rfl
  · refine ⟨_, ?_, resultX_retire s .plain ra s.csr.tid⟩
    show execRtid ra s = _
    rw [execRtid, plainStage_ready _ hready]

end Sys2Proof.Machine

/-! ## What FADDD and VADDD record and how they end: settles O56 -/

namespace Sys2Proof.Machine

variable {s : State}

/-! ### The bits of the status and of the traps -/

/-- One bit of a word, where the flag holds. -/
def flagAt (n : Nat) (b : Bool) : W64 := if b then BitVec.twoPow 64 n else 0

/-- A sticky flag adds its bit. -/
theorem orBit_eq_or (w : W64) (n : Nat) (b : Bool) : orBit w n b = w ||| flagAt n b := by
  cases b
  · exact BitVec.or_zero.symm
  · rfl

/-- The bit of a flag alone. -/
theorem getLsbD_flagAt {n k : Nat} (h : n ≠ k) (b : Bool) : (flagAt n b).getLsbD k = false := by
  cases b
  · exact BitVec.getLsbD_zero
  · exact (BitVec.getLsbD_twoPow ..).trans (by rw [decide_eq_false h, Bool.and_false])

/-- An addition divides nothing and converts nothing (R884 item 5). -/
theorem addElement_flags (ctr : Nat) (fpcr : W64) (i : Nat) (int : Bool) (a b : W64) :
    (addElement ctr fpcr i int a b).dze = false ∧ (addElement ctr fpcr i int a b).ovi = false := by
  have hfree : ∀ r : W64 × BitVec 7, (FpResult.free fpcr 0b1011101#7 r).dze = false ∧
      (FpResult.free fpcr 0b1011101#7 r).ovi = false := by
    intro r
    unfold FpResult.free
    dsimp only
    split
    · exact ⟨rfl, rfl⟩
    · exact ⟨BitVec.getLsbD_and.trans (Bool.and_false _), BitVec.getLsbD_and.trans (Bool.and_false _)⟩
  have hround : ∀ dyn neg m, (roundDouble dyn neg m).dze = false ∧ (roundDouble dyn neg m).ovi = false := by
    intro dyn neg m
    unfold roundDouble
    dsimp only
    split
    · exact ⟨rfl, rfl⟩
    · split <;> split <;> exact ⟨rfl, rfl⟩
  unfold addElement
  split
  · exact hfree _
  · unfold addDoubles
    dsimp only
    split
    · exact ⟨rfl, rfl⟩
    · split
      · exact ⟨rfl, rfl⟩
      · split
        · exact ⟨rfl, rfl⟩
        · exact hround ..

/-- The trap bits of one element in the group that starts at bit `lo` (R107). -/
def trapsAt (fpcr : W64) (lo : Nat) (r : FpResult) : W64 :=
  flagAt lo (trapInv fpcr r) ||| flagAt (lo + 2) (trapOvf fpcr r) ||| flagAt (lo + 3) (trapUnf fpcr r) |||
    flagAt (lo + 4) (trapIne fpcr r)

/-- The status bits of one element in the group that starts at bit `lo` (R200). -/
def statusAt (lo : Nat) (r : FpResult) : W64 :=
  if r.den then 0 else flagAt lo r.inv ||| flagAt (lo + 2) r.ovf ||| flagAt (lo + 3) r.unf ||| flagAt (lo + 4) r.ine

/-- The traps of an element that neither divides nor converts (R569). -/
theorem excBits_eq (fpcr : W64) {r : FpResult} (hdze : r.dze = false) (hovi : r.ovi = false) :
    excBits fpcr 0 r = trapsAt fpcr 1 r ∧ excBits fpcr 1 r = trapsAt fpcr 15 r ∧ excBits fpcr 2 r = trapsAt fpcr 21 r ∧
      excBits fpcr 3 r = trapsAt fpcr 27 r := by
  have hz : trapDze fpcr r = false := by rw [trapDze, hdze, Bool.false_and]
  have ho : trapOvi fpcr r = false := by rw [trapOvi, hovi, Bool.false_and]
  have hgroup : ∀ lo, orBit (orBit (orBit (orBit (orBit (orBit 0 lo (trapInv fpcr r)) (lo + 1) false) (lo + 2)
      (trapOvf fpcr r)) (lo + 3) (trapUnf fpcr r)) (lo + 4) (trapIne fpcr r)) 6 false = trapsAt fpcr lo r := by
    intro lo
    rw [orBit_eq_or 0, orBit_eq_or _ (lo + 2), orBit_eq_or _ (lo + 3), orBit_eq_or _ (lo + 4)]
    exact congrArg (fun w => w ||| flagAt (lo + 2) (trapOvf fpcr r) ||| flagAt (lo + 3) (trapUnf fpcr r) |||
      flagAt (lo + 4) (trapIne fpcr r)) BitVec.zero_or
  unfold excBits
  rw [hz, ho]
  exact ⟨hgroup 1, hgroup 15, hgroup 21, hgroup 27⟩

/-- The status bits of an element that neither divides nor converts (R206). -/
theorem statusBits_eq {r : FpResult} (hdze : r.dze = false) (hovi : r.ovi = false) :
    statusBits 0 r = statusAt 52 r ∧ statusBits 1 r = statusAt 36 r ∧ statusBits 2 r = statusAt 20 r ∧
      statusBits 3 r = statusAt 4 r := by
  have hgroup : ∀ lo, (if r.den then 0 else orBit (orBit (orBit (orBit (orBit (orBit 0 lo r.inv) (lo + 1) false) (lo + 2)
      r.ovf) (lo + 3) r.unf) (lo + 4) r.ine) 57 false) = statusAt lo r := by
    intro lo
    rw [orBit_eq_or 0, orBit_eq_or _ (lo + 2), orBit_eq_or _ (lo + 3), orBit_eq_or _ (lo + 4)]
    exact congrArg (fun w => if r.den then 0 else w ||| flagAt (lo + 2) r.ovf ||| flagAt (lo + 3) r.unf |||
      flagAt (lo + 4) r.ine) BitVec.zero_or
  unfold statusBits
  rw [hdze, hovi]
  exact ⟨hgroup 52, hgroup 36, hgroup 20, hgroup 4⟩

/-- The status bits lie above EXC_CTL (R200). -/
theorem getLsbD_statusAt (r : FpResult) {lo : Nat} (h : 2 ≤ lo) : (statusAt lo r).getLsbD 1 = false := by
  unfold statusAt
  split
  · exact BitVec.getLsbD_zero
  · rw [BitVec.getLsbD_or, BitVec.getLsbD_or, BitVec.getLsbD_or, getLsbD_flagAt (by omega), getLsbD_flagAt (by omega),
      getLsbD_flagAt (by omega), getLsbD_flagAt (by omega)]
    rfl

/-! ### How a floating instruction ends -/

/-- A floating instruction completed: FPCR has the status bits, and the trap bits say whether it enters ARITH (R561). -/
def EndsFloat (s t : State) (fc : BitVec 5) (st bits : W64) : Prop :=
  t.fpcr = s.fpcr ||| st ∧ t.x = s.x ∧ t.sr = s.sr ∧ sameMem s t ∧
    (bits = 0 → t.pc = s.pc + 4 ∧ t.csr = (s.count .plain).csr ∧ t.lock = s.lock) ∧
    (bits ≠ 0 → t.pc = s.entry 0xB80 ∧ t.csr.excPc = sext53 s.pc ∧ t.lock = { s.lock with valid := false } ∧
      excSumIs t fc (bits ||| flagAt 0 (!(s.fpcr.extractLsb' 0 2).getLsbD 1)))

/-- EXC_CTL[1] (R200). -/
theorem excCtl_high (w : W64) : (w.extractLsb' 0 2).getLsbD 1 = w.getLsbD 1 := by
  rw [BitVec.getLsbD_extractLsb']
  rfl

/-- The end of a floating instruction whose destination is written (R561, R572). -/
theorem finishFloat_ends {u : State} (hu : u = { s with v := u.v }) (fc : BitVec 5) {st : W64} (bits : W64)
    (hst : st.getLsbD 1 = false) :
    EndsFloat s (finishFloat u fc st bits) fc st bits ∧ (finishFloat u fc st bits).v = u.v := by
  have hcount : (State.count { u with fpcr := u.fpcr ||| st } .plain).csr = (s.count .plain).csr :=
    State.count_csr_congr (by rw [hu]) (by rw [hu]; rfl) (by rw [hu]; rfl) (by rw [hu]) _
  by_cases hbits : bits = 0
  · have hfin : finishFloat u fc st bits = { s with
        v := u.v, fpcr := s.fpcr ||| st, pc := s.pc + 4, csr := (s.count .plain).csr } := by
      rw [finishFloat, if_pos hbits, State.count_eq, hcount, hu]
      rfl
    rw [hfin]
    exact ⟨⟨rfl, rfl, rfl, fun _ => rfl, fun _ => ⟨rfl, rfl, rfl⟩, fun h => absurd hbits h⟩, rfl⟩
  · have hfin : finishFloat u fc st bits =
        ({ s with v := u.v, fpcr := s.fpcr ||| st, csr := (s.count .plain).csr } : State).raiseArith fc bits := by
      rw [finishFloat, if_neg hbits, State.count_eq, hcount, hu]
    obtain ⟨hpc, hexc, hsum, hm, hx, hsr, hv, hf, hl⟩ := raiseArith_spec
      ({ s with v := u.v, fpcr := s.fpcr ||| st, csr := (s.count .plain).csr } : State) fc bits
    have hswc : (!(s.fpcr ||| st).getLsbD 1) = !(s.fpcr.extractLsb' 0 2).getLsbD 1 := by
      rw [BitVec.getLsbD_or, hst, Bool.or_false, excCtl_high]
    have hflag : (BitVec.ofBool (!(s.fpcr ||| st).getLsbD 1)).setWidth 64 =
        flagAt 0 (!(s.fpcr.extractLsb' 0 2).getLsbD 1) := by
      rw [hswc]
      generalize (s.fpcr.extractLsb' 0 2).getLsbD 1 = b
      revert b
      decide
    rw [hfin]
    refine ⟨⟨hf, hx, hsr, fun a => congrArg (memGet · a) hm, fun h => absurd h hbits,
      fun _ => ⟨hpc.trans (State.count_entry s .plain 0xB80), hexc, hl, ?_⟩⟩, hv⟩
    rw [← hflag]
    exact hsum

/-- A vector register's lanes after the write of it. -/
theorem writesOnlyV_congr {t : State} {fd : BitVec 5} {v : V256} {n : BitVec 4} {l : Fin 4 → W64}
    (hv : t.v = (s.setV fd v n).v) (hl : ∀ i : Fin 4, lane v i.val = l i) : writesOnlyV s t fd l := by
  obtain ⟨⟨hlanes, hother⟩, -⟩ := resultV_retire_of (s := s) (fd := fd) (n := n) hl
  have hvr : t.v = ((s.setV fd v n).retire .plain).v := by rw [hv, State.retire_v]
  have hget : t.getV fd = ((s.setV fd v n).retire .plain).getV fd := by unfold State.getV; rw [hvr]
  exact ⟨fun i => by rw [hget, hlanes], fun j hj => by rw [hvr, hother j hj]⟩

/-- Where no trap leaves the destination open it takes the element's value (R570, U25). -/
theorem elementValue_eq {ctr : Nat} {fpcr : W64} {i : Nat} {r : FpResult} (hdze : r.dze = false)
    (hinv : trapInv fpcr r = false) (hovf : trapOvf fpcr r = false) : elementValue ctr fpcr i r = r.value := by
  have hz : trapDze fpcr r = false := by rw [trapDze, hdze, Bool.false_and]
  rw [elementValue, hinv, hz, hovf]
  rfl

/-- What FADDD answers (R875). -/
theorem exec_faddd (hready : ready s .scalar) (fa fb fc : BitVec 5) :
    let r := addElement s.freeCtr s.fpcr 0 ((s.getInts fa).getLsbD 0 || (s.getInts fb).getLsbD 0) (s.getF fa) (s.getF fb)
    exec (.faddd fa fb fc) s = .next (finishFloat (s.setF fc (elementValue s.freeCtr s.fpcr 0 r) false) fc
      (statusAt 52 r) (trapsAt s.fpcr 1 r)) := by
  intro r
  obtain ⟨hdze, hovi⟩ : r.dze = false ∧ r.ovi = false := addElement_flags ..
  obtain ⟨hst, -⟩ := statusBits_eq hdze hovi
  obtain ⟨htr, -⟩ := excBits_eq s.fpcr hdze hovi
  show execFaddd fa fb fc s = _
  rw [execFaddd, scalarFloat, floatStage, decodeStage_ready _ _ hready, ← hst, ← htr]

/-- How FADDD ends (R561, R570, R572). -/
theorem faddd_ends (hready : ready s .scalar) (fa fb fc : BitVec 5) :
    let r := addElement s.freeCtr s.fpcr 0 ((s.getInts fa).getLsbD 0 || (s.getInts fb).getLsbD 0) (s.getF fa) (s.getF fb)
    ∃ t w, exec (.faddd fa fb fc) s = .next t ∧ EndsFloat s t fc (statusAt 52 r) (trapsAt s.fpcr 1 r) ∧
      writesOnlyF s t fc w ∧ (trapInv s.fpcr r = false → trapOvf s.fpcr r = false → w = r.value) := by
  intro r
  obtain ⟨hdze, -⟩ : r.dze = false ∧ r.ovi = false := addElement_flags ..
  obtain ⟨hends, hv⟩ := finishFloat_ends (s := s) (u := s.setF fc (elementValue s.freeCtr s.fpcr 0 r) false) rfl fc
    (trapsAt s.fpcr 1 r) (getLsbD_statusAt r (lo := 52) (by decide))
  exact ⟨_, _, exec_faddd hready fa fb fc, hends, writesOnlyF_congr (writesOnlyF_setF ..) hv,
    fun hinv hovf => elementValue_eq hdze hinv hovf⟩

/-- The result without an integer overflow, as a SIMD operation records it. -/
def withoutOvi (r : FpResult) : FpResult := { r with ovi := false }

/-- A result that has none stays. -/
theorem withoutOvi_eq {r : FpResult} (h : r.ovi = false) : withoutOvi r = r :=
  (congrArg (fun b => { r with ovi := b }) h).symm

/-- What VADDD answers (R876). -/
theorem exec_vaddd (hready : ready s .simd) (fa fb fc : BitVec 5) :
    let int := decide (s.getInts fa ||| s.getInts fb ≠ 0#4)
    let r : Fin 4 → FpResult := fun i =>
      addElement s.freeCtr s.fpcr i.val int (lane (s.getV fa) i.val) (lane (s.getV fb) i.val)
    let l : Fin 4 → W64 := fun i => elementValue s.freeCtr s.fpcr i.val (r i)
    exec (.vaddd fa fb fc) s = .next (finishFloat (s.setV fc (ofLanes (l 0) (l 1) (l 2) (l 3)) 0) fc
      (statusAt 52 (r 0) ||| statusAt 36 (r 1) ||| statusAt 20 (r 2) ||| statusAt 4 (r 3))
      (trapsAt s.fpcr 1 (r 0) ||| trapsAt s.fpcr 15 (r 1) ||| trapsAt s.fpcr 21 (r 2) ||| trapsAt s.fpcr 27 (r 3))) := by
  intro int r l
  have hdze : ∀ i, (r i).dze = false := fun i => (addElement_flags ..).1
  have hovi : ∀ i, (r i).ovi = false := fun i => (addElement_flags ..).2
  have hmask : ∀ i, withoutOvi (r i) = r i := fun i => withoutOvi_eq (hovi i)
  have hraw : exec (.vaddd fa fb fc) s = .next (finishFloat (s.setV fc (ofLanes
        (elementValue s.freeCtr s.fpcr 0 (withoutOvi (r 0))) (elementValue s.freeCtr s.fpcr 1 (withoutOvi (r 1)))
        (elementValue s.freeCtr s.fpcr 2 (withoutOvi (r 2))) (elementValue s.freeCtr s.fpcr 3 (withoutOvi (r 3)))) 0) fc
      (statusBits 0 (withoutOvi (r 0)) ||| statusBits 1 (withoutOvi (r 1)) ||| statusBits 2 (withoutOvi (r 2)) |||
        statusBits 3 (withoutOvi (r 3)))
      (excBits s.fpcr 0 (withoutOvi (r 0)) ||| excBits s.fpcr 1 (withoutOvi (r 1)) |||
        excBits s.fpcr 2 (withoutOvi (r 2)) ||| excBits s.fpcr 3 (withoutOvi (r 3)))) := by
    show execVaddd fa fb fc s = _
    rw [execVaddd, vectorFloat, simdStage, decodeStage_ready _ _ hready]
    rfl
  obtain ⟨hst0, -⟩ := statusBits_eq (hdze 0) (hovi 0)
  obtain ⟨-, hst1, -⟩ := statusBits_eq (hdze 1) (hovi 1)
  obtain ⟨-, -, hst2, -⟩ := statusBits_eq (hdze 2) (hovi 2)
  obtain ⟨-, -, -, hst3⟩ := statusBits_eq (hdze 3) (hovi 3)
  obtain ⟨htr0, -⟩ := excBits_eq s.fpcr (hdze 0) (hovi 0)
  obtain ⟨-, htr1, -⟩ := excBits_eq s.fpcr (hdze 1) (hovi 1)
  obtain ⟨-, -, htr2, -⟩ := excBits_eq s.fpcr (hdze 2) (hovi 2)
  obtain ⟨-, -, -, htr3⟩ := excBits_eq s.fpcr (hdze 3) (hovi 3)
  rw [hraw, hmask, hmask, hmask, hmask, hst0, hst1, hst2, hst3, htr0, htr1, htr2, htr3]
  rfl

/-- Four lanes read back. -/
theorem lane_ofLanes_apply (l : Fin 4 → W64) (i : Fin 4) : lane (ofLanes (l 0) (l 1) (l 2) (l 3)) i.val = l i := by
  rw [lane_ofLanes]
  fin_cases i <;> rfl

/-- How VADDD ends (R561, R569, R570, R572). -/
theorem vaddd_ends (hready : ready s .simd) (fa fb fc : BitVec 5) :
    let int := decide (s.getInts fa ||| s.getInts fb ≠ 0#4)
    let r : Fin 4 → FpResult := fun i =>
      addElement s.freeCtr s.fpcr i.val int (lane (s.getV fa) i.val) (lane (s.getV fb) i.val)
    ∃ t l, exec (.vaddd fa fb fc) s = .next t ∧
      EndsFloat s t fc (statusAt 52 (r 0) ||| statusAt 36 (r 1) ||| statusAt 20 (r 2) ||| statusAt 4 (r 3))
        (trapsAt s.fpcr 1 (r 0) ||| trapsAt s.fpcr 15 (r 1) ||| trapsAt s.fpcr 21 (r 2) ||| trapsAt s.fpcr 27 (r 3)) ∧
      writesOnlyV s t fc l ∧
      ∀ i, trapInv s.fpcr (r i) = false → trapOvf s.fpcr (r i) = false → l i = (r i).value := by
  intro int r
  let l : Fin 4 → W64 := fun i => elementValue s.freeCtr s.fpcr i.val (r i)
  have hdze : ∀ i, (r i).dze = false := fun i => (addElement_flags ..).1
  have hst : (statusAt 52 (r 0) ||| statusAt 36 (r 1) ||| statusAt 20 (r 2) ||| statusAt 4 (r 3)).getLsbD 1 = false := by
    rw [BitVec.getLsbD_or, BitVec.getLsbD_or, BitVec.getLsbD_or, getLsbD_statusAt _ (by decide),
      getLsbD_statusAt _ (by decide), getLsbD_statusAt _ (by decide), getLsbD_statusAt _ (by decide)]
    rfl
  obtain ⟨hends, hv⟩ := finishFloat_ends (s := s) (u := s.setV fc (ofLanes (l 0) (l 1) (l 2) (l 3)) 0) rfl fc
    (trapsAt s.fpcr 1 (r 0) ||| trapsAt s.fpcr 15 (r 1) ||| trapsAt s.fpcr 21 (r 2) ||| trapsAt s.fpcr 27 (r 3)) hst
  exact ⟨_, l, exec_vaddd hready fa fb fc, hends, writesOnlyV_congr hv (lane_ofLanes_apply l),
    fun i hinv hovf => elementValue_eq (hdze i) hinv hovf⟩

/-- Settles O56: the status bits, the traps and the destination. -/
theorem floatingTraps : Obligations.FloatingTraps := by
  intro s fa fb fc ctl on tInv tOvf tUnf tIne one traps status ends value
  have hctl : ctl.getLsbD 1 = s.fpcr.getLsbD 1 := excCtl_high s.fpcr
  have hinv : tInv = trapInv s.fpcr := funext fun r => by
    show (r.den || (r.inv && (ctl.getLsbD 1 || !on 49))) = _
    rw [hctl]
    rfl
  have hovf : tOvf = trapOvf s.fpcr := funext fun r => by
    show (r.ovf && (ctl.getLsbD 1 || !on 51)) = _
    rw [hctl]
    rfl
  have hunf : tUnf = trapUnf s.fpcr := funext fun r => by
    show (r.unf && (decide (ctl = 2#2) || (!ctl.getLsbD 1 && (!on 61 || !on 60)))) = _
    rw [hctl]
    rfl
  have htraps : traps = trapsAt s.fpcr := funext fun lo => funext fun r => by
    show one lo (tInv r) ||| one (lo + 2) (tOvf r) ||| one (lo + 3) (tUnf r) ||| one (lo + 4) (tIne r) = _
    rw [hinv, hovf, hunf]
    rfl
  refine ⟨fun hready => ?_, fun hready => ?_⟩
  · obtain ⟨t, w, hexec, hends, hw, hval⟩ := faddd_ends hready fa fb fc
    rw [htraps]
    exact ⟨t, w, hexec, hends, hw, fun hi ho => hval (hinv ▸ hi) (hovf ▸ ho)⟩
  · obtain ⟨t, l, hexec, hends, hl, hval⟩ := vaddd_ends hready fa fb fc
    rw [htraps]
    exact ⟨t, l, hexec, hends, hl, fun i hi ho => hval i (hinv ▸ hi) (hovf ▸ ho)⟩

end Sys2Proof.Machine

/-! ## The rounded sum and the denormal trap: settles O55 -/

namespace Sys2Proof.Machine

variable {s : State}

/-! ### The fields of a double -/

/-- The exponent field as a number. -/
theorem expField_eq (w : W64) : expField w = w.toNat / 2 ^ 52 % 2 ^ 11 := by
  rw [expField, BitVec.extractLsb'_toNat, Nat.shiftRight_eq_div_pow]

/-- The fraction field as a number. -/
theorem fracField_eq (w : W64) : fracField w = w.toNat % 2 ^ 52 := by
  rw [fracField, BitVec.extractLsb'_toNat, Nat.shiftRight_zero]

/-- The number of a word with its sign set. -/
theorem toNat_signed (neg : Bool) {bits : Nat} (h : bits < 2 ^ 63) :
    (signed neg bits).toNat = bits + if neg then 2 ^ 63 else 0 := by
  cases neg
  · exact Nat.mod_eq_of_lt (by omega)
  · show (BitVec.ofNat 64 bits ||| BitVec.twoPow 64 63).toNat = bits + 2 ^ 63
    rw [BitVec.toNat_or, BitVec.toNat_ofNat, BitVec.toNat_twoPow, Nat.mod_eq_of_lt (by omega : bits < 2 ^ 64),
      Nat.mod_eq_of_lt (by decide : 2 ^ 63 < 2 ^ 64), Nat.or_comm, Nat.add_comm]
    exact (Nat.two_pow_add_eq_or_of_lt h 1).symm

/-- The sign bit as a number. -/
theorem sign_eq (w : W64) : w.getLsbD 63 = decide (2 ^ 63 ≤ w.toNat) := BitVec.getLsbD_last w |>.trans rfl

/-- A double from its fields. -/
theorem fields_signed (neg : Bool) {e f : Nat} (he : e < 2048) (hf : f < 2 ^ 52) :
    expField (signed neg (e * 2 ^ 52 + f)) = e ∧ fracField (signed neg (e * 2 ^ 52 + f)) = f ∧
      (signed neg (e * 2 ^ 52 + f)).getLsbD 63 = neg := by
  have hbits : e * 2 ^ 52 + f < 2 ^ 63 := by omega
  rw [expField_eq, fracField_eq, sign_eq, toNat_signed neg hbits]
  cases neg
  · refine ⟨?_, ?_, decide_eq_false ?_⟩ <;> simp only [Bool.false_eq_true, if_false] <;> omega
  · refine ⟨?_, ?_, decide_eq_true ?_⟩ <;> simp only [if_true] <;> omega

/-- The fields of a double make it. -/
theorem signed_fields (w : W64) : signed (w.getLsbD 63) (expField w * 2 ^ 52 + fracField w) = w := by
  have hw := w.isLt
  apply BitVec.eq_of_toNat_eq
  rw [expField_eq, fracField_eq, sign_eq, toNat_signed _ (by omega)]
  by_cases h : 2 ^ 63 ≤ w.toNat
  · rw [decide_eq_true h, if_pos rfl]
    omega
  · rw [decide_eq_false h, if_neg Bool.false_ne_true]
    omega

/-- The value of a double that is not denormal. -/
theorem exactValue_signed (neg : Bool) {e f : Nat} (h1 : 1 ≤ e) (he : e < 2048) (hf : f < 2 ^ 52) :
    exactValue (signed neg (e * 2 ^ 52 + f)) =
      if neg then -(((2 ^ 52 + f) * 2 ^ (e - 1) : Nat) : Int) else (((2 ^ 52 + f) * 2 ^ (e - 1) : Nat) : Int) := by
  obtain ⟨hexp, hfrac, hsign⟩ := fields_signed neg he hf
  have hmag : magnitude (signed neg (e * 2 ^ 52 + f)) = (2 ^ 52 + f) * 2 ^ (e - 1) := by
    rw [magnitude, hexp, hfrac, if_neg (by omega)]
  rw [exactValue, hsign, hmag]

/-! ### Rounding -/

/-- How large a scaled significand is. -/
theorem two_pow_le_scaled_iff {e f : Nat} (k : Nat) (h1 : 1 ≤ e) (hf : f < 2 ^ 52) :
    2 ^ (52 + k) ≤ (2 ^ 52 + f) * 2 ^ (e - 1) ↔ k + 1 ≤ e := by
  constructor
  · intro h
    by_contra hlt
    have hexp : 2 ^ (e - 1) ≤ 2 ^ (k - 1) := Nat.pow_le_pow_right (by decide) (by omega)
    have hprod : (2 ^ 52 + f) * 2 ^ (e - 1) < 2 ^ 53 * 2 ^ (k - 1) :=
      Nat.mul_lt_mul_of_lt_of_le (by omega) hexp (Nat.two_pow_pos _)
    rw [← Nat.pow_add, show 53 + (k - 1) = 52 + k by omega] at hprod
    exact absurd h (by omega)
  · intro h
    rw [Nat.pow_add]
    exact Nat.mul_le_mul (Nat.le_add_right ..) (Nat.pow_le_pow_right (by decide) (by omega))

/-- The truncated significand of a magnitude that does not underflow has 53 bits. -/
theorem significand_bounds {m : Nat} (h : 2 ^ 52 ≤ m) :
    2 ^ 52 ≤ m / 2 ^ (m.log2 - 52) ∧ m / 2 ^ (m.log2 - 52) < 2 ^ 53 := by
  have hm : m ≠ 0 := by omega
  have hlog : 52 ≤ m.log2 := (Nat.le_log2 hm).2 h
  have hlow : 2 ^ m.log2 ≤ m := Nat.log2_self_le hm
  have hhigh : m < 2 ^ (m.log2 + 1) := Nat.lt_log2_self
  constructor
  · rw [Nat.le_div_iff_mul_le (Nat.two_pow_pos _), ← Nat.pow_add, Nat.add_sub_cancel' hlog]
    exact hlow
  · rw [Nat.div_lt_iff_lt_mul (Nat.two_pow_pos _), ← Nat.pow_add, show 53 + (m.log2 - 52) = m.log2 + 1 by omega]
    exact hhigh

/-- A rounded magnitude: its fields, and where it overflows (R563, R565). -/
theorem roundDouble_normal {m : Nat} (h : 2 ^ 52 ≤ m) (dyn : BitVec 2) (neg : Bool) :
    let u := 2 ^ (m.log2 - 52)
    let rounded := (m / u + if roundsUp dyn neg (m / u) (m % u) (m.log2 - 52) then 1 else 0) * u
    ∃ e f : Nat, 1 ≤ e ∧ f < 2 ^ 52 ∧ rounded = (2 ^ 52 + f) * 2 ^ (e - 1) ∧
      roundDouble dyn neg m = if 2047 ≤ e then { value := signed neg (overflowBits dyn neg), ovf := true, ine := true }
        else { value := signed neg (e * 2 ^ 52 + f), ine := decide (m % u ≠ 0) } := by
  intro u rounded
  obtain ⟨hlow, hhigh⟩ := significand_bounds h
  have hround : ∀ q : Nat, q = (if roundsUp dyn neg (m / u) (m % u) (m.log2 - 52) then m / u + 1 else m / u) →
      roundDouble dyn neg m = if 0x7FF * 2 ^ 52 ≤ (m.log2 - 52) * 2 ^ 52 + q then
          { value := signed neg (overflowBits dyn neg), ovf := true, ine := true }
        else { value := signed neg ((m.log2 - 52) * 2 ^ 52 + q), ine := decide (m % u ≠ 0) } := by
    intro q hq
    rw [hq, roundDouble, if_neg (by omega)]
  have hq : (m / u + if roundsUp dyn neg (m / u) (m % u) (m.log2 - 52) then 1 else 0) =
      if roundsUp dyn neg (m / u) (m % u) (m.log2 - 52) then m / u + 1 else m / u := by
    split <;> rfl
  have hrange : 2 ^ 52 ≤ m / u + (if roundsUp dyn neg (m / u) (m % u) (m.log2 - 52) then 1 else 0) ∧
      m / u + (if roundsUp dyn neg (m / u) (m % u) (m.log2 - 52) then 1 else 0) ≤ 2 ^ 53 := by
    split
    · exact ⟨Nat.le_add_right_of_le hlow, hhigh⟩
    · exact ⟨hlow, Nat.le_of_lt hhigh⟩
  have hround := hround _ hq
  show ∃ e f : Nat, 1 ≤ e ∧ f < 2 ^ 52 ∧
    (m / u + if roundsUp dyn neg (m / u) (m % u) (m.log2 - 52) then 1 else 0) * u = _ ∧ _
  generalize m / u + (if roundsUp dyn neg (m / u) (m % u) (m.log2 - 52) then 1 else 0) = q at hround hrange ⊢
  obtain ⟨hq0, hq1⟩ := hrange
  by_cases hcarry : q = 2 ^ 53
  · refine ⟨m.log2 - 52 + 2, 0, by omega, by decide, ?_, ?_⟩
    · rw [hcarry, Nat.add_zero, show m.log2 - 52 + 2 - 1 = 1 + (m.log2 - 52) by omega, Nat.pow_add, ← Nat.mul_assoc]
      rfl
    · rw [hround, show (m.log2 - 52) * 2 ^ 52 + q = (m.log2 - 52 + 2) * 2 ^ 52 + 0 by omega]
      exact if_congr (by omega) rfl rfl
  · refine ⟨m.log2 - 52 + 1, q - 2 ^ 52, by omega, by omega, ?_, ?_⟩
    · rw [Nat.add_sub_cancel, Nat.add_sub_cancel' hq0]
    · rw [hround, show (m.log2 - 52) * 2 ^ 52 + q = (m.log2 - 52 + 1) * 2 ^ 52 + (q - 2 ^ 52) by omega]
      exact if_congr (by omega) rfl rfl

/-- An exact magnitude rounds to itself. -/
theorem roundDouble_exact {e f : Nat} (h1 : 1 ≤ e) (he : e < 2047) (hf : f < 2 ^ 52) (dyn : BitVec 2) (neg : Bool) :
    roundDouble dyn neg ((2 ^ 52 + f) * 2 ^ (e - 1)) = { value := signed neg (e * 2 ^ 52 + f) } := by
  have hpos := Nat.two_pow_pos (e - 1)
  have hlog : ((2 ^ 52 + f) * 2 ^ (e - 1)).log2 = 52 + (e - 1) := by
    rw [Nat.log2_eq_iff (by positivity)]
    constructor
    · rw [Nat.pow_add]
      exact Nat.mul_le_mul_right _ (Nat.le_add_right ..)
    · rw [show 52 + (e - 1) + 1 = 53 + (e - 1) by omega, Nat.pow_add]
      exact Nat.mul_lt_mul_of_pos_right (by omega) hpos
  have hdiv : (2 ^ 52 + f) * 2 ^ (e - 1) / 2 ^ (e - 1) = 2 ^ 52 + f := Nat.mul_div_cancel _ hpos
  have hmod : (2 ^ 52 + f) * 2 ^ (e - 1) % 2 ^ (e - 1) = 0 := Nat.mul_mod_left ..
  have hnot : roundsUp dyn neg (2 ^ 52 + f) 0 (e - 1) = false := by
    obtain rfl | rfl | rfl | rfl := mode_cases dyn
    · rfl
    · exact Bool.and_false _
    · show (decide (2 ^ (e - 1) < 0) || (decide (0 = 2 ^ (e - 1)) && _)) = false
      rw [decide_eq_false (by omega), decide_eq_false (by omega)]
      rfl
    · exact Bool.and_false _
  have hbig : ¬(2 ^ 52 + f) * 2 ^ (e - 1) < 2 ^ 52 := by
    have := Nat.mul_le_mul (Nat.le_add_right (2 ^ 52) f) hpos
    omega
  rw [roundDouble, if_neg hbig, hlog, Nat.add_sub_cancel_left]
  dsimp only
  rw [hdiv, hmod, hnot, if_neg Bool.false_ne_true, if_neg (by omega),
    show (e - 1) * 2 ^ 52 + (2 ^ 52 + f) = e * 2 ^ 52 + f by omega]
  rfl

/-! ### One element of an addition -/

/-- On floating data an element is added. -/
theorem addElement_data (ctr : Nat) (fpcr : W64) (i : Nat) (a b : W64) :
    addElement ctr fpcr i false a b = addDoubles ctr fpcr i a b := if_neg Bool.false_ne_true

/-- An operand that is not denormal stands. -/
theorem flushed_of_normal {w : W64} (h : isDenormal w = false) : flushed w = w := if_neg (by rw [h]; decide)

/-- Operands that are not denormal take no Denormal trap. -/
theorem denormalTraps_of_normal (fpcr : W64) {a b : W64} (ha : isDenormal a = false) (hb : isDenormal b = false) :
    denormalTraps fpcr a b = false := by
  rw [denormalTraps, ha, hb]
  rfl

/-- A finite number, by its exponent field. -/
theorem nonFinite_eq_false {w : W64} (h : expField w ≠ 0x7FF) : nonFinite w = false := decide_eq_false h

/-- An operand that is not finite raises INV (R200). -/
theorem addDoubles_nonFinite (ctr : Nat) (fpcr : W64) (i : Nat) {a b : W64} (ha : isDenormal a = false)
    (hb : isDenormal b = false) (h : expField a = 0x7FF ∨ expField b = 0x7FF) :
    addDoubles ctr fpcr i a b = { value := invalidSum ctr i a b, inv := true } := by
  have hnon : (nonFinite a || nonFinite b) = true :=
    Bool.or_eq_true_iff.2 (h.imp (fun h => decide_eq_true h) fun h => decide_eq_true h)
  rw [addDoubles]
  dsimp only
  rw [denormalTraps_of_normal fpcr ha hb, if_neg Bool.false_ne_true, flushed_of_normal ha, flushed_of_normal hb, if_pos hnon]

/-- Finite operands: the exact sum, rounded (R875). -/
theorem addDoubles_finite (ctr : Nat) (fpcr : W64) (i : Nat) {a b : W64} (ha : isDenormal a = false)
    (hb : isDenormal b = false) (hea : expField a ≠ 0x7FF) (heb : expField b ≠ 0x7FF) :
    addDoubles ctr fpcr i a b = if exactValue a + exactValue b = 0 then
        { value := if a = b then a else signed (decide (fpcr.extractLsb' 58 2 = 0b01#2)) 0 }
      else roundDouble (fpcr.extractLsb' 58 2) (decide (exactValue a + exactValue b < 0))
        (exactValue a + exactValue b).natAbs := by
  rw [addDoubles]
  dsimp only
  rw [denormalTraps_of_normal fpcr ha hb, if_neg Bool.false_ne_true, flushed_of_normal ha, flushed_of_normal hb,
    nonFinite_eq_false hea, nonFinite_eq_false heb, Bool.or_false, if_neg Bool.false_ne_true]

/-- A zero of either sign. -/
theorem exactValue_zero (neg : Bool) : exactValue (signed neg 0) = 0 := by
  cases neg <;> decide

/-- Whether the rounding mode takes the next larger magnitude, of a value `e` (R200). -/
def takesNext (dyn : BitVec 2) (e : Int) (m u : Nat) : Bool :=
  match dyn with
  | 0#2 => false
  | 1#2 => decide (e < 0) && decide (m % u ≠ 0)
  | 2#2 => decide (u < 2 * (m % u)) || (decide (2 * (m % u) = u) && decide (m / u % 2 = 1))
  | _ => decide (0 < e) && decide (m % u ≠ 0)

/-- It is what the model asks of a value that is not 0. -/
theorem takesNext_eq (dyn : BitVec 2) {e : Int} (he : e ≠ 0) (m sh : Nat) :
    takesNext dyn e m (2 ^ sh) = roundsUp dyn (decide (e < 0)) (m / 2 ^ sh) (m % 2 ^ sh) sh := by
  have hsign : decide (0 < e) = !decide (e < 0) := by
    by_cases h : e < 0
    · rw [decide_eq_true h, decide_eq_false (by omega)]
      rfl
    · rw [decide_eq_false h, decide_eq_true (by omega)]
      rfl
  obtain rfl | rfl | rfl | rfl := mode_cases dyn
  · rfl
  · rfl
  · rfl
  · exact congrArg (fun b => b && decide (m % 2 ^ sh ≠ 0)) hsign

/-- The sum of two finite doubles, neither of them denormal (R563, R565, R566). -/
theorem addElement_rounded (ctr : Nat) (fpcr : W64) (i : Nat) {a b : W64} (ha : isDenormal a = false)
    (hb : isDenormal b = false) (hea : expField a ≠ 0x7FF) (heb : expField b ≠ 0x7FF) :
    let r := addElement ctr fpcr i false a b
    let e := exactValue a + exactValue b
    let m := e.natAbs
    let u := 2 ^ (m.log2 - 52)
    let up := takesNext (fpcr.extractLsb' 58 2) e m u
    let rounded : Nat := (m / u + if up then 1 else 0) * u
    r.inv = false ∧ r.den = false ∧ r.dze = false ∧ r.ovi = false ∧
    (m = 0 → exactValue r.value = 0 ∧ r.ovf = false ∧ r.unf = false ∧ r.ine = false) ∧
    (0 < m → m < 2 ^ 52 → r.value = 0 ∧ r.unf = true ∧ r.ine = true ∧ r.ovf = false) ∧
    (2 ^ 52 ≤ m → r.unf = false ∧ (r.ovf = true ↔ 2 ^ 2098 ≤ rounded) ∧
      (rounded < 2 ^ 2098 → expField r.value ≠ 0 ∧ expField r.value ≠ 0x7FF ∧
        exactValue r.value = (if e < 0 then -(rounded : Int) else (rounded : Int)) ∧ r.ine = decide (m % u ≠ 0)) ∧
      (2 ^ 2098 ≤ rounded → r.ine = true)) := by
  intro r e m u up rounded
  have hr : r = if e = 0 then { value := if a = b then a else signed (decide (fpcr.extractLsb' 58 2 = 0b01#2)) 0 }
      else roundDouble (fpcr.extractLsb' 58 2) (decide (e < 0)) m :=
    (addElement_data ..).trans (addDoubles_finite ctr fpcr i ha hb hea heb)
  by_cases he : e = 0
  · have hm : m = 0 := Int.natAbs_eq_zero.2 he
    rw [if_pos he] at hr
    rw [hr]
    refine ⟨rfl, rfl, rfl, rfl, fun _ => ⟨?_, rfl, rfl, rfl⟩, fun h => absurd h (by omega), fun h => absurd h (by omega)⟩
    show exactValue (if a = b then a else _) = 0
    split
    next hab =>
      have hsum : exactValue a + exactValue b = 0 := he
      rw [← hab] at hsum
      omega
    next => exact exactValue_zero _
  · have hm : m ≠ 0 := fun h => he (Int.natAbs_eq_zero.1 h)
    rw [if_neg he] at hr
    by_cases hsmall : m < 2 ^ 52
    · have hunder : r = { value := 0, unf := true, ine := true } := by
        rw [hr, roundDouble, if_pos hsmall]
      rw [hunder]
      exact ⟨rfl, rfl, rfl, rfl, fun h => absurd h hm, fun _ _ => ⟨rfl, rfl, rfl, rfl⟩, fun h => absurd h (by omega)⟩
    · obtain ⟨x, f, h1, hf, hrounded, hround⟩ := roundDouble_normal (show 2 ^ 52 ≤ m by omega) (fpcr.extractLsb' 58 2) (decide (e < 0))
      rw [← takesNext_eq _ he] at hrounded
      rw [hround] at hr
      have hrounded : rounded = (2 ^ 52 + f) * 2 ^ (x - 1) := hrounded
      have hover : 2 ^ 2098 ≤ rounded ↔ 2047 ≤ x := by
        rw [hrounded, show (2098 : Nat) = 52 + 2046 from rfl]
        exact two_pow_le_scaled_iff 2046 h1 hf
      by_cases hx : 2047 ≤ x
      · rw [if_pos hx] at hr
        rw [hr]
        exact ⟨rfl, rfl, rfl, rfl, fun h => absurd h hm, fun _ h => absurd h hsmall,
          fun _ => ⟨rfl, iff_of_true rfl (hover.2 hx), fun h => absurd (hover.2 hx) (Nat.not_le.2 h), fun _ => rfl⟩⟩
      · rw [if_neg hx] at hr
        rw [hr]
        obtain ⟨hexp, -, -⟩ := fields_signed (decide (e < 0)) (show x < 2048 by omega) hf
        refine ⟨rfl, rfl, rfl, rfl, fun h => absurd h hm, fun _ h => absurd h hsmall,
          fun _ => ⟨rfl, iff_of_false Bool.false_ne_true fun h => hx (hover.1 h), fun _ => ⟨?_, ?_, ?_, rfl⟩,
            fun h => absurd (hover.1 h) hx⟩⟩
        · exact fun h => absurd (hexp.symm.trans h) (by omega)
        · exact fun h => absurd (hexp.symm.trans h) (by omega)
        · refine (exactValue_signed _ h1 (by omega) hf).trans ?_
          rw [← hrounded]
          exact if_congr decide_eq_true_iff rfl rfl

/-- An exact sum that is a double is the result, without a flag (R875). -/
theorem addElement_exact (ctr : Nat) (fpcr : W64) (i : Nat) {a b w : W64} (hea : expField a ≠ 0x7FF)
    (heb : expField b ≠ 0x7FF) (ha : isDenormal a = false) (hb : isDenormal b = false) (hw0 : expField w ≠ 0)
    (hw : expField w ≠ 0x7FF) (hsum : exactValue a + exactValue b = exactValue w) :
    addElement ctr fpcr i false a b = { value := w } := by
  have hexp : expField w < 2048 := by
    rw [expField_eq]
    exact Nat.mod_lt _ (by decide)
  have hfrac : fracField w < 2 ^ 52 := by
    rw [fracField_eq]
    exact Nat.mod_lt _ (by decide)
  have hmag : magnitude w = (2 ^ 52 + fracField w) * 2 ^ (expField w - 1) := if_neg hw0
  have hpos : 0 < magnitude w := by
    rw [hmag]
    positivity
  have hvalue : exactValue w = if w.getLsbD 63 then -(magnitude w : Int) else magnitude w := rfl
  have hne : exactValue w ≠ 0 := by
    rw [hvalue]
    split <;> omega
  have habs : (exactValue w).natAbs = magnitude w := by
    rw [hvalue]
    split <;> omega
  have hneg : decide (exactValue w < 0) = w.getLsbD 63 := by
    rw [hvalue]
    cases w.getLsbD 63
    · exact decide_eq_false (by rw [if_neg Bool.false_ne_true]; omega)
    · exact decide_eq_true (by rw [if_pos rfl]; omega)
  rw [addElement_data, addDoubles_finite ctr fpcr i ha hb hea heb, hsum, if_neg hne, hneg, habs, hmag,
    roundDouble_exact (by omega) (by omega) hfrac, signed_fields]

/-- Where DNZ acts a denormal is the zero of its sign (R204). -/
theorem flushed_flushZero {w : W64} (h : isDenormal w = true) : flushed w = flushed (flushZero w) := by
  have hfrac : fracField (flushZero w) = 0 := by
    have hmask : ∀ n, n < 52 → (0x8000000000000000#64).getLsbD n = false := by decide
    have hzero : (flushZero w).extractLsb' 0 52 = 0#52 := by
      apply BitVec.eq_of_getLsbD_eq
      intro n hn
      rw [BitVec.getLsbD_extractLsb', Nat.zero_add, flushZero]
      show (_ && (w &&& 0x8000000000000000#64).getLsbD n) = _
      rw [BitVec.getLsbD_and, hmask n hn, Bool.and_false, Bool.and_false, BitVec.getLsbD_zero]
    rw [fracField, hzero]
    rfl
  have hzero : isDenormal (flushZero w) = false := by
    rw [isDenormal, hfrac]
    exact Bool.and_false _
  rw [flushed_of_normal hzero, flushed, if_pos h]

/-- An addition in which no Denormal trap is possible depends on what DNZ hands on (R204). -/
theorem addDoubles_congr (ctr : Nat) {fpcr : W64} (i : Nat) (hmode : denormalMode fpcr = false) {a b a' b' : W64}
    (ha : flushed a = flushed a') (hb : flushed b = flushed b') :
    addDoubles ctr fpcr i a b = addDoubles ctr fpcr i a' b' := by
  have hnone : ∀ x y, denormalTraps fpcr x y = false := fun x y => by
    rw [denormalTraps, hmode]
    exact Bool.and_false _
  unfold addDoubles
  rw [hnone, hnone, ha, hb]

/-- The Denormal trap (R564). -/
theorem addElement_denormal (ctr : Nat) {fpcr : W64} (i : Nat) {a b : W64}
    (hmode : fpcr.getLsbD 1 = true ∨ fpcr.getLsbD 48 = false) (h : isDenormal a = true ∨ isDenormal b = true) :
    addElement ctr fpcr i false a b = { value := 0, den := true } := by
  have hm : denormalMode fpcr = true := by
    rcases hmode with h | h <;> rw [denormalMode, h]
    · rfl
    · exact Bool.or_true _
  have htrap : denormalTraps fpcr a b = true := by
    rw [denormalTraps, hm, Bool.and_true]
    exact Bool.or_eq_true_iff.2 h
  rw [addElement_data, addDoubles, htrap]
  rfl

/-! ### The instructions -/

/-- A floating instruction that raises nothing retires (R561). -/
theorem finishFloat_clean (u : State) (fc : BitVec 5) : finishFloat u fc 0 0 = u.retire .plain := by
  have hu : { u with fpcr := u.fpcr ||| 0 } = u := congrArg (fun w => { u with fpcr := w }) BitVec.or_zero
  rw [finishFloat, if_pos rfl, hu]
  rfl

/-- A result without flags records nothing and traps nothing. -/
theorem clean_bits (fpcr : W64) (lo : Nat) (w : W64) :
    statusAt lo { value := w } = 0 ∧ trapsAt fpcr lo { value := w } = 0 := by
  have hinv : trapInv fpcr { value := w } = false := rfl
  have hovf : trapOvf fpcr { value := w } = false := rfl
  have hunf : trapUnf fpcr { value := w } = false := rfl
  have hine : trapIne fpcr { value := w } = false := rfl
  have hnone : flagAt lo false ||| flagAt (lo + 2) false ||| flagAt (lo + 3) false ||| flagAt (lo + 4) false = 0 := by
    have hfalse : ∀ n, flagAt n false = 0#64 := fun _ => rfl
    rw [hfalse, hfalse, hfalse, hfalse]
    rfl
  refine ⟨hnone, ?_⟩
  rw [trapsAt, hinv, hovf, hunf, hine]
  exact hnone

/-- The bits of a Denormal trap (R564, R569). -/
theorem denormal_bits (fpcr : W64) (lo : Nat) (w : W64) : statusAt lo { value := w, den := true } = 0 ∧
    trapsAt fpcr lo { value := w, den := true } = BitVec.twoPow 64 lo := by
  have hinv : trapInv fpcr { value := w, den := true } = true := rfl
  have hovf : trapOvf fpcr { value := w, den := true } = false := rfl
  have hunf : trapUnf fpcr { value := w, den := true } = false := rfl
  have hine : trapIne fpcr { value := w, den := true } = false := rfl
  refine ⟨rfl, ?_⟩
  rw [trapsAt, hinv, hovf, hunf, hine]
  show BitVec.twoPow 64 lo ||| 0#64 ||| 0#64 ||| 0#64 = _
  rw [BitVec.or_zero, BitVec.or_zero, BitVec.or_zero]

/-- A result without flags is written (R570). -/
theorem elementValue_clean (ctr : Nat) (fpcr : W64) (i : Nat) (w : W64) : elementValue ctr fpcr i { value := w } = w :=
  elementValue_eq rfl rfl rfl

/-- FADDD of floating data whose sum is a double. -/
theorem faddd_exact {fa fb fc : BitVec 5} {w : W64} (hready : ready s .scalar) (hia : (s.getInts fa).getLsbD 0 = false)
    (hib : (s.getInts fb).getLsbD 0 = false)
    (hadd : addElement s.freeCtr s.fpcr 0 false (s.getF fa) (s.getF fb) = { value := w }) :
    ∃ t, exec (.faddd fa fb fc) s = .next t ∧ resultF s t .plain fc w := by
  have hexec := exec_faddd hready fa fb fc
  dsimp only at hexec
  obtain ⟨hst, -⟩ := clean_bits s.fpcr 52 w
  obtain ⟨-, htr⟩ := clean_bits s.fpcr 1 w
  rw [hia, hib, Bool.or_false, hadd, elementValue_clean, hst, htr, finishFloat_clean] at hexec
  exact ⟨_, hexec, resultF_retire ..⟩

/-- What VADDD answers where its elements come to `r`. -/
theorem exec_vaddd_of (hready : ready s .simd) {fa fb : BitVec 5} (fc : BitVec 5) {r : Fin 4 → FpResult}
    (hr : ∀ i : Fin 4, addElement s.freeCtr s.fpcr i.val (decide (s.getInts fa ||| s.getInts fb ≠ 0#4))
      (lane (s.getV fa) i.val) (lane (s.getV fb) i.val) = r i) :
    exec (.vaddd fa fb fc) s = .next (finishFloat (s.setV fc (ofLanes (elementValue s.freeCtr s.fpcr 0 (r 0))
        (elementValue s.freeCtr s.fpcr 1 (r 1)) (elementValue s.freeCtr s.fpcr 2 (r 2))
        (elementValue s.freeCtr s.fpcr 3 (r 3))) 0) fc
      (statusAt 52 (r 0) ||| statusAt 36 (r 1) ||| statusAt 20 (r 2) ||| statusAt 4 (r 3))
      (trapsAt s.fpcr 1 (r 0) ||| trapsAt s.fpcr 15 (r 1) ||| trapsAt s.fpcr 21 (r 2) ||| trapsAt s.fpcr 27 (r 3))) := by
  obtain rfl := funext hr
  exact exec_vaddd hready fa fb fc

/-- VADDD of floating data whose sums are doubles. -/
theorem vaddd_exact {fa fb fc : BitVec 5} {l : Fin 4 → W64} (hready : ready s .simd) (hia : s.getInts fa = 0)
    (hib : s.getInts fb = 0) (hadd : ∀ i : Fin 4, addElement s.freeCtr s.fpcr i.val false (lane (s.getV fa) i.val)
      (lane (s.getV fb) i.val) = { value := l i }) :
    ∃ t, exec (.vaddd fa fb fc) s = .next t ∧ resultV s t .plain fc l := by
  have hexec := exec_vaddd_of hready (fa := fa) (fb := fb) fc (r := fun i => { value := l i }) fun i => by
    rw [hia, hib]
    exact hadd i
  have hclean : ∀ lo w, statusAt lo { value := w } = 0 := fun lo w => (clean_bits s.fpcr lo w).1
  have hnone : ∀ lo w, trapsAt s.fpcr lo { value := w } = 0 := fun lo w => (clean_bits s.fpcr lo w).2
  simp only [hclean, hnone, elementValue_clean, BitVec.or_self, finishFloat_clean] at hexec
  exact ⟨_, hexec, resultV_retire_of (lane_ofLanes_apply l)⟩

/-- FADDD with a denormal operand enters ARITH (R561, R564). -/
theorem faddd_denormal {fa fb fc : BitVec 5} (hready : ready s .scalar) (hia : (s.getInts fa).getLsbD 0 = false)
    (hib : (s.getInts fb).getLsbD 0 = false)
    (hadd : addElement s.freeCtr s.fpcr 0 false (s.getF fa) (s.getF fb) = { value := 0, den := true }) :
    ∃ t w, exec (.faddd fa fb fc) s = .next t ∧ t.pc = s.entry 0xB80 ∧ t.csr.excPc = sext53 s.pc ∧
      excSumIs t fc (BitVec.twoPow 64 1 ||| (BitVec.ofBool (!s.fpcr.getLsbD 1)).setWidth 64) ∧
      writesOnlyF s t fc w ∧ t.fpcr = s.fpcr ∧ t.x = s.x ∧ t.sr = s.sr ∧ sameMem s t ∧
      t.lock = { s.lock with valid := false } := by
  have hends := faddd_ends hready fa fb fc
  dsimp only at hends
  rw [hia, hib, Bool.or_false, hadd] at hends
  obtain ⟨t, w, hexec, ⟨hf, hx, hsr, hm, -, hstop⟩, hw, -⟩ := hends
  obtain ⟨hstatus, hbits⟩ := denormal_bits s.fpcr 1 0
  obtain ⟨hpc, hexc, hl, hsum⟩ := hstop (by rw [hbits]; decide)
  have hflag : ∀ b : Bool, flagAt 0 b = (BitVec.ofBool b).setWidth 64 := by decide
  rw [hbits, excCtl_high, hflag] at hsum
  exact ⟨t, w, hexec, hpc, hexc, hsum, hw, hf.trans BitVec.or_zero, hx, hsr, hm, hl⟩

/-- Settles O55: rounding, DNZ, the Denormal trap and the exact sums. -/
theorem floatingAdds : Obligations.FloatingAdds := by
  refine ⟨fun ctr i fpcr a b ha hb => ⟨fun hnon => ?_, fun hea heb => addElement_rounded ctr fpcr i ha hb hea heb⟩,
    fun ctr i fpcr a b hctl hdnz => ?_, fun ctr i fpcr a b hmode hden => ?_, fun s fa fb fc => ⟨?_, ?_⟩,
    fun s fa fb fc hready hia hib hden hmode => ?_⟩
  · rw [addElement_data, addDoubles_nonFinite ctr fpcr i ha hb hnon]
    exact ⟨rfl, rfl, rfl, rfl, rfl⟩
  · have hmode : denormalMode fpcr = false := by
      rw [denormalMode, hctl, hdnz]
      rfl
    rw [addElement_data, addElement_data, addElement_data]
    exact ⟨fun ha => addDoubles_congr ctr i hmode (flushed_flushZero ha) rfl,
      fun hb => addDoubles_congr ctr i hmode rfl (flushed_flushZero hb)⟩
  · rw [addElement_denormal ctr i hmode hden]
    exact ⟨rfl, rfl, rfl, rfl, rfl, rfl, rfl⟩
  · rintro w hready hia hib ⟨hea, heb, ha, hb, hw0, hw, hsum⟩
    exact faddd_exact hready hia hib (addElement_exact _ _ _ hea heb ha hb hw0 hw hsum)
  · intro l hready hia hib hgood
    refine vaddd_exact hready hia hib fun i => ?_
    obtain ⟨hea, heb, ha, hb, hw0, hw, hsum⟩ := hgood i
    exact addElement_exact _ _ _ hea heb ha hb hw0 hw hsum
  · exact faddd_denormal hready hia hib (addElement_denormal _ _ hmode.symm hden)

end Sys2Proof.Machine
